-- ==== Sys2Proof/Word.lean ====
section
/-! DEFINITION. The words of the part: bytes of the link and the flash, 16-bit samples, echo taps, the
millisecond timestamp, and the index types of its tables (00_scope.md section 2, section 6.1). -/

namespace Sys2Proof

/-- A byte of the control link, a payload field or the flash. -/
abbrev Byte := BitVec 8

/-- A sample: 16-bit linear (00 section 6.1). -/
abbrev Sample := BitVec 16

/-- An echo tap. A 512-byte segment holds 128 of them, 32 bits each (05; log 12). -/
abbrev Tap := BitVec 32

/-- The timestamp counter's value in milliseconds, wrapping at 2^32 (R164). -/
abbrev Stamp := BitVec 32

/-- A position, 0–47. -/
abbrev PosIx := Fin 48

/-- A trunk call leg, 0–63. -/
abbrev LegIx := Fin 64

/-- A hold group, 0–7. -/
abbrev GroupIx := Fin 8

/-- A cue list, 0–31. -/
abbrev CueIx := Fin 32

/-- A playback cursor by its link code: 0–7 is G0–G7, 8–55 is P0–P47 (R188). -/
abbrev CurIx := Fin 56

/-- A segment of the Segment Pool, 0–383. -/
abbrev SegIx := Fin 384

/-- A flash sector, 0–255. -/
abbrev SectorIx := Fin 256

/-- An announcement slot, 0–3. -/
abbrev SlotIx := Fin 4

/-- A clip id, 1–127; the place 0 of the directory is never used. -/
abbrev ClipIx := Fin 128

end Sys2Proof
end

