-- ==== Sys2Proof/Syntax.lean ====
section
/-! DEFINITION. The commands of the AC48: one constructor for each row of spec/opcode_table.json. The
forty requests carry the TAG and the payload bytes of their frame, laid out as Table 12-3 gives (log 4).
The other rows carry what the outside world supplies with the event. -/

namespace Sys2Proof

/-- One command: a request of the host, a byte or a time-out on the link, a subframe, a frame of the
highways, the end of a counter, or a report of the flash device. -/
inductive Instr where
  /-- POWER_ON (R186). Supply reaches its operating level and every block takes its power-on reset, with STARTED placed in the notice queue and the clip store set to SCANNING. -/
  | powerOn
  /-- PIN_RESET (R186). A low pulse on RESET has the same effect as power-on; TXD is held high and NOTIFY is deasserted while RESET is low. -/
  | pinReset
  /-- RESTART (R185). At the end of the RSTR reply's last CHECK byte every block takes its restart, in the order R91 gives for the PBU and CSC; the link rate is kept and queued requests are discarded. -/
  | restart
  /-- LINK_RATE_SWITCH (R182). At the end of the LRAT reply the new rate applies to both lines, and a frame being received is abandoned without a count. -/
  | linkRateSwitch
  /-- RECEIVE_BYTE (R178). A character arrives on RXD and the receive assembler hunts for SYNC, counts LEN, body and CHECK, and accepts or discards the frame. -/
  | receiveByte (b : Byte) (stop : Bool)
  /-- LINE_BREAK (R178). RXD is held low for more than 10 bit times; a frame being assembled is discarded with cause FRAMING. -/
  | lineBreak
  /-- GAP_TIMEOUT (R178). 5 ms pass without the next byte of a frame being assembled, and the frame is discarded with cause GAP. -/
  | gapTimeout
  /-- REPLY_FRAME_START (R181). When TXD is free, the outgoing arbiter begins the oldest ready reply. -/
  | replyFrameStart
  /-- NOTICE_FRAME_START (R171). In PUSH mode, with no reply ready and TXD free, the head notice record leaves the queue as its notice frame begins. -/
  | noticeFrameStart
  /-- FRAME_TRANSMIT_END (R181). The last byte of an outgoing frame is sent; a reply's request leaves the request queue and TXD falls free. -/
  | frameTransmitEnd
  /-- PCFG (R14). Sets all configuration of one position and hands the suppressor level and threshold to the NSU. -/
  | pcfg (tag : BitVec 16) (payload : List Byte)
  /-- PQRY (R15). Returns a Position Record and clears its PRESENT_CHANGED and MUTE_CHANGED deltas. -/
  | pqry (tag : BitVec 16) (payload : List Byte)
  /-- PMUT (R17). Sets or clears the host mute flag, and may change effective mute. -/
  | pmut (tag : BitVec 16) (payload : List Byte)
  /-- PLPB (R18). Moves a position into LOOPBACK or back out of it to IDLE. -/
  | plpb (tag : BitVec 16) (payload : List Byte)
  /-- NQRY (R71). Returns the learned state of a position's suppressor. -/
  | nqry (tag : BitVec 16) (payload : List Byte)
  /-- BIND (R25). Binds a FREE or PARKED leg to an IDLE position, either TALKING at once or CONNECTING with a connect entry. -/
  | bind (tag : BitVec 16) (payload : List Byte)
  /-- PARK (R22). Places a leg in a hold group from any state. -/
  | park (tag : BitVec 16) (payload : List Byte)
  /-- RELS (R33). Releases a leg to FREE and ends everything the AC48 holds for it. -/
  | rels (tag : BitVec 16) (payload : List Byte)
  /-- LQRY (R41). Returns a Leg Record and a summary of its canceller. -/
  | lqry (tag : BitVec 16) (payload : List Byte)
  /-- ECHO (R54). Sets a leg's echo mode and requested tail, with an optional reset of the canceller. -/
  | echo (tag : BitVec 16) (payload : List Byte)
  /-- SPRS (R85). Sets the Segment Pool reserve and runs a grant pass. -/
  | sprs (tag : BitVec 16) (payload : List Byte)
  /-- SPQY (R86). Returns the pool counts and a page of the wait list. -/
  | spqy (tag : BitVec 16) (payload : List Byte)
  /-- CDEF (R88). Replaces a whole cue list. -/
  | cdef (tag : BitVec 16) (payload : List Byte)
  /-- CQRY (R89). Returns a cue list or a cursor record. -/
  | cqry (tag : BitVec 16) (payload : List Byte)
  /-- GSRC (R109). Sets a hold group's source, resume flag and park alarm time. -/
  | gsrc (tag : BitVec 16) (payload : List Byte)
  /-- GQRY (R112). Returns a hold group record and its members. -/
  | gqry (tag : BitVec 16) (payload : List Byte)
  /-- WPST (R120). Posts a whisper entry to a position and schedules it. -/
  | wpst (tag : BitVec 16) (payload : List Byte)
  /-- WFLS (R123). Removes a position's whisper entries of the named levels and reports its whisper summary. -/
  | wfls (tag : BitVec 16) (payload : List Byte)
  /-- CATT (R127). Makes a coach pair, pending or active, possibly replacing a pending pair. -/
  | catt (tag : BitVec 16) (payload : List Byte)
  /-- CDET (R130). Ends the coach pair of a position with reason DETACHED. -/
  | cdet (tag : BitVec 16) (payload : List Byte)
  /-- ANNC (R132). Starts an announcement slot counting, or posts it at once for a delay of 0. -/
  | annc (tag : BitVec 16) (payload : List Byte)
  /-- ACAN (R134). Cancels a COUNTING announcement slot. -/
  | acan (tag : BitVec 16) (payload : List Byte)
  /-- OPEN (R140). Reserves sectors and creates a WRITING directory entry for a new clip. -/
  | openClip (tag : BitVec 16) (payload : List Byte)
  /-- DATA (R141). Takes sample bytes into the page buffers and requests page programs. -/
  | data (tag : BitVec 16) (payload : List Byte)
  /-- FINI (R143). Sets the finishing mark of the WRITING clip and requests its last data page. -/
  | fini (tag : BitVec 16) (payload : List Byte)
  /-- DROP (R144). Abandons the clip being written. -/
  | drop (tag : BitVec 16) (payload : List Byte)
  /-- RTIR (R152). Retires a VALID clip. -/
  | rtir (tag : BitVec 16) (payload : List Byte)
  /-- RSTO (R154). Returns a RETIRING clip to VALID. -/
  | rsto (tag : BitVec 16) (payload : List Byte)
  /-- PROT (R155). Protects a clip, adding a protect program where the header is already on flash. -/
  | prot (tag : BitVec 16) (payload : List Byte)
  /-- LIST (R160). Returns a page of the clip directory. -/
  | listClips (tag : BitVec 16) (payload : List Byte)
  /-- STOR (R161). Returns the store state, sector counts, queues and current flash operation. -/
  | stor (tag : BitVec 16) (payload : List Byte)
  /-- FRMT (R156). Removes every directory entry and queues every CLIP sector for erase. -/
  | frmt (tag : BitVec 16) (payload : List Byte)
  /-- ROUT (R174). Reads or sets the route table entry of an event kind. -/
  | rout (tag : BitVec 16) (payload : List Byte)
  /-- NMOD (R172). Sets the delivery mode to POLL or PUSH. -/
  | nmod (tag : BitVec 16) (payload : List Byte)
  /-- NFET (R170). Removes and returns up to 8 notice records in POLL mode. -/
  | nfet (tag : BitVec 16) (payload : List Byte)
  /-- NCLR (R173). Empties the notice queue and clears the overflow flag. -/
  | nclr (tag : BitVec 16) (payload : List Byte)
  /-- IDNT (R183). Returns the fixed identity and capacities of the part. -/
  | idnt (tag : BitVec 16) (payload : List Byte)
  /-- STAT (R184). Returns store, pool, notice and link status. -/
  | stat (tag : BitVec 16) (payload : List Byte)
  /-- LRAT (R182). Accepts a new link rate, which applies after the reply. -/
  | lrat (tag : BitVec 16) (payload : List Byte)
  /-- RSTR (R185). Is answered OK and stops later requests from being taken until the restart. -/
  | rstr (tag : BitVec 16) (payload : List Byte)
  /-- STATUS_SUBFRAME (R5). A status subframe of a position slot arrives; if valid it restarts the link timer, updates the mute key and runs the presence debounce. -/
  | statusSubframe (p : PosIx) (present key valid : Bool)
  /-- LINK_TIMER_EXPIRY (R4). 20 ms pass without a valid subframe; the link is lost and a present headset is lost with cause LINK_LOST. -/
  | linkTimerExpiry (p : PosIx)
  /-- HIGHWAY_FRAME (R11). One 0.125 ms sample period: earpiece mixes, outbounds, cancellation, suppressor sample intake and cursor output are produced. -/
  | highwayFrame (mic trunk : List Sample)
  /-- ECHO_WINDOW_END (R52). At the end of each 4 ms window the canceller sets double talk, updates ERLE and advances the convergence timer. -/
  | echoWindowEnd (n : LegIx)
  /-- CONVERGENCE_TIMER_EXPIRY (R53). The convergence timer reaches 500 ms and the working state changes, raising ECHO_CONVERGED on entry to CONVERGED. -/
  | convergenceTimerExpiry (n : LegIx)
  /-- ANALYSIS_BLOCK_END (R60). Every 8 ms the suppressor makes the speech decision, learns, times the alarm and suppresses the block. -/
  | analysisBlockEnd (p : PosIx)
  /-- HANGOVER_EXPIRY (R61). The hangover count reaches 200 ms and the speech flag is cleared. -/
  | hangoverExpiry (p : PosIx)
  /-- HIGH_TIMER_EXPIRY (R68). The high timer reaches 2,000 ms; the alarm becomes HIGH and NOISE_HIGH is raised. -/
  | highTimerExpiry (p : PosIx)
  /-- LOW_TIMER_EXPIRY (R69). The low timer reaches 2,000 ms; the alarm becomes NORMAL and NOISE_NORMAL is raised. -/
  | lowTimerExpiry (p : PosIx)
  /-- CONNECT_TIMER_EXPIRY (R30). The connect timer of a CONNECTING leg reaches zero; the connect entry is removed and the leg cuts through with TIMEOUT. -/
  | connectTimerExpiry (n : LegIx)
  /-- PARK_ALARM_EXPIRY (R35). A PARKED leg reaches its group's alarm time with its fired flag clear, and PARK_ALARM is raised. -/
  | parkAlarmExpiry (n : LegIx)
  /-- ANNOUNCEMENT_EXPIRY (R133). A COUNTING slot expires, posts entries to present positions in its floor groups, and raises ANNOUNCE_FIRED. -/
  | announcementExpiry (k : SlotIx)
  /-- ITEM_END (R98). A cursor's current item is played to its end; the cursor enters the next item, or takes the list end or pass start. -/
  | itemEnd (c : CurIx)
  /-- REFILL_COMPLETE (R147). A refill read ends, the samples are handed to the cursor's segment, and the flash arbiter chooses its next operation. -/
  | refillComplete
  /-- RESUME_HOLD_EXPIRY (R148). 4 ms of running time after an erase begins or resumes pass, and a suspend is issued if refills wait. -/
  | resumeHoldExpiry
  /-- ERASE_SUSPEND_EFFECT (R148). The flash reports the erase suspended, and refill reads are served. -/
  | eraseSuspendEffect
  /-- PAGE_PROGRAM_COMPLETE (R142). A data page, protect or zeroing program completes, its buffer is freed, and the arbiter chooses the next operation. -/
  | pageProgramComplete
  /-- HEADER_PROGRAM_COMPLETE (R143). The header program completes; the clip becomes VALID and CLIP_READY is raised. -/
  | headerProgramComplete
  /-- PROGRAM_TIMEOUT (R145). A page program is not done within 5 ms; the sector goes BAD, the clip is lost, and STORE_FAULT is raised. -/
  | programTimeout
  /-- ERASE_COMPLETE (R150). A sector erase ends, the sector becomes ERASED, and CLIP_GONE or STORE_READY may follow. -/
  | eraseComplete
  /-- ERASE_TIMEOUT (R151). An erase runs for 3 s; the sector goes BAD, a zeroing program is queued, and STORE_FAULT is raised. -/
  | eraseTimeout
  /-- QUIET_WINDOW_EXPIRY (R149). 200 ms pass after the last append with no run open, and an erase run opens if the queue is not empty. -/
  | quietWindowExpiry
  /-- FLASH_DEVICE_READY (R157). After its reset command the flash reports ready, and the start-up scan begins reading page 0 of each sector. -/
  | flashDeviceReady
  /-- SCAN_READ_COMPLETE (R157). A page 0 read of the scan ends, and a valid header claims its sectors as a VALID clip. -/
  | scanReadComplete
  /-- BLANK_CHECK_COMPLETE (R158). A sector's blank check ends, marking it ERASED or QUEUED; after the last one the store becomes READY with STORE_READY. -/
  | blankCheckComplete
  deriving DecidableEq, Repr

end Sys2Proof
end

