-- ==== Sys2Proof/Decode.lean ====
section
/-! DEFINITION. The opcode table of this block gives no row any bits, so no word spells a command. -/

namespace Sys2Proof

/-- The command that a word spells by the opcode table's bits: the table gives none of its rows any. -/
def decodeTableWord (_nbits _w : Nat) : Option Instr := none

end Sys2Proof
end

