-- ==== Sys2Proof/Config.lean ====
section
/-! DEFINITION. What the manual leaves to the implementation. A constant declared `opaque` here has no
body: nothing in Lean can evaluate it, so a claim is true whatever the part does. The argument `n` of a
free value is the model's counter `nonce`, which every use advances (log 8). -/

namespace Sys2Proof.Config

/-- Whether the full-scale sample value of dBFS (00 section 7.2) is 32,768 or 32,767 (log 9). -/
opaque fullScaleIs32768 : Bool

/-- The full-scale sample value that levels in dBFS are relative to (log 9). -/
def fullScale : Nat := if fullScaleIs32768 then 32768 else 32767

/-- Whether a sample value scaled by a gain in whole dB, where the product is no whole number, takes the
whole number farther from zero: the rounding is not stated (log 11). -/
opaque scaleRoundsOut (db : Int) (x : Int) : Bool

/-- What one tap contributes to the echo estimate for one reference sample (R44; log 12). -/
opaque tapWeigh (t : Tap) (x : Int) : Int

/-- A tap after one frame of adaptation; the algorithm is not given (R51; log 12). -/
opaque adaptTap (n leg i : Nat) (t : Tap) : Tap

/-- The ERLE estimate, before its limit, of a window whose receive and residual are both digital
silence (R53; log 17). -/
opaque erleOfSilence (n : Nat) : Nat

/-- The level of one band of a block. The filter bank is not given, nor the precision of this measurement:
whole tenths of a dB are the model's choice (R62; log 13). -/
opaque bandLevel (block : List Sample) (band : Nat) : Int

/-- Sample `i` of a block recombined from its attenuated bands (R64; log 13). -/
opaque recombine (block : List Sample) (att : List Nat) (i : Nat) : Int

/-- Whether a mean band level between two steps of 0.1 dB takes the upper one (R62; log 14). -/
opaque meanTakesUpper (levels : List Int) : Bool

/-- Sample `i` of the comfort noise sequence `seq`, at the total level and with the band levels given
(none: flat) (R67; log 16). -/
opaque noiseSample (seq i : Nat) (total : Int) (bands : Option (List Int)) : Int

/-- Whether a tone sample at a phase, where the sine is no whole number there, takes the whole number
farther from zero (R96; log 15). -/
opaque toneRoundsOut (phase : Nat) : Bool

/-- The phase of a tone entered in its middle (R107; log 15). -/
opaque resumedPhase (n : Nat) : Nat

/-- How far each bit of a flash byte had come when the operation on it was cut short or
failed (R151, R157; log 19). -/
opaque cutShort (n addr : Nat) : Byte

/-- Whether a remaining time that is no whole millisecond is reported rounded up (log 22). -/
opaque partMsRoundsUp : Bool

end Sys2Proof.Config
end

