-- ==== Sys2Proof/Machine/State.lean ====
section
/-! DEFINITION. The state of the AC48: every record, list, queue, timer and flag the manual gives its eleven
blocks (00 Table 0-1), the flash, the samples on the two highways, and the queue of commands waiting. Times
are kept in frames of 0.125 ms, eight to the millisecond (log 2). Plain data throughout. -/

namespace Sys2Proof.Machine

/-! ## Why a step can stop -/

/-- Why the model stops. Nothing the manual describes stops the part. -/
inductive Fault where
  /-- Raised by REFILL_COMPLETE, PAGE_PROGRAM_COMPLETE, HEADER_PROGRAM_COMPLETE and PROGRAM_TIMEOUT when
  the operation lies beyond the 16 MiB of the flash, or its clip has no directory entry to place it. No
  state the part reaches has such an operation. Safe: the model stops where no address exists (log 44). -/
  | flashAddress
  deriving DecidableEq, Repr

/-- Why the model gives a command no meaning. -/
inductive Refusal where
  /-- Answered by an arm of `exec` whose command has no meaning yet. Safe: nothing is claimed of it. -/
  | notModelled (mnemonic : String)
  deriving DecidableEq, Repr

/-! ## Codes (Table 12-2) -/

inductive Role where
  | agent | supervisor
  deriving DecidableEq, Repr

/-- Position states (Table 1-2). -/
inductive PosState where
  | absent | idle | engaged | coaching | loopback
  deriving DecidableEq, Repr

/-- The side of a coach pair. -/
inductive Side where
  | supervisor | agent
  deriving DecidableEq, Repr

/-- Coach modes: in BARGE the caller hears the supervisor (R39). -/
inductive CoachMode where
  | whisper | barge
  deriving DecidableEq, Repr

/-- Leg states (Table 2-2). -/
inductive LegState where
  | free | parked | connecting | talking
  deriving DecidableEq, Repr

/-- Echo modes (R54). -/
inductive EchoMode where
  | on | freeze | bypass | off
  deriving DecidableEq, Repr

/-- Canceller states (Table 3-2). -/
inductive CanState where
  | idle | waiting | converging | converged | held | bypassed
  deriving DecidableEq, Repr

/-- A canceller's working state (Table 3-1). -/
inductive Working where
  | converging | converged
  deriving DecidableEq, Repr

/-- Noise alarm states (R68, R69). -/
inductive Alarm where
  | normal | high
  deriving DecidableEq, Repr

/-- Cursor states (section 6.3). -/
inductive CurState where
  | stopped | starting | playing | paused
  deriving DecidableEq, Repr

/-- States of a ring segment (section 6.3). -/
inductive SegState where
  | empty | filling | full | playing
  deriving DecidableEq, Repr

/-- Whisper entry levels; COACH is the coach's own and no entry's (Table 8-1). -/
inductive Level where
  | urgent | routine
  deriving DecidableEq, Repr

/-- Who placed a whisper entry (Table 8-1). -/
inductive Origin where
  | post | route | announce | connect
  deriving DecidableEq, Repr

/-- How a whisper entry continues after being set aside (R117). -/
inductive ResumeMode where
  | resume | restart
  deriving DecidableEq, Repr

/-- Clip states (R139). -/
inductive ClipState where
  | writing | valid | retiring | erasing
  deriving DecidableEq, Repr

/-- Store states (R157, R158). -/
inductive StoreState where
  | scanning | ready | formatting
  deriving DecidableEq, Repr

/-- Sector states (Table 9-2); a sector not yet decided has none. -/
inductive SectorState where
  | erased | reserved | clip | queued | erasing | bad
  deriving DecidableEq, Repr

/-- Delivery modes (section 10.2). -/
inductive Delivery where
  | poll | push
  deriving DecidableEq, Repr

/-- The three kinds of reset (00 section 6.5). -/
inductive ResetKind where
  | powerOn | pinReset | restart
  deriving DecidableEq, Repr

/-- Result codes (Table 12-1). -/
inductive Result where
  | ok | busy | badarg | state | noroom | notfound | late | locked | length | unknown
  deriving DecidableEq, Repr

/-- The 24 event kinds (Table 10-1). -/
inductive EventKind where
  | started | headsetOn | headsetOff | muteOn | muteOff | noiseHigh | noiseNormal | cutThrough
  | legAutoParked | parkAlarm | echoConverged | echoReclaimed | whisperDone | whisperDropped
  | coachStarted | coachEnded | cursorUnderrun | clipMissing | announceFired | clipReady | clipGone
  | storeFault | storeReady | linkFault
  deriving DecidableEq, Repr

/-- Causes of a frame's discard (R178). -/
inductive Discard where
  | framing | gap | len | check | kind | full
  deriving DecidableEq, Repr

/-- Causes of a cut-through (R31). -/
inductive CutCause where
  | completed | flushed | timeout
  deriving DecidableEq, Repr

/-- Causes of a headset loss (R10). -/
inductive LossCause where
  | unplugged | linkLost
  deriving DecidableEq, Repr

/-- Reasons a coach pair ends (R131). -/
inductive EndReason where
  | detached | replaced | headsetLost
  deriving DecidableEq, Repr

/-- Reasons a posting is dropped (R121). -/
inductive DropReason where
  | state | empty | full
  deriving DecidableEq, Repr

/-- Causes of STORE_FAULT (R145, R151, R155). -/
inductive FaultCause where
  | program | erase | protect
  deriving DecidableEq, Repr

/-! ## Position Unit (Table 1-1) -/

/-- A position's side of a coach pair. -/
structure CoachLink where
  partner : PosIx
  side : Side
  active : Bool
  deriving DecidableEq, Repr

/-- A presence debounce in progress: the candidate and the frames it has run (R5). -/
structure Debounce where
  toPresent : Bool
  run : Nat
  deriving DecidableEq, Repr

/-- A Position Record with its timers. -/
structure Position where
  role : Role
  state : PosState
  present : Bool
  linkValid : Bool
  keyHeld : Bool
  hostMute : Bool
  presentChanged : Bool
  muteChanged : Bool
  floors : BitVec 8
  defaultGroup : GroupIx
  nesting : Bool
  gain : Int
  coachDuck : Nat
  bound : Option LegIx
  coach : Option CoachLink
  /-- Frames left of the link timer; none when it is stopped (R4). -/
  linkTimer : Option Nat
  debounce : Option Debounce
  deriving DecidableEq, Repr

/-! ## Leg Unit (Table 2-1) -/

/-- A Leg Record. -/
structure Leg where
  state : LegState
  bound : Option PosIx
  owner : Option PosIx
  group : Option GroupIx
  parkTime : Option Stamp
  fired : Bool
  /-- Frames left of the connect timer (R28). -/
  timer : Option Nat
  /-- Whether the connect entry of the bound position is referenced (log 42). -/
  connectRef : Bool
  mode : EchoMode
  tail : Nat
  deriving DecidableEq, Repr

/-! ## Echo Canceller Array (Table 3-1) -/

/-- A held segment with its 128 taps. -/
structure HeldSeg where
  num : SegIx
  taps : List Tap
  deriving DecidableEq, Repr

/-- The 4 ms window being measured (R51): frames so far, whether the canceller adapts in it, and the sums
of squares of the reference, the receive, the estimate and the residual. -/
structure EchoWindow where
  count : Nat
  adapts : Bool
  ref : Nat
  rx : Nat
  est : Nat
  res : Nat
  deriving DecidableEq, Repr

/-- A canceller context. Its wait entry stands in the pool's wait list. -/
structure Canceller where
  state : CanState
  held : List HeldSeg
  tail : Nat
  working : Working
  reclaimed : Bool
  doubleTalk : Bool
  erle : Nat
  /-- The convergence timer in ms. -/
  timer : Nat
  /-- The echo reference, newest first, at most 1,024 samples; silence before them. -/
  history : List Sample
  window : EchoWindow
  deriving DecidableEq, Repr

/-! ## Noise Suppressor (Table 4-1) -/

/-- A running comfort noise generator: its sequence, the frames it has run, and the content of its
current block, a total level and the band levels or none for flat noise (R66, R67). -/
structure Generator where
  seq : Nat
  ran : Nat
  total : Int
  bands : Option (List Int)
  deriving DecidableEq, Repr

/-- A suppressor context. -/
structure Suppressor where
  level : Nat
  threshold : Int
  /-- Band estimates 0–15 in tenths of a dB. -/
  bands : List Int
  learned : Nat
  floor : Int
  speech : Bool
  hangover : Nat
  alarm : Alarm
  highTimer : Nat
  lowTimer : Nat
  generator : Option Generator
  /-- The samples gathered for the block in progress, oldest first (R60). -/
  gather : List Sample
  /-- The samples of the block being delivered, next first (R60). -/
  deliver : List Sample
  /-- Band levels of the blocks learned since the profile reset, while below 500 ms (R62). -/
  early : List (List Int)
  deriving DecidableEq, Repr

/-! ## Segment Pool (section 5.1) -/

/-- A segment's owner (Table 5-1). -/
inductive SegOwner where
  | free
  | taps (n : LegIx)
  | ring (c : CurIx)
  deriving DecidableEq, Repr

/-- Who asks the pool. -/
inductive Requester where
  | leg (n : LegIx)
  | cursor (c : CurIx)
  deriving DecidableEq, Repr

/-- A wait-list entry (R76). -/
structure WaitEntry where
  who : Requester
  need : Nat
  deriving DecidableEq, Repr

/-- The pool. Its counts are computed from the owner map (R73). -/
structure Pool where
  owner : Vector SegOwner 384
  wait : List WaitEntry
  reserve : Nat
  deriving DecidableEq, Repr

/-! ## Playback Unit (chapter 6) -/

/-- A cue item (Table 6-1); durations in ms, gains in dB. -/
inductive Item where
  | clip (id : ClipIx) (gain : Int)
  | silence (ms : Nat)
  | tone (index : Fin 8) (ms : Nat)
  deriving DecidableEq, Repr

/-- A cue list; empty when it has no item. -/
structure CueList where
  items : List Item
  duck : Nat
  deriving DecidableEq, Repr

/-- A cursor's snapshot (R90). -/
structure Snapshot where
  cue : CueIx
  items : List Item
  duck : Nat
  deriving DecidableEq, Repr

/-- A place in a cue list: the item, how far into it in frames, and the position as Table 12-3 reports it,
an offset in a CLIP item and the time left in any other (log 21). -/
structure Place where
  index : Nat
  elapsed : Nat
  shown : Nat
  deriving DecidableEq, Repr

/-- One ring segment: its number, its state, the sample offset its last refill began at, and the samples not
yet played. -/
structure RingSeg where
  num : SegIx
  state : SegState
  first : Nat
  data : List Sample
  deriving DecidableEq, Repr

/-- A cursor record (Table 6-3). Owner and loop flag follow from the cursor's number, and its wait entry
stands in the pool's wait list. -/
structure Cursor where
  state : CurState
  snapshot : Option Snapshot
  index : Nat
  /-- Sample offset of a CLIP item, or frames left of a SILENCE or TONE item. -/
  place : Nat
  ring : Option (Vector RingSeg 2)
  clip : Option ClipIx
  requested : Nat
  refill : Option (Fin 2)
  underrun : Bool
  played : Bool
  /-- The tone's phase, in 400,000ths of a turn (R93; log 15). -/
  phase : Nat
  /-- Set while the cursor plays, or waits for its ring to play, the 1,000 ms of silence after a pass that
  played nothing (R92, R98). -/
  gap : Bool
  /-- The item and position the cursor was last started at, before any skip (R92 step 2, R106; log 50). -/
  begun : Place
  deriving DecidableEq, Repr

/-! ## Hold Group Unit (Table 7-1) -/

/-- A hold group record. -/
structure Group where
  source : Option CueIx
  resume : Bool
  /-- Park alarm time in s, 0 for off. -/
  alarm : Nat
  members : List LegIx
  point : Option Place
  pendingChange : Bool
  deriving DecidableEq, Repr

/-! ## Whisper Unit (chapter 8) -/

/-- A whisper entry (Table 8-1). `holdsCursor` is set on a stacked entry whose cursor the coach's arrival
paused (R117). -/
structure Entry where
  cue : CueIx
  level : Level
  origin : Origin
  resume : ResumeMode
  connect : Bool
  saved : Option Place
  holdsCursor : Bool
  deriving DecidableEq, Repr

/-- A position's playing entry. -/
inductive Playing where
  | none
  | prompt (e : Entry)
  | coach
  deriving DecidableEq, Repr

/-- A position's whisper state (R114); the stack's top entry stands first. -/
structure Whisper where
  queue : List Entry
  playing : Playing
  stack : List Entry
  deriving DecidableEq, Repr

/-- A coach pair (R126). -/
structure Pair where
  supervisor : PosIx
  agent : PosIx
  mode : CoachMode
  active : Bool
  deriving DecidableEq, Repr

/-- What a COUNTING announcement slot holds (section 8.6); `left` in frames. -/
structure Counting where
  mask : BitVec 8
  cue : CueIx
  level : Level
  left : Nat
  deriving DecidableEq, Repr

/-! ## Clip Store Controller (chapter 9) -/

/-- A directory entry (R139). The last three fields are what R142 and R150 need and the manual implies. -/
structure Clip where
  first : SectorIx
  sectors : Nat
  samples : Nat
  state : ClipState
  prot : Bool
  refs : Nat
  remaining : Nat
  finishing : Bool
  /-- The next data page to request while WRITING. -/
  nextPage : Nat
  /-- Sectors still to be erased or to fail once queued (log 33). -/
  eraseLeft : Nat
  /-- Sectors that went BAD in the clip's erase. -/
  goneBad : Nat
  deriving DecidableEq, Repr

/-- States of a page buffer (R141). -/
inductive BufState where
  | empty | filling | waiting
  deriving DecidableEq, Repr

/-- A page buffer. -/
structure PageBuf where
  state : BufState
  data : List Byte
  deriving DecidableEq, Repr

/-- A program the list can hold (R142). -/
inductive Program where
  | data (id : ClipIx) (page : Nat) (buf : Fin 2)
  | header (id : ClipIx)
  | protect (id : ClipIx) (sector : SectorIx)
  | zero (sector : SectorIx)
  deriving DecidableEq, Repr

/-- A refill (R94). -/
structure Refill where
  cursor : CurIx
  clip : ClipIx
  seg : Fin 2
  first : Nat
  count : Nat
  deriving DecidableEq, Repr

/-- A program under way: what it is, the sector and byte address it writes from, its bytes, the frames it
has run, and whether its clip was dropped meanwhile (R144). -/
structure RunningProgram where
  prog : Program
  addr : Nat
  bytes : List Byte
  run : Nat
  dropped : Bool
  deriving DecidableEq, Repr

/-- The read or program under way on the flash; a running erase is held in `EraseOp` (R146). -/
inductive FlashOp where
  | none
  | read (r : Refill) (withdrawn : Bool)
  | program (p : RunningProgram)
  deriving DecidableEq, Repr

/-- Whether an erase runs, waits for its suspend to take effect, or is suspended (R148). -/
inductive ErasePhase where
  | running | suspending | suspended
  deriving DecidableEq, Repr

/-- The current erase; times in frames of running time (R136, R148). -/
structure EraseOp where
  sector : SectorIx
  phase : ErasePhase
  run : Nat
  /-- Running time since it began or last resumed, which the resume hold is measured by. -/
  since : Nat
  suspends : Nat
  deriving DecidableEq, Repr

/-- Progress of the start-up scan (R157, R158). -/
inductive Scan where
  | none
  | awaitDevice
  | readPage (s : SectorIx)
  | blankCheck (s : SectorIx)
  deriving DecidableEq, Repr

/-- The controller's state. -/
structure Store where
  state : StoreState
  sectors : Vector (Option SectorState) 256
  /-- Sectors in which a program has begun since they were reserved (R142). -/
  begun : Vector Bool 256
  dir : Vector (Option Clip) 128
  buffers : Vector PageBuf 2
  programs : List Program
  refills : List Refill
  eraseQueue : List SectorIx
  runOpen : Bool
  /-- Frames left of the quiet window (R149). -/
  quiet : Option Nat
  op : FlashOp
  erase : Option EraseOp
  scan : Scan
  deriving DecidableEq, Repr

/-! ## Event Router (chapter 10) -/

/-- The subject of an event (Table 12-4). -/
inductive Subject where
  | none
  | position (p : PosIx)
  | leg (n : LegIx)
  | group (g : GroupIx)
  | slot (k : SlotIx)
  | clip (id : ClipIx)
  | sector (s : SectorIx)
  deriving DecidableEq, Repr

/-- A notice record (R167). -/
structure Notice where
  kind : EventKind
  subject : Subject
  detail : BitVec 16
  stamp : Stamp
  deriving DecidableEq, Repr

/-- A route table entry (section 10.2). -/
structure Route where
  notify : Bool
  cue : Option (CueIx × Level)
  deriving DecidableEq, Repr

/-- The router's state, with the timestamp counter's phase within the millisecond (log 43). -/
structure Router where
  routes : Vector Route 24
  notices : List Notice
  overflow : Bool
  mode : Delivery
  stamp : Stamp
  phase : Nat
  deriving DecidableEq, Repr

/-- A routed posting on its way to the Whisper Unit (R165). -/
structure Posting where
  pos : PosIx
  cue : CueIx
  level : Level
  deriving DecidableEq, Repr

/-! ## Control Link Port (chapter 11) -/

/-- A reply: its result and its payload. -/
structure Reply where
  result : Result
  payload : List Byte
  deriving DecidableEq, Repr

/-- A place of the request queue: the request, and its reply once ready (R180). -/
structure Request where
  tag : BitVec 16
  name : List Byte
  payload : List Byte
  reply : Option Reply
  deriving DecidableEq, Repr

/-- The receive assembler (R178): the bytes after SYNC so far, LEN first. -/
inductive Assembler where
  | hunting
  | assembling (bytes : List Byte)
  deriving DecidableEq, Repr

/-- The frame in transmission on TXD: a reply's or a notice's bytes (R181). -/
inductive TxFrame where
  | reply (bytes : List Byte)
  | notice (bytes : List Byte)
  deriving DecidableEq, Repr

/-- The port's state. -/
structure Link where
  /-- The link rate in bit/s. -/
  rate : Nat
  assembler : Assembler
  /-- Frames since the end of the last byte of the frame being assembled. -/
  gap : Nat
  requests : List Request
  tx : Option TxFrame
  /-- Discard counters in the order FRAMING, GAP, LEN, CHECK, KIND, FULL. -/
  counters : Vector (BitVec 16) 6
  latch : Bool
  deriving DecidableEq, Repr

/-! ## The whole part -/

/-- The working memory, the playback, the store and the events: what cancellers, pool, cursors,
controller and router change in each other. `postings` is empty between commands (log 20); `nonce` is the
model's own counter for free values (log 8). -/
structure Media where
  can : Vector Canceller 64
  pool : Pool
  cues : Vector CueList 32
  cursors : Vector Cursor 56
  store : Store
  router : Router
  postings : List Posting
  nonce : Nat
  deriving DecidableEq, Repr

/-- The blocks that act on calls and prompts, over `Media`. -/
structure Units extends Media where
  legs : Vector Leg 64
  pos : Vector Position 48
  groups : Vector Group 8
  whisper : Vector Whisper 48
  pairs : List Pair
  deriving DecidableEq, Repr

/-- The AC48, its flash, its highway slots and the commands waiting for it. -/
structure State extends Units where
  sup : Vector Suppressor 48
  slots : Vector (Option Counting) 4
  link : Link
  /-- Flash bytes that are not 0xFF, by address, strictly rising (log 18). -/
  flash : List Host.Cell
  /-- The earpiece sample sent on each position slot in the last frame (R11). -/
  earpiece : Vector Sample 48
  /-- The outbound sample sent on each trunk slot in the last frame (R37). -/
  outbound : Vector Sample 64
  /-- The commands waiting, first in, first out (log 1). -/
  pending : List Instr
  deriving DecidableEq, Repr

/-! ## Reset values -/

/-- Table 1-1, reset column; the timers as R2 gives. -/
def Position.reset : Position :=
  { role := .agent, state := .absent, present := false, linkValid := false, keyHeld := false,
    hostMute := false, presentChanged := false, muteChanged := false, floors := 0, defaultGroup := 0,
    nesting := true, gain := 0, coachDuck := 6, bound := none, coach := none, linkTimer := none,
    debounce := none }

/-- Table 2-1, reset column. -/
def Leg.reset : Leg :=
  { state := .free, bound := none, owner := none, group := none, parkTime := none, fired := false,
    timer := none, connectRef := false, mode := .on, tail := 4 }

/-- A window with nothing measured, in which nothing adapts. -/
def EchoWindow.zero : EchoWindow :=
  { count := 0, adapts := false, ref := 0, rx := 0, est := 0, res := 0 }

/-- Table 3-1, reset column. -/
def Canceller.reset : Canceller :=
  { state := .idle, held := [], tail := 4, working := .converging, reclaimed := false,
    doubleTalk := false, erle := 0, timer := 0, history := [], window := EchoWindow.zero }

/-- Table 4-1, reset column. -/
def Suppressor.reset : Suppressor :=
  { level := 2, threshold := -35, bands := List.replicate 16 (-960), learned := 0, floor := -96,
    speech := false, hangover := 0, alarm := .normal, highTimer := 0, lowTimer := 0,
    generator := none, gather := [], deliver := [], early := [] }

/-- The pool after any reset (R72). -/
def Pool.reset : Pool :=
  { owner := Vector.replicate 384 .free, wait := [], reserve := 16 }

/-- An empty cue list (R87). -/
def CueList.reset : CueList := { items := [], duck := 0 }

/-- Table 6-3, reset column. -/
def Cursor.reset : Cursor :=
  { state := .stopped, snapshot := none, index := 0, place := 0, ring := none, clip := none,
    requested := 0, refill := none, underrun := false, played := false, phase := 0, gap := false,
    begun := { index := 0, elapsed := 0, shown := 0 } }

/-- Table 7-1, reset column. -/
def Group.reset : Group :=
  { source := none, resume := false, alarm := 0, members := [], point := none, pendingChange := false }

/-- An empty whisper state (R114). -/
def Whisper.reset : Whisper := { queue := [], playing := .none, stack := [] }

/-- An empty page buffer (R141). -/
def PageBuf.empty : PageBuf := { state := .empty, data := [] }

/-- The store as the start of a scan leaves it: nothing known, the device being reset (R157). -/
def Store.scanStart : Store :=
  { state := .scanning, sectors := Vector.replicate 256 none, begun := Vector.replicate 256 false,
    dir := Vector.replicate 128 none, buffers := Vector.replicate 2 PageBuf.empty, programs := [],
    refills := [], eraseQueue := [], runOpen := false, quiet := none, op := .none, erase := none,
    scan := .awaitDevice }

/-- The detail of STARTED (Table 12-5). -/
def ResetKind.code : ResetKind → BitVec 16
  | .powerOn => 0
  | .pinReset => 1
  | .restart => 2

/-- The router after a reset of the kind: default routes, POLL, and one STARTED record (R163). -/
def Router.reset (k : ResetKind) : Router :=
  { routes := Vector.replicate 24 { notify := true, cue := none },
    notices := [{ kind := .started, subject := .none, detail := k.code, stamp := 0 }],
    overflow := false, mode := .poll, stamp := 0, phase := 0 }

/-- The link after power-on or pin reset at the given rate; restart keeps the rate (R185, R186). -/
def Link.reset (rate : Nat) : Link :=
  { rate := rate, assembler := .hunting, gap := 0, requests := [], tx := none,
    counters := Vector.replicate 6 0, latch := false }

/-- All of `Media` after a reset of the kind, around the store given. -/
def Media.reset (k : ResetKind) (store : Store) (nonce : Nat) : Media :=
  { can := Vector.replicate 64 Canceller.reset, pool := Pool.reset,
    cues := Vector.replicate 32 CueList.reset, cursors := Vector.replicate 56 Cursor.reset,
    store := store, router := Router.reset k, postings := [], nonce := nonce }

/-- All of `Units` after a reset of the kind, around the store given. -/
def Units.reset (k : ResetKind) (store : Store) (nonce : Nat) : Units :=
  { toMedia := Media.reset k store nonce, legs := Vector.replicate 64 Leg.reset,
    pos := Vector.replicate 48 Position.reset, groups := Vector.replicate 8 Group.reset,
    whisper := Vector.replicate 48 Whisper.reset, pairs := [] }

/-- The machine right after power-on (R2, R20, R42, R59, R72, R87, R91, R103, R114, R126, R132, R157, R163,
R186; log 23), with a blank flash (log 18) and no command waiting. -/
def State.reset : State :=
  { toUnits := Units.reset .powerOn Store.scanStart 0, sup := Vector.replicate 48 Suppressor.reset,
    slots := Vector.replicate 4 none, link := Link.reset 115200, flash := [],
    earpiece := Vector.replicate 48 0, outbound := Vector.replicate 64 0, pending := [] }

end Sys2Proof.Machine
end

