-- ==== Sys2Proof/Machine/Ops.lean ====
section
/-! DEFINITION. The named operations the meanings share: reading and writing a place of a table, samples
and decibels, bytes and CRC-16, and the flash memory. -/

namespace Sys2Proof.Machine

/-! ## Tables -/

/-- The entry of a table. -/
def look {α : Type} {n : Nat} (v : Vector α n) (i : Fin n) : α := v[i.val]

/-- The table with one entry replaced. -/
def put {α : Type} {n : Nat} (v : Vector α n) (i : Fin n) (x : α) : Vector α n := v.set i.val x i.isLt

/-- The table with one entry changed. -/
def upd {α : Type} {n : Nat} (v : Vector α n) (i : Fin n) (f : α → α) : Vector α n :=
  put v i (f (look v i))

/-- The table with every entry changed by its place and value. -/
def mapIx {α : Type} {n : Nat} (v : Vector α n) (f : Fin n → α → α) : Vector α n :=
  Vector.ofFn fun i => f i (look v i)

/-! ## Samples (00 section 6.1) -/

/-- Limited to the largest and smallest 16-bit sample values. -/
def limit16 (x : Int) : Sample := BitVec.ofInt 16 (max (-32768) (min 32767 x))

/-- Bits of the answer still to settle, in a search for the greatest `r` for which `f` holds, of an `f` that
holds up to some number and not beyond it. -/
def settleBits (f : Nat → Bool) : Nat → Nat → Nat
  | 0, r => r
  | b + 1, r => if f (r + 2 ^ b) then settleBits f b (r + 2 ^ b) else settleBits f b r

/-- A sign put on a magnitude. -/
def withSign (negative : Bool) (r : Nat) : Int := if negative then -(r : Int) else r

/-- Whether `r ≤ x · 10 ^ (db / 20)`, compared as whole numbers (R12). -/
def scaleFits (db : Int) (x r : Nat) : Bool :=
  decide (r ^ 20 * 10 ^ (-db).toNat ≤ x ^ 20 * 10 ^ db.toNat)

/-- The whole part of the product of a magnitude and a gain in dB; every sample and gain of the part has one
far below `2 ^ 32`. -/
def scaleWhole (db : Int) (x : Nat) : Nat := settleBits (scaleFits db x) 32 0

/-- A sample value multiplied by a gain in dB: the exact product where that is a whole number, and otherwise
one of the two whole numbers beside it (R12, R96; log 11). -/
def gainDb (db : Int) (x : Int) : Int :=
  if db = 0 ∨ x = 0 then x
  else
    let r := scaleWhole db x.natAbs
    let whole := decide (r ^ 20 * 10 ^ (-db).toNat = x.natAbs ^ 20 * 10 ^ db.toNat)
    withSign (decide (x < 0)) (if whole || !Config.scaleRoundsOut db x then r else r + 1)

/-- The sum of squares of samples, from which a mean power is taken. -/
def sumSquares (xs : List Sample) : Nat := (xs.map fun x => x.toInt.natAbs ^ 2).sum

/-! ## Tones (R96; log 15) -/

/-- Parts of a turn that phases are counted in; a frame of `hz` hertz is a whole number of them. -/
def turn : Nat := 400000

/-- Phase steps in one frame of 1/8,000 s. -/
def phaseStep (hz : Nat) : Nat := 50 * hz

/-- The unit of sines: 10⁻¹⁵. -/
def sineUnit : Int := 1000000000000000

/-- The tail `1 − x²/(j(j+1)) · (1 − x²/((j+2)(j+3)) · …)` of the sine series, for `x²` in units. -/
def sineTail (xx : Int) : Nat → Int → Int
  | 0, _ => sineUnit
  | n + 1, j => sineUnit - xx * sineTail xx n (j + 2) / (sineUnit * (j * (j + 1)))

/-- The sine of a phase in the first quarter turn, in units. -/
def quarterSine (phase : Nat) : Int :=
  let x : Int := 15707963268 * phase
  x * sineTail (x * x / sineUnit) 9 2 / sineUnit

/-- The magnitude of the sine of a phase, in units. -/
def sineSize (phase : Nat) : Int :=
  let half := phase % (turn / 2)
  quarterSine (if half ≤ turn / 4 then half else turn / 2 - half)

/-- The sample at a phase of a sine whose peak is 20 dB below full scale: where that is no whole number, one
of the two beside it (R96; log 15, and log 58 for the peak). -/
def toneAt (phase : Nat) : Sample :=
  let y := (Config.fullScale * sineSize phase).toNat
  let unit := (10 * sineUnit).toNat
  let r := if y % unit = 0 ∨ Config.toneRoundsOut phase = false then y / unit else y / unit + 1
  BitVec.ofInt 16 (withSign (decide (turn / 2 ≤ phase % turn)) r)

/-! ## Levels (00 section 6.1; log 10) -/

/-- Whether `a / b ≥ 10 ^ (t / 100)`: the ratio of two powers is at least `t` tenths of a dB. Compared as
whole numbers, so exactly. -/
def ratioAtLeast (a b : Nat) (t : Int) : Bool :=
  if 0 ≤ t then decide (b ^ 100 * 10 ^ t.toNat ≤ a ^ 100)
  else decide (b ^ 100 ≤ a ^ 100 * 10 ^ (-t).toNat)

/-- Whether the mean power of `n` samples whose squares add up to `sq` is at least `t` tenths of a dB
above full scale. -/
def levelAtLeast (sq n : Nat) (t : Int) : Bool := ratioAtLeast sq (n * Config.fullScale ^ 2) t

/-- Whether that mean power exceeds `t` tenths of a dB. -/
def levelExceeds (sq n : Nat) (t : Int) : Bool := !ratioAtLeast (n * Config.fullScale ^ 2) sq (-t)

/-- The greatest `k ≤ n < 1024` for which `f` holds, or 0, of an `f` that holds up to some number and not
beyond it. -/
def countUp (f : Nat → Bool) (n : Nat) : Nat := settleBits (fun k => decide (k ≤ n) && f k) 10 0

/-- The whole decibels of the power ratio `a / b`, rounded to the nearest and limited to 0–60 (R53). -/
def ratioDb60 (a b : Nat) : Nat := countUp (fun k => ratioAtLeast a b (10 * k - 5)) 60

/-- The power of a band level of `t` tenths of a dB (−960 to 0), in units 10⁻¹² of the power at −96 dBFS
(log 14). -/
def tenthsPower (t : Int) : Nat :=
  settleBits (fun r => decide (r ^ 100 ≤ 10 ^ (1200 + (t + 960).toNat))) 80 0

/-- Levels in tenths of a dB as one power (log 14). -/
def totalPower (levels : List Int) : Nat := (levels.map tenthsPower).sum

/-- The greatest level of −96.0 to 0 dBFS, in tenths, whose power does not exceed `p`; −960 for less. -/
def powerTenths (p : Nat) : Int := countUp (fun k => decide (tenthsPower (k - 960) ≤ p)) 960 - 960

/-- The mean in power of band levels, to a step of 0.1 dB (R62; log 14). -/
def meanTenths (levels : List Int) : Int :=
  let p := totalPower levels / levels.length
  let t := powerTenths p
  if tenthsPower t < p ∧ t < 0 ∧ Config.meanTakesUpper levels then t + 1 else t

/-- The power sum of band levels, rounded to whole decibels and limited to −96 to 0 dBFS (R62). -/
def sumDb (levels : List Int) : Int :=
  let p := totalPower levels
  countUp (fun k => decide (tenthsPower (10 * k - 960 - 5) ≤ p)) 96 - 96

/-! ## Time -/

/-- Frames of 0.125 ms in a number of ms. -/
def framesOf (ms : Nat) : Nat := 8 * ms

/-- Whole ms of a number of frames left, as replies carry it (log 22). -/
def msLeft (frames : Nat) : Nat := if Config.partMsRoundsUp then (frames + 7) / 8 else frames / 8

/-- One frame less, down to 0. -/
def tickDown (t : Option Nat) : Option Nat := t.map (· - 1)

/-- The milliseconds from one timestamp to a later one, modulo 2^32 (R164). -/
def since (now t : Stamp) : Nat := (now - t).toNat

/-! ## Bytes -/

/-- Two bytes, low byte first (00 section 6.2). -/
def le2 (n : Nat) : List Byte := [BitVec.ofNat 8 n, BitVec.ofNat 8 (n / 256)]

/-- Three bytes, low byte first. -/
def le3 (n : Nat) : List Byte := le2 n ++ [BitVec.ofNat 8 (n / 65536)]

/-- Four bytes, low byte first. -/
def le4 (n : Nat) : List Byte := le2 n ++ le2 (n / 65536)

/-- The number that bytes spell, low byte first. -/
def leNat : List Byte → Nat
  | [] => 0
  | b :: bs => b.toNat + 256 * leNat bs

/-- One shift of the CRC-16 register: polynomial 0x1021, most significant bit first (R177). -/
def crcShift (c : BitVec 16) : BitVec 16 := if c.msb then (c <<< 1) ^^^ 0x1021 else c <<< 1

/-- The CRC-16 register after one byte. -/
def crcByte (c : BitVec 16) (b : Byte) : BitVec 16 :=
  let c := c ^^^ ((b.zeroExtend 16) <<< 8)
  crcShift (crcShift (crcShift (crcShift (crcShift (crcShift (crcShift (crcShift c)))))))

/-- CRC-16, initial value 0xFFFF, no reflection, no final inversion (R177). -/
def crc16 (bs : List Byte) : BitVec 16 := bs.foldl crcByte 0xFFFF

/-- Four ASCII characters as bytes (00 section 6.3). -/
def ascii4 (a b c d : Char) : List Byte := [a, b, c, d].map fun ch => BitVec.ofNat 8 ch.toNat

/-! ## Flash memory (section 9.1) -/

/-- Bytes in the flash: 16 MiB. -/
def flashSize : Nat := 16777216

/-- Bytes in a sector: 64 KiB. -/
def sectorSize : Nat := 65536

/-- The byte at an address; an unlisted byte is erased and reads 0xFF (log 18). -/
def flashRead : List Host.Cell → Nat → Byte
  | [], _ => 0xFF
  | c :: m, a => if c.1 = a then c.2 else flashRead m a

/-- The memory with one byte replaced, in its one canonical form. -/
def flashWrite : List Host.Cell → Nat → Byte → List Host.Cell
  | [], a, b => if b = 0xFF then [] else [(a, b)]
  | c :: m, a, b =>
    if c.1 < a then c :: flashWrite m a b
    else if c.1 = a then (if b = 0xFF then m else (a, b) :: m)
    else if b = 0xFF then c :: m else (a, b) :: c :: m

/-- Whether the addresses rise strictly from a bound on, stay inside the flash, and no byte is 0xFF. -/
def flashWfFrom : Nat → List Host.Cell → Bool
  | _, [] => true
  | k, c :: m => decide (k ≤ c.1) && decide (c.1 < flashSize) && decide (c.2 ≠ 0xFF) && flashWfFrom (c.1 + 1) m

/-- The canonical form of the flash contents. -/
def Memory.wf (m : List Host.Cell) : Bool := flashWfFrom 0 m

/-- A run of bytes read from an address. -/
def flashBytes (m : List Host.Cell) (a n : Nat) : List Byte :=
  (List.range n).map fun i => flashRead m (a + i)

/-- Bytes programmed from an address: a program only clears bits (R136; log 19). -/
def flashProgram (m : List Host.Cell) (a : Nat) : List Byte → List Host.Cell
  | [] => m
  | b :: bs => flashProgram (flashWrite m a (flashRead m a &&& b)) (a + 1) bs

/-- A program that was cut short: each bit it was to clear may or may not be clear (R157; log 19). -/
def flashProgramCut (n : Nat) (m : List Host.Cell) (a : Nat) : List Byte → List Host.Cell
  | [] => m
  | b :: bs =>
    flashProgramCut n (flashWrite m a (flashRead m a &&& (b ||| Config.cutShort n a))) (a + 1) bs

/-- Whether an address lies in a sector. -/
def inSector (s : SectorIx) (a : Nat) : Bool := a / sectorSize == s.val

/-- A sector erased: every byte 0xFF (R136). -/
def flashErase (m : List Host.Cell) (s : SectorIx) : List Host.Cell :=
  m.filter fun c => !inSector s c.1

/-- An erase that was cut short: each bit it was to set may or may not be set (R151, R157; log 19). -/
def flashEraseCut (n : Nat) (m : List Host.Cell) (s : SectorIx) : List Host.Cell :=
  m.filterMap fun c =>
    if inSector s c.1 then
      let b := c.2 ||| Config.cutShort n c.1
      if b = 0xFF then none else some (c.1, b)
    else some c

/-- Whether every byte of a sector is 0xFF (R158). -/
def flashBlank (m : List Host.Cell) (s : SectorIx) : Bool :=
  m.all fun c => !inSector s c.1 || c.2 == 0xFF

end Sys2Proof.Machine
end

