-- ==== Sys2Proof/Machine/Operands.lean ====
section
/-! DEFINITION. Request fields as the part reads them, and reply fields as it writes them (R188, R189,
Tables 12-1 and 12-2). A reader answers none where the field's encoding does not define the value. -/

namespace Sys2Proof.Machine

/-! ## Reading -/

/-- An index of a table of `n` (R188). -/
def readIx (n : Nat) (b : Byte) : Option (Fin n) :=
  if h : b.toNat < n then some ⟨b.toNat, h⟩ else none

/-- An index that may be none, which is 0xFF (R188). -/
def readIxNone (n : Nat) (b : Byte) : Option (Option (Fin n)) :=
  if b = 0xFF then some none else (readIx n b).map some

/-- A clip id, 1–127. -/
def readClip (b : Byte) : Option ClipIx := if b = 0 then none else readIx 128 b

/-- A flag: 0 or 1 (R188). -/
def readFlag (b : Byte) : Option Bool := if b = 0 then some false else if b = 1 then some true else none

/-- A count or time in a range. -/
def readRange (lo hi n : Nat) : Option Nat := if lo ≤ n ∧ n ≤ hi then some n else none

/-- A gain, duck or level in whole dB, in a range (R188). -/
def readSigned (lo hi : Int) (x : Int) : Option Int := if lo ≤ x ∧ x ≤ hi then some x else none

def readRole (b : Byte) : Option Role :=
  if b = 0 then some .agent else if b = 1 then some .supervisor else none

def readCoachMode (b : Byte) : Option CoachMode :=
  if b = 0 then some .whisper else if b = 1 then some .barge else none

def readEchoMode (b : Byte) : Option EchoMode :=
  if b = 0 then some .on else if b = 1 then some .freeze
  else if b = 2 then some .bypass else if b = 3 then some .off else none

/-- A level the host may name: COACH is sent only (Table 12-2). -/
def readLevel (b : Byte) : Option Level :=
  if b = 1 then some .urgent else if b = 2 then some .routine else none

def readResume (b : Byte) : Option ResumeMode :=
  if b = 0 then some .resume else if b = 1 then some .restart else none

def readDelivery (b : Byte) : Option Delivery :=
  if b = 0 then some .poll else if b = 1 then some .push else none

/-! ## Writing -/

/-- One byte of a number. -/
def byte (n : Nat) : Byte := BitVec.ofNat 8 n

/-- A signed byte in two's complement (R188). -/
def sbyte (x : Int) : Byte := BitVec.ofInt 8 x

/-- A flag (R189). -/
def flagByte (b : Bool) : Byte := if b then 1 else 0

/-- An index or none, which is 0xFF. -/
def ixByte {n : Nat} (i : Option (Fin n)) : Byte :=
  match i with
  | some i => byte i.val
  | none => 0xFF

/-- Two bytes, or none as 0xFFFF. -/
def le2None (n : Option Nat) : List Byte := le2 (n.getD 0xFFFF)

/-- Four bytes, or none as 0xFFFFFFFF. -/
def le4None (n : Option Nat) : List Byte := le4 (n.getD 0xFFFFFFFF)

/-- A level of tenths of a dB as a signed 16-bit value. -/
def tenths2 (x : Int) : List Byte := le2 (BitVec.ofInt 16 x).toNat

/-- A 16-bit detail of two parts (Table 12-5). -/
def detail2 (low high : Byte) : BitVec 16 := high ++ low

/-- A detail of one part. -/
def detail1 (low : Byte) : BitVec 16 := detail2 low 0

def Result.code : Result → Byte
  | .ok => 0 | .busy => 1 | .badarg => 2 | .state => 3 | .noroom => 4 | .notfound => 5 | .late => 6
  | .locked => 7 | .length => 8 | .unknown => 9

def Role.code : Role → Byte
  | .agent => 0 | .supervisor => 1

def PosState.code : PosState → Byte
  | .absent => 0 | .idle => 1 | .engaged => 2 | .coaching => 3 | .loopback => 4

def Side.code : Side → Byte
  | .supervisor => 0 | .agent => 1

def CoachMode.code : CoachMode → Byte
  | .whisper => 0 | .barge => 1

def LegState.code : LegState → Byte
  | .free => 0 | .parked => 1 | .connecting => 2 | .talking => 3

def EchoMode.code : EchoMode → Byte
  | .on => 0 | .freeze => 1 | .bypass => 2 | .off => 3

def CanState.code : CanState → Byte
  | .idle => 0 | .waiting => 1 | .converging => 2 | .converged => 3 | .held => 4 | .bypassed => 5

def Alarm.code : Alarm → Byte
  | .normal => 0 | .high => 1

def CurState.code : CurState → Byte
  | .stopped => 0 | .starting => 1 | .playing => 2 | .paused => 3

def SegState.code : SegState → Byte
  | .empty => 0 | .filling => 1 | .full => 2 | .playing => 3

def Level.code : Level → Byte
  | .urgent => 1 | .routine => 2

def Origin.code : Origin → Byte
  | .post => 0 | .route => 1 | .announce => 2 | .connect => 3

def ClipState.code : ClipState → Byte
  | .writing => 0 | .valid => 1 | .retiring => 2 | .erasing => 3

def StoreState.code : StoreState → Byte
  | .scanning => 0 | .ready => 1 | .formatting => 2

def Delivery.code : Delivery → Byte
  | .poll => 0 | .push => 1

def CutCause.code : CutCause → Byte
  | .completed => 0 | .flushed => 1 | .timeout => 2

def LossCause.code : LossCause → Byte
  | .unplugged => 0 | .linkLost => 1

def EndReason.code : EndReason → Byte
  | .detached => 0 | .replaced => 1 | .headsetLost => 2

def DropReason.code : DropReason → Byte
  | .state => 0 | .empty => 1 | .full => 2

def FaultCause.code : FaultCause → Byte
  | .program => 0 | .erase => 1 | .protect => 2

/-- The place of a discard cause among the counters, which is its code (Table 12-5). -/
def Discard.index : Discard → Fin 6
  | .framing => 0 | .gap => 1 | .len => 2 | .check => 3 | .kind => 4 | .full => 5

/-! ## Replies -/

/-- An OK reply. -/
def Reply.ok (payload : List Byte) : Reply := { result := .ok, payload := payload }

/-- A reply that is not OK: its payload is empty (R180). -/
def Reply.refuse (r : Result) : Reply := { result := r, payload := [] }

end Sys2Proof.Machine
end

