-- ==== Sys2Proof/Machine/Router.lean ====
section
/-! DEFINITION. The Event Router (chapter 10): taking an event, the notice queue, and the requests ROUT,
NMOD, NFET and NCLR. -/

namespace Sys2Proof.Machine

/-- The place of a kind in the route table, in the order of Table 10-1. -/
def EventKind.index : EventKind → Fin 24
  | .started => 0 | .headsetOn => 1 | .headsetOff => 2 | .muteOn => 3 | .muteOff => 4
  | .noiseHigh => 5 | .noiseNormal => 6 | .cutThrough => 7 | .legAutoParked => 8 | .parkAlarm => 9
  | .echoConverged => 10 | .echoReclaimed => 11 | .whisperDone => 12 | .whisperDropped => 13
  | .coachStarted => 14 | .coachEnded => 15 | .cursorUnderrun => 16 | .clipMissing => 17
  | .announceFired => 18 | .clipReady => 19 | .clipGone => 20 | .storeFault => 21
  | .storeReady => 22 | .linkFault => 23

/-- The 24 kinds (Table 10-1). -/
def EventKind.all : List EventKind :=
  [.started, .headsetOn, .headsetOff, .muteOn, .muteOff, .noiseHigh, .noiseNormal, .cutThrough,
    .legAutoParked, .parkAlarm, .echoConverged, .echoReclaimed, .whisperDone, .whisperDropped,
    .coachStarted, .coachEnded, .cursorUnderrun, .clipMissing, .announceFired, .clipReady, .clipGone,
    .storeFault, .storeReady, .linkFault]

/-- The event tag of a kind (Table 12-5). -/
def EventKind.tag : EventKind → List Byte
  | .started => ascii4 'S' 'T' 'R' 'T'
  | .headsetOn => ascii4 'H' 'S' 'O' 'N'
  | .headsetOff => ascii4 'H' 'S' 'O' 'F'
  | .muteOn => ascii4 'M' 'T' 'O' 'N'
  | .muteOff => ascii4 'M' 'T' 'O' 'F'
  | .noiseHigh => ascii4 'N' 'Z' 'H' 'I'
  | .noiseNormal => ascii4 'N' 'Z' 'N' 'O'
  | .cutThrough => ascii4 'C' 'U' 'T' 'T'
  | .legAutoParked => ascii4 'A' 'P' 'R' 'K'
  | .parkAlarm => ascii4 'P' 'A' 'L' 'M'
  | .echoConverged => ascii4 'E' 'C' 'C' 'V'
  | .echoReclaimed => ascii4 'E' 'C' 'R' 'C'
  | .whisperDone => ascii4 'W' 'D' 'O' 'N'
  | .whisperDropped => ascii4 'W' 'D' 'R' 'P'
  | .coachStarted => ascii4 'C' 'S' 'T' 'A'
  | .coachEnded => ascii4 'C' 'E' 'N' 'D'
  | .cursorUnderrun => ascii4 'U' 'N' 'D' 'R'
  | .clipMissing => ascii4 'C' 'M' 'I' 'S'
  | .announceFired => ascii4 'A' 'N' 'F' 'R'
  | .clipReady => ascii4 'C' 'R' 'D' 'Y'
  | .clipGone => ascii4 'C' 'G' 'O' 'N'
  | .storeFault => ascii4 'S' 'F' 'L' 'T'
  | .storeReady => ascii4 'S' 'R' 'D' 'Y'
  | .linkFault => ascii4 'L' 'F' 'L' 'T'

/-- The kind a tag names. -/
def kindOfTag (tag : List Byte) : Option EventKind := EventKind.all.find? fun k => k.tag = tag

/-- Whether a kind may carry a cue route (R166). -/
def EventKind.routable : EventKind → Bool
  | .headsetOn | .headsetOff | .muteOn | .muteOff | .noiseHigh | .noiseNormal | .cutThrough
  | .legAutoParked | .parkAlarm | .echoConverged | .echoReclaimed | .coachStarted | .coachEnded => true
  | .started | .whisperDone | .whisperDropped | .cursorUnderrun | .clipMissing | .announceFired
  | .clipReady | .clipGone | .storeFault | .storeReady | .linkFault => false

/-- The most notice records the queue holds (R168). -/
def noticeLimit : Nat := 64

/-- The route table entry of a kind. -/
def Router.route (r : Router) (k : EventKind) : Route := look r.routes k.index

/-- Whether an event of the kind would enter a record into the queue now (R165 step 2, R168). -/
def Router.enters (r : Router) (k : EventKind) : Bool :=
  (r.route k).notify && decide (r.notices.length < noticeLimit)

/-- A record enters the queue, or is dropped with the overflow flag set (R168). -/
def Router.enter (r : Router) (n : Notice) : Router :=
  if r.notices.length < noticeLimit then { r with notices := r.notices ++ [n] }
  else { r with overflow := true }

/-- Step 2 of taking an event: the record, stamped with the time, if the kind is notified (R165). -/
def Router.record (r : Router) (k : EventKind) (subj : Subject) (detail : BitVec 16) : Router :=
  if (r.route k).notify then
    r.enter { kind := k, subject := subj, detail := detail, stamp := r.stamp }
  else r

/-- Step 3: the posting of the kind's cue route at the position it resolves to (R165, R166). -/
def Router.posting (r : Router) (k : EventKind) (target : Option PosIx) : List Posting :=
  match target, (r.route k).cue with
  | some p, some (q, l) => [{ pos := p, cue := q, level := l }]
  | _, _ => []

/-- The EVR takes an event whose cue route resolves to `target` (R165). The posting reaches the Whisper
Unit after the effects of the command that raised the event (log 20). -/
def Media.raise (m : Media) (k : EventKind) (subj : Subject) (detail : BitVec 16)
    (target : Option PosIx) : Media :=
  { m with
    router := m.router.record k subj detail
    postings := m.postings ++ m.router.posting k target }

/-- The position a leg event resolves to: the bound position, otherwise the owner position (R166). -/
def Leg.target (l : Leg) : Option PosIx := l.bound <|> l.owner

/-- Whether NOTIFY is asserted (R169). -/
def Router.notifyPin (r : Router) : Bool := !r.notices.isEmpty

/-! ## Records on the link (Table 12-4) -/

def Subject.bytes : Subject → List Byte
  | .none => [0, 0]
  | .position p => [1, byte p]
  | .leg n => [2, byte n]
  | .group g => [3, byte g]
  | .slot k => [4, byte k]
  | .clip id => [5, byte id]
  | .sector s => [6, byte s]

/-- The 8 bytes of a notice record. -/
def Notice.payload (n : Notice) : List Byte := n.subject.bytes ++ le2 n.detail.toNat ++ le4 n.stamp.toNat

/-- A record as NFET returns it: its tag and its payload. -/
def Notice.bytes (n : Notice) : List Byte := n.kind.tag ++ n.payload

/-! ## Requests -/

/-- NFET (R170). -/
def ownNfet (payload : List Byte) (r : Router) : Router × Reply :=
  match payload with
  | [b] =>
    match readRange 1 8 b.toNat with
    | none => (r, .refuse .badarg)
    | some n =>
      match r.mode with
      | .push => (r, .refuse .state)
      | .poll =>
        let taken := r.notices.take n
        let left := r.notices.drop n
        ({ r with notices := left },
          .ok ([byte taken.length, flagByte r.overflow, byte left.length] ++
            (taken.map Notice.bytes).flatten))
  | _ => (r, .refuse .length)

/-- NCLR (R173). -/
def ownNclr (payload : List Byte) (r : Router) : Router × Reply :=
  match payload with
  | [] =>
    ({ r with notices := [], overflow := false }, .ok [byte r.notices.length, flagByte r.overflow])
  | _ => (r, .refuse .length)

/-- NMOD (R172). -/
def ownNmod (payload : List Byte) (r : Router) : Router × Reply :=
  match payload with
  | [b] =>
    match readDelivery b with
    | none => (r, .refuse .badarg)
    | some d => ({ r with mode := d }, .ok [d.code, byte r.notices.length])
  | _ => (r, .refuse .length)

/-- A route table entry in the reply of ROUT. -/
def Route.bytes (e : Route) : List Byte :=
  match e.cue with
  | none => [flagByte e.notify, 0xFF, 0xFF]
  | some (q, l) => [flagByte e.notify, byte q, l.code]

/-- The cue route that the cue list and level fields of ROUT SET spell, or none for a value out of range;
with cue list none the level is not checked (R174). -/
def readRoute (cue level : Byte) : Option (Option (CueIx × Level)) :=
  match readIxNone 32 cue with
  | none => none
  | some none => some none
  | some (some q) => (readLevel level).map fun l => some (q, l)

/-- ROUT (R174). -/
def ownRout (payload : List Byte) (r : Router) : Router × Reply :=
  match payload with
  | [t0, t1, t2, t3, action, notify, cue, level] =>
    match kindOfTag [t0, t1, t2, t3] with
    | none => (r, .refuse .badarg)
    | some k =>
      if action = 0 then (r, .ok (r.route k).bytes)
      else if action = 1 then
        match readFlag notify, readRoute cue level with
        | some n, some c =>
          if c.isSome && !k.routable then (r, .refuse .badarg)
          else
            let e : Route := { notify := n, cue := c }
            ({ r with routes := put r.routes k.index e }, .ok e.bytes)
        | _, _ => (r, .refuse .badarg)
      else (r, .refuse .badarg)
  | _ => (r, .refuse .length)

end Sys2Proof.Machine
end

