-- ==== Sys2Proof/Machine/Store.lean ====
section
/-! DEFINITION. The Clip Store Controller (chapter 9): the directory and its references, the program list,
the refill and erase queues, the flash arbiter, the ends of flash operations, the start-up scan, and the
store's requests. -/

namespace Sys2Proof.Machine

/-! ## Geometry (R138) -/

/-- The most samples one clip can hold. -/
def maxSamples : Nat := 8388480

/-- Sectors a clip of `s` samples needs. -/
def sectorsFor (s : Nat) : Nat :=
  if 2 * s ≤ 65280 then 1 else 1 + (2 * s - 65280 + 65535) / 65536

/-- The flash address of data page `k` of a clip that begins at a sector. -/
def dataPageAddr (first : SectorIx) (k : Nat) : Nat := 256 * (256 * first.val + 1 + k)

/-- The flash address of a sector. -/
def sectorAddr (s : SectorIx) : Nat := sectorSize * s.val

/-- The sector an address lies in. -/
def sectorOf (a : Nat) : Option SectorIx :=
  if h : a / sectorSize < 256 then some ⟨a / sectorSize, h⟩ else none

/-- The sectors of a clip, first sector first, ascending. -/
def Clip.run (c : Clip) : List SectorIx :=
  (List.finRange 256).filter fun s => decide (c.first.val ≤ s.val ∧ s.val < c.first.val + c.sectors)

/-! ## Sector map, directory -/

/-- Sectors put in one state. -/
def markSectors (v : Vector (Option SectorState) 256) (x : SectorState) (ss : List SectorIx) :
    Vector (Option SectorState) 256 :=
  ss.foldl (fun v s => put v s (some x)) v

/-- Number of sectors in a state. -/
def Store.countSectors (st : Store) (x : Option SectorState) : Nat := st.sectors.toList.countP (· == x)

/-- The directory entry of an id. -/
def Store.clip (st : Store) (id : ClipIx) : Option Clip := look st.dir id

/-- The store with one directory entry replaced or removed. -/
def Store.setClip (st : Store) (id : ClipIx) (c : Option Clip) : Store := { st with dir := put st.dir id c }

/-- The lowest id whose entry passes a test. -/
def Store.findClip (st : Store) (p : Clip → Bool) : Option ClipIx :=
  (List.finRange 128).find? fun id =>
    match st.clip id with
    | some c => p c
    | none => false

/-- Number of entries in the directory. -/
def Store.clipCount (st : Store) : Nat := st.dir.toList.countP Option.isSome

/-- The clip that is WRITING. -/
def Store.writing (st : Store) : Option ClipIx := st.findClip fun c => c.state = .writing

/-! ## Erase queue (R149) -/

/-- The quiet window, 200 ms in frames. -/
def quietWindow : Nat := framesOf 200

/-- Sectors appended to the erase queue, becoming QUEUED; an append made while no run is open restarts the
quiet window (R149). -/
def Store.appendErase (st : Store) (ss : List SectorIx) : Store :=
  if ss.isEmpty then st
  else
    { st with
      sectors := markSectors st.sectors .queued ss
      eraseQueue := st.eraseQueue ++ ss
      quiet := if st.runOpen then st.quiet else some quietWindow }

/-- Sectors taken out of the erase queue; the run closes when the queue becomes empty (R149). -/
def Store.dequeue (st : Store) (ss : List SectorIx) : Store :=
  let q := st.eraseQueue.filter fun s => !ss.contains s
  { st with eraseQueue := q, runOpen := st.runOpen && !q.isEmpty }

/-- R153: the sectors of a RETIRING clip at reference count 0 go to the erase queue. -/
def Store.queueClip (st : Store) (id : ClipIx) : Store :=
  match st.clip id with
  | none => st
  | some c => (st.setClip id (some { c with eraseLeft := c.sectors, goneBad := 0 })).appendErase c.run

/-! ## References (R139) -/

/-- Whether a reference on the clip would be granted: it stands in the directory in state VALID. -/
def Store.grants (st : Store) (id : ClipIx) : Bool :=
  match st.clip id with
  | some c => c.state = .valid
  | none => false

/-- A reference taken on a VALID clip. -/
def Store.takeRef (st : Store) (id : ClipIx) : Store :=
  match st.clip id with
  | some c => st.setClip id (some { c with refs := c.refs + 1 })
  | none => st

/-- A reference dropped; a RETIRING clip whose count falls to 0 is queued for erase (R153). -/
def Store.dropRef (st : Store) (id : ClipIx) : Store :=
  match st.clip id with
  | none => st
  | some c =>
    let st := st.setClip id (some { c with refs := c.refs - 1 })
    if c.state = .retiring ∧ c.refs = 1 then st.queueClip id else st

/-! ## Programs and the arbiter -/

/-- The header of a clip (section 12.5); the CRC leaves the protect byte out. -/
def headerBytes (id : ClipIx) (c : Clip) : List Byte :=
  let head : List Byte := [0x4F, 0x4A, 0x43, 0x4C, byte id]
  let tail := le4 c.samples ++ le2 c.sectors
  head ++ [if c.prot then 0x00 else 0xFF] ++ tail ++ le2 (crc16 (head ++ tail)).toNat

/-- A page's bytes, the unfilled ones 0xFF. -/
def padPage (bs : List Byte) : List Byte := bs ++ List.replicate (256 - bs.length) 0xFF

/-- Where a program writes: an address beyond the flash if its clip has no entry, which no reachable state
has (log 44). -/
def Store.programAddr (st : Store) : Program → Nat
  | .data id page _ =>
    match st.clip id with
    | some c => dataPageAddr c.first page
    | none => flashSize
  | .header id =>
    match st.clip id with
    | some c => sectorAddr c.first
    | none => flashSize
  | .protect _ s => sectorAddr s + 5
  | .zero s => sectorAddr s

/-- The bytes a program writes, taken when it starts (R142, R143, R151, R155). -/
def Store.programBytes (st : Store) : Program → List Byte
  | .data _ _ b => padPage (look st.buffers b).data
  | .header id =>
    match st.clip id with
    | some c => headerBytes id c
    | none => []
  | .protect _ _ => [0x00]
  | .zero _ => List.replicate 256 0x00

/-- Whether a program is a data page or the header of the clip. -/
def Program.writes (id : ClipIx) : Program → Bool
  | .data i _ _ => i = id
  | .header i => i = id
  | .protect _ _ => false
  | .zero _ => false

/-- Whether a program is a data page of the clip. -/
def Program.isData (id : ClipIx) : Program → Bool
  | .data i _ _ => i = id
  | .header _ | .protect _ _ | .zero _ => false

/-- A program begins: a data page or header makes its sector one in which a program has begun (R142). -/
def Store.startProgram (st : Store) (p : Program) : Store :=
  let a := st.programAddr p
  let begun :=
    match p, sectorOf a with
    | .data _ _ _, some s | .header _, some s => put st.begun s true
    | _, _ => st.begun
  { st with
    op := .program { prog := p, addr := a, bytes := st.programBytes p, run := 0, dropped := false }
    begun := begun }

/-- The erase of a sector begins: it leaves the queue and is ERASING, and a RETIRING clip whose first
sector it is becomes ERASING (R150). -/
def Store.startErase (st : Store) (s : SectorIx) : Store :=
  let st := st.dequeue [s]
  let st :=
    match st.findClip fun c => c.state = .retiring && c.first = s with
    | some id => { st with dir := upd st.dir id (Option.map fun c => { c with state := .erasing }) }
    | none => st
  { st with
    sectors := put st.sectors s (some .erasing)
    erase := some { sector := s, phase := .running, run := 0, since := 0, suspends := 0 } }

/-- Whether an erase is suspended. -/
def Store.eraseSuspended (st : Store) : Bool :=
  match st.erase with
  | some e => e.phase = .suspended
  | none => false

/-- Whether the flash is free: no read or program under way, and no erase that is not suspended (R146). -/
def Store.flashFree (st : Store) : Bool :=
  decide (st.op = .none) && (st.erase.isNone || st.eraseSuspended)

/-- The suspended erase runs again and its resume hold begins (R148). -/
def Store.resumeErase (st : Store) : Store :=
  { st with erase := st.erase.map fun e => { e with phase := .running, since := 0 } }

/-- The arbiter: where the flash is free, the next operation begins (R146). While the store is SCANNING the
scan's own reads take the place of all. -/
def Store.kick (st : Store) : Store :=
  if !st.flashFree || st.state = .scanning then st
  else
    match st.refills, st.eraseSuspended with
    | r :: _, _ => { st with op := .read r false }
    | [], true => st.resumeErase
    | [], false =>
      match st.programs with
      | p :: ps => { st with programs := ps }.startProgram p
      | [] =>
        match st.runOpen, st.eraseQueue with
        | true, s :: _ => st.startErase s
        | _, _ => st

/-- A program joins the list and begins if the flash is free (R142). -/
def Store.addProgram (st : Store) (p : Program) : Store :=
  { st with programs := st.programs ++ [p] }.kick

/-- The resume hold, 4 ms of running time in frames (R148). -/
def resumeHold : Nat := framesOf 4

/-- A running erase whose resume hold has passed has its suspend issued (R148). -/
def Store.issueSuspend (st : Store) : Store :=
  { st with
    erase := st.erase.map fun e =>
      if e.phase = .running ∧ resumeHold ≤ e.since then { e with phase := .suspending } else e }

/-- A refill joins the queue; a free flash begins it, and an erase that has run its resume hold is
suspended for it (R147, R148; log 47). -/
def Store.addRefill (st : Store) (r : Refill) : Store :=
  { st with refills := st.refills ++ [r] }.issueSuspend.kick

/-- The refill of a cursor withdrawn: it leaves the queue, and a read of it under way will be handed to no
cursor (R147). -/
def Store.withdrawRefill (st : Store) (c : CurIx) : Store :=
  { st with
    refills := st.refills.filter fun r => r.cursor ≠ c
    op :=
      match st.op with
      | .read r w => .read r (w || decide (r.cursor = c))
      | op => op }

/-! ## Abandoning the clip being written (R144, R145) -/

/-- Both buffers and the pending programs of a clip are discarded; its RESERVED sectors in which a program
has begun are queued, the others go back to ERASED, and the entry is removed. A program of it under way
goes on, and its result will not be used (log 35). -/
def Store.dropClip (st : Store) (id : ClipIx) : Store :=
  match st.clip id with
  | none => st
  | some c =>
    let own := c.run.filter fun s => look st.sectors s = some .reserved
    let st :=
      { st with
        buffers := Vector.replicate 2 PageBuf.empty
        programs := st.programs.filter fun p => !p.writes id
        op :=
          match st.op with
          | .program p => .program { p with dropped := p.dropped || p.prog.writes id }
          | op => op
        sectors := markSectors st.sectors .erased (own.filter fun s => !look st.begun s) }
    (st.appendErase (own.filter fun s => look st.begun s)).setClip id none

/-! ## Events of the store -/

/-- CLIP_READY, CLIP_GONE, STORE_FAULT and STORE_READY carry no cue route (R166). -/
def Media.raiseStore (m : Media) (k : EventKind) (subj : Subject) (detail : BitVec 16) : Media :=
  m.raise k subj detail none

/-- `Media` with the store changed. -/
def Media.onStore (m : Media) (f : Store → Store) : Media := { m with store := f m.store }

/-- The arbiter chooses the flash's next operation. -/
def Media.kick (m : Media) : Media := m.onStore Store.kick

/-- The end of a format: the erase queue is empty and no erase is under way (R156). -/
def Media.formatDone (m : Media) : Media :=
  if m.store.state = .formatting ∧ m.store.eraseQueue = [] ∧ m.store.erase = none then
    (m.onStore fun st => { st with state := .ready }).raiseStore .storeReady .none 0
  else m

/-! ## Headers, and operations that fell short -/

/-- The clip a page 0 describes, if its header passes every test of R157 but that of the ids seen (log 51). -/
def readHeader (s : SectorIx) (page : List Byte) : Option (ClipIx × Clip) :=
  match page with
  | m0 :: m1 :: m2 :: m3 :: idb :: protb :: n0 :: n1 :: n2 :: n3 :: k0 :: k1 :: c0 :: c1 :: _ =>
    let samples := leNat [n0, n1, n2, n3]
    let count := leNat [k0, k1]
    match readClip idb with
    | none => none
    | some id =>
      if [m0, m1, m2, m3] = [0x4F, 0x4A, 0x43, 0x4C] ∧
          crc16 [m0, m1, m2, m3, idb, n0, n1, n2, n3, k0, k1] = BitVec.ofNat 16 (leNat [c0, c1]) ∧
          1 ≤ samples ∧ samples ≤ maxSamples ∧ count = sectorsFor samples ∧ s.val + count ≤ 256 then
        some (id,
          { first := s, sectors := count, samples := samples, state := .valid, prot := protb = 0x00,
            refs := 0, remaining := 0, finishing := false, nextPage := 0, eraseLeft := 0, goneBad := 0 })
      else none
  | _ => none

/-- Whether page 0 of a sector reads as a valid header, whatever ids other headers give. -/
def headerReads (flash : List Host.Cell) (s : SectorIx) : Bool :=
  (readHeader s (flashBytes flash (sectorAddr s) 14)).isSome

/-- What an erase that failed or was cut short leaves: each bit set or not, but no header, which no longer reads
correctly (R137, R151, R157); where the bits alone would leave one, its first byte is erased (log 19). -/
def eraseShort (nonce : Nat) (flash : List Host.Cell) (s : SectorIx) : List Host.Cell :=
  let out := flashEraseCut nonce flash s
  if headerReads out s then flashWrite out (sectorAddr s) 0xFF else out

/-- What a program that failed, or was cut short by a reset, leaves: each bit cleared or not (log 19), with
these bounds. A failed protect program leaves its 0xFF (R155). A zeroing leaves no header, and one that
failed a sector that is not blank (R151): where the bits alone would not, its first byte is as programmed. A
header program, and a failed data page, makes no header that was not there (R137, R138, R157): where the bits
alone would, no bit is cleared. -/
def programShort (nonce : Nat) (flash : List Host.Cell) (s : SectorIx) (p : RunningProgram) (failed : Bool) :
    List Host.Cell :=
  let out := flashProgramCut nonce flash p.addr p.bytes
  let found := headerReads out s && !headerReads flash s
  match p.prog with
  | .protect _ _ => if failed then flash else out
  | .zero _ =>
    if headerReads out s || (failed && flashBlank out s) then
      flashWrite out p.addr (flashRead flash p.addr &&& p.bytes.headD 0xFF)
    else out
  | .header _ => if found then flash else out
  | .data _ _ _ => if found && failed then flash else out

/-! ## Ends of flash operations -/

/-- The header is requested when FINI has sealed the clip and every data page program has completed
(R143). -/
def Store.requestHeader (st : Store) (id : ClipIx) : Store :=
  match st.clip id with
  | none => st
  | some c =>
    let busy :=
      match st.op with
      | .program p => p.prog.isData id && !p.dropped
      | .none => false
      | .read _ _ => false
    if c.state = .writing ∧ c.finishing ∧ !busy ∧ !(st.programs.any (Program.isData id)) then
      { st with programs := st.programs ++ [.header id] }
    else st

/-- A data page, protect or zeroing program is done: its bytes are on the flash and its buffer is free
(R142, R143). None where the address does not exist. -/
def pageProgramDone (m : Media) (flash : List Host.Cell) (p : RunningProgram) :
    Option (Media × List Host.Cell) :=
  if p.addr + p.bytes.length ≤ flashSize then
    let st := { m.store with op := .none }
    let st :=
      match p.prog, p.dropped with
      | .data id _ b, false => { st with buffers := put st.buffers b PageBuf.empty }.requestHeader id
      | _, _ => st
    some ({ m with store := st }.kick, flashProgram flash p.addr p.bytes)
  else none

/-- The header program is done: the clip is VALID and CLIP_READY is raised (R143). A PROT taken while it
ran has its protect program added (R155). -/
def headerProgramDone (m : Media) (flash : List Host.Cell) (p : RunningProgram) (id : ClipIx) :
    Option (Media × List Host.Cell) :=
  if p.addr + p.bytes.length ≤ flashSize then
    let m := m.onStore fun st => { st with op := .none }
    let flash := flashProgram flash p.addr p.bytes
    match p.dropped, m.store.clip id with
    | false, some c =>
      let m := m.onStore fun st =>
        { (st.setClip id (some { c with state := .valid, remaining := 0, finishing := false })) with
          sectors := markSectors st.sectors .clip c.run
          programs :=
            if c.prot && decide (p.bytes[5]? ≠ some 0x00) then st.programs ++ [.protect id c.first]
            else st.programs }
      some ((m.raiseStore .clipReady (.clip id) (detail1 (byte c.first))).kick, flash)
    | _, _ => some (m.kick, flash)
  else none

/-- A program has failed: the clip being written is lost and the sector is BAD (R145), a protect program
only raises STORE_FAULT (R155), and a zeroing leaves the sector BAD (R151). -/
def programFailed (m : Media) (flash : List Host.Cell) (p : RunningProgram) :
    Option (Media × List Host.Cell) :=
  match sectorOf p.addr, decide (p.addr + p.bytes.length ≤ flashSize) with
  | none, _ | _, false => none
  | some s, true =>
    let flash := programShort m.nonce flash s p true
    let m := { m with store := { m.store with op := .none }, nonce := m.nonce + 1 }
    let lost (id : ClipIx) : Media :=
      let m := m.onStore fun st =>
        let st := { st with sectors := put st.sectors s (some .bad) }.dequeue [s]
        if p.dropped then st else st.dropClip id
      m.raiseStore .storeFault (.sector s) (detail2 FaultCause.program.code (byte id))
    let m :=
      match p.prog with
      | .data id _ _ => lost id
      | .header id => lost id
      | .protect id _ => m.raiseStore .storeFault (.sector s) (detail2 FaultCause.protect.code (byte id))
      | .zero _ => m
    some (m.formatDone.kick, flash)

/-- The clip whose sectors the erase of a sector counts for (R150). -/
def Store.eraseOwner (st : Store) (s : SectorIx) : Option ClipIx :=
  st.findClip fun c => c.state = .erasing && c.run.contains s

/-- A sector is done for its clip, erased or gone BAD; with the last one the entry goes and CLIP_GONE is
raised, with the number gone BAD at its largest value if it exceeds its byte (R150, R151, R189). -/
def Media.sectorDone (m : Media) (s : SectorIx) (bad : Bool) : Media :=
  match m.store.eraseOwner s with
  | none => m
  | some id =>
    match m.store.clip id with
    | none => m
    | some c =>
      let gone := c.goneBad + (if bad then 1 else 0)
      if c.eraseLeft ≤ 1 then
        (m.onStore fun st => st.setClip id none).raiseStore .clipGone (.clip id)
          (detail1 (byte (min 255 gone)))
      else
        m.onStore fun st =>
          st.setClip id (some { c with eraseLeft := c.eraseLeft - 1, goneBad := gone })

/-- The erase is done (R150). -/
def eraseDone (m : Media) (flash : List Host.Cell) (e : EraseOp) : Media × List Host.Cell :=
  let m := m.onStore fun st => { st with sectors := put st.sectors e.sector (some .erased), erase := none }
  (((m.sectorDone e.sector false).formatDone).kick, flashErase flash e.sector)

/-- The erase has failed: the sector is BAD, its page 0 will be zeroed, and STORE_FAULT is raised
(R151). -/
def eraseFailed (m : Media) (flash : List Host.Cell) (e : EraseOp) : Media × List Host.Cell :=
  let flash := eraseShort m.nonce flash e.sector
  let owner := m.store.eraseOwner e.sector
  let m :=
    { m with
      nonce := m.nonce + 1
      store :=
        { m.store with
          sectors := put m.store.sectors e.sector (some .bad)
          erase := none
          programs := m.store.programs ++ [Program.zero e.sector] } }
  let m := m.raiseStore .storeFault (.sector e.sector) (detail2 FaultCause.erase.code (ixByte owner))
  (((m.sectorDone e.sector true).formatDone).kick, flash)

/-- What a reset that cuts an operation short leaves on the flash (R157; log 19). -/
def cutFlash (st : Store) (nonce : Nat) (flash : List Host.Cell) : List Host.Cell :=
  match st.op, st.erase with
  | .program p, _ =>
    match sectorOf p.addr, decide (p.addr + p.bytes.length ≤ flashSize) with
    | some s, true => programShort nonce flash s p false
    | _, _ => flash
  | _, some e => eraseShort nonce flash e.sector
  | _, none => flash

/-! ## Start-up scan (R157, R158) -/

/-- The clip a page 0 describes, if its header is valid and no earlier header of this scan gave its id
(R157). -/
def scanHeader (st : Store) (s : SectorIx) (page : List Byte) : Option (ClipIx × Clip) :=
  (readHeader s page).filter fun found => (st.clip found.1).isNone

/-- The first sector from a number on that has no state yet. -/
def Store.undecidedFrom (st : Store) (k : Nat) : Option SectorIx :=
  (List.finRange 256).find? fun s => decide (k ≤ s.val) && (look st.sectors s).isNone

/-- The scan is over: the store is READY and STORE_READY carries the clips found (R158). -/
def Media.scanDone (m : Media) : Media :=
  ((m.onStore fun st => { st with state := .ready, scan := .none }).raiseStore .storeReady .none
    (detail1 (byte m.store.clipCount))).kick

/-- The blank check goes on from a sector, or the scan is over (R158). -/
def Media.blankCheckFrom (m : Media) (k : Nat) : Media :=
  match m.store.undecidedFrom k with
  | some s => m.onStore fun st => { st with scan := .blankCheck s }
  | none => m.scanDone

/-- A page 0 has been read (R157). -/
def Media.scanRead (m : Media) (flash : List Host.Cell) (s : SectorIx) : Media :=
  let st :=
    match scanHeader m.store s (flashBytes flash (sectorAddr s) 14) with
    | some (id, c) =>
      { (m.store.setClip id (some c)) with sectors := markSectors m.store.sectors .clip c.run }
    | none => m.store
  match st.undecidedFrom (s.val + 1) with
  | some s' => { m with store := { st with scan := .readPage s' } }
  | none => Media.blankCheckFrom { m with store := st } 0

/-- A blank check has ended (R158). -/
def Media.scanBlank (m : Media) (flash : List Host.Cell) (s : SectorIx) : Media :=
  let m := m.onStore fun st =>
    if flashBlank flash s then { st with sectors := put st.sectors s (some .erased) }
    else st.appendErase [s]
  m.blankCheckFrom (s.val + 1)

/-! ## Requests -/

/-- The lowest run of `n` ERASED sectors (R140). -/
def Store.findRun (st : Store) (n : Nat) : Option SectorIx :=
  (List.finRange 256).find? fun s =>
    decide (s.val + n ≤ 256) &&
      (List.finRange 256).all fun t =>
        !(decide (s.val ≤ t.val ∧ t.val < s.val + n)) || look st.sectors t == some .erased

/-- OPEN (R140). -/
def ownOpen (payload : List Byte) (st : Store) : Store × Reply :=
  match payload with
  | [idb, n0, n1, n2, n3, protb] =>
    match readClip idb, readRange 1 maxSamples (leNat [n0, n1, n2, n3]), readFlag protb with
    | some id, some s, some prot =>
      if st.state ≠ .ready then (st, .refuse .busy)
      else if st.writing.isSome then (st, .refuse .busy)
      else if (st.clip id).isSome then (st, .refuse .state)
      else
        match st.findRun (sectorsFor s) with
        | none => (st, .refuse .noroom)
        | some first =>
          let c : Clip :=
            { first := first, sectors := sectorsFor s, samples := s, state := .writing, prot := prot,
              refs := 0, remaining := 2 * s, finishing := false, nextPage := 0, eraseLeft := 0,
              goneBad := 0 }
          ({ (st.setClip id (some c)) with
              sectors := markSectors st.sectors .reserved c.run
              begun := c.run.foldl (fun v s => put v s false) st.begun
              buffers := Vector.replicate 2 PageBuf.empty },
            .ok ([byte first] ++ le2 (sectorsFor s) ++ le4 (2 * s)))
    | _, _, _ => (st, .refuse .badarg)
  | _ => (st, .refuse .length)

/-- Free buffer space: 512 bytes less those held (R141). -/
def Store.freeSpace (st : Store) : Nat :=
  512 - (look st.buffers 0).data.length - (look st.buffers 1).data.length

/-- The buffer that DATA fills: the FILLING one, or the lowest EMPTY one (R141; log 32). -/
def Store.fillTarget (st : Store) : Option (Fin 2) :=
  let is (x : BufState) (b : Fin 2) : Bool := (look st.buffers b).state = x
  if is .filling 0 then some 0 else if is .filling 1 then some 1
  else if is .empty 0 then some 0 else if is .empty 1 then some 1 else none

/-- A buffer handed on as the program of the clip's next data page (R141, R143). -/
def Store.requestPage (st : Store) (id : ClipIx) (b : Fin 2) : Store :=
  match st.clip id with
  | none => st
  | some c =>
    { (st.setClip id (some { c with nextPage := c.nextPage + 1 })) with
      buffers := upd st.buffers b fun p => { p with state := .waiting }
      programs := st.programs ++ [.data id c.nextPage b] }

/-- Bytes placed into one buffer, and those left over (R141). -/
def Store.pour (st : Store) (id : ClipIx) (bytes : List Byte) : Store × List Byte :=
  match bytes, st.fillTarget with
  | [], _ => (st, [])
  | _, none => (st, bytes)
  | _, some b =>
    let room := 256 - (look st.buffers b).data.length
    let data := (look st.buffers b).data ++ bytes.take room
    let st := { st with buffers := put st.buffers b { state := .filling, data := data } }
    (if data.length = 256 then st.requestPage id b else st, bytes.drop room)

/-- DATA (R141). -/
def ownData (payload : List Byte) (st : Store) : Store × Reply :=
  if st.state = .scanning then (st, .refuse .busy)
  else
    match st.writing with
    | none => (st, .refuse .notfound)
    | some id =>
      match st.clip id with
      | none => (st, .refuse .notfound)
      | some c =>
        if payload.length < 1 ∨ c.remaining < payload.length then (st, .refuse .length)
        else if st.freeSpace < payload.length then (st, .refuse .busy)
        else
          let left := c.remaining - payload.length
          let (st, rest) := (st.setClip id (some { c with remaining := left })).pour id payload
          ((st.pour id rest).1.kick, .ok (le4 left))

/-- FINI (R143). -/
def ownFini (payload : List Byte) (st : Store) : Store × Reply :=
  match payload with
  | [] =>
    if st.state = .scanning then (st, .refuse .busy)
    else
      match st.writing with
      | none => (st, .refuse .notfound)
      | some id =>
        match st.clip id with
        | none => (st, .refuse .notfound)
        | some c =>
          if c.finishing ∨ 0 < c.remaining then (st, .refuse .state)
          else
            let st := st.setClip id (some { c with finishing := true })
            let st :=
              if (look st.buffers 0).state = .filling then st.requestPage id 0
              else if (look st.buffers 1).state = .filling then st.requestPage id 1
              else st
            ((st.requestHeader id).kick, .ok [])
  | _ => (st, .refuse .length)

/-- The checks that DROP, RTIR, RSTO and PROT share: BADARG, BUSY while SCANNING, NOTFOUND. -/
def withClip (payload : List Byte) (st : Store) (f : ClipIx → Clip → Store × Reply) : Store × Reply :=
  match payload with
  | [idb] =>
    match readClip idb with
    | none => (st, .refuse .badarg)
    | some id =>
      if st.state = .scanning then (st, .refuse .busy)
      else
        match st.clip id with
        | none => (st, .refuse .notfound)
        | some c => f id c
  | _ => (st, .refuse .length)

/-- DROP (R144). -/
def ownDrop (payload : List Byte) (st : Store) : Store × Reply :=
  withClip payload st fun id c =>
    if c.state ≠ .writing ∨ c.finishing then (st, .refuse .state)
    else ((st.dropClip id).kick, .ok [])

/-- RTIR (R152). -/
def ownRtir (payload : List Byte) (st : Store) : Store × Reply :=
  withClip payload st fun id c =>
    if c.prot then (st, .refuse .locked)
    else if c.state ≠ .valid then (st, .refuse .state)
    else
      let st := st.setClip id (some { c with state := .retiring })
      ((if c.refs = 0 then st.queueClip id else st).kick, .ok [byte c.refs])

/-- RSTO (R154). -/
def ownRsto (payload : List Byte) (st : Store) : Store × Reply :=
  withClip payload st fun id c =>
    match c.state with
    | .valid | .writing => (st, .refuse .state)
    | .erasing => (st, .refuse .late)
    | .retiring =>
      let st := st.setClip id (some { c with state := .valid, eraseLeft := 0, goneBad := 0 })
      if st.eraseQueue.contains c.first then
        ({ st with sectors := markSectors st.sectors .clip c.run }.dequeue c.run, .ok [])
      else (st, .ok [])

/-- PROT (R155). -/
def ownProt (payload : List Byte) (st : Store) : Store × Reply :=
  withClip payload st fun id c =>
    match c.state with
    | .retiring | .erasing => (st, .refuse .state)
    | .valid =>
      if c.prot then (st, .ok [])
      else ((st.setClip id (some { c with prot := true })).addProgram (.protect id c.first), .ok [])
    | .writing =>
      if c.prot then (st, .ok []) else (st.setClip id (some { c with prot := true }), .ok [])

/-- FRMT (R156; log 34), up to its own end where nothing is left to erase. -/
def ownFrmt (payload : List Byte) (st : Store) : Store × Reply :=
  match payload with
  | [incl] =>
    match readFlag incl with
    | none => (st, .refuse .badarg)
    | some incl =>
      if st.state ≠ .ready then (st, .refuse .busy)
      else if (st.findClip fun c => c.state = .writing || decide (0 < c.refs)).isSome then
        (st, .refuse .busy)
      else if (st.findClip fun c => c.prot).isSome && !incl then (st, .refuse .locked)
      else
        let clips := (List.finRange 256).filter fun s => look st.sectors s = some .clip
        let st :=
          { st with dir := Vector.replicate 128 none, state := .formatting }.appendErase clips
        (st.kick, .ok (le2 (st.eraseQueue.length + (if st.erase.isSome then 1 else 0))))
  | _ => (st, .refuse .length)

/-- A directory entry in the reply of LIST (section 12.3). -/
def Clip.bytes (id : ClipIx) (c : Clip) : List Byte :=
  [byte id, c.state.code, byte c.first] ++ le2 c.sectors ++ le3 c.samples ++
    [byte ((if c.prot then 1 else 0) + (if c.finishing then 2 else 0)), byte c.refs] ++
    le3 (if c.state = .writing then c.remaining else 0)

/-- LIST (R160). -/
def ownList (payload : List Byte) (st : Store) : Store × Reply :=
  match payload with
  | [idb] =>
    match readClip idb with
    | none => (st, .refuse .badarg)
    | some first =>
      if st.state = .scanning then (st, .refuse .busy)
      else
        let entries := (List.finRange 128).filterMap fun id =>
          if first ≤ id then (st.clip id).map fun c => c.bytes id else none
        let page := entries.take 16
        (st, .ok ([byte st.clipCount, byte page.length] ++ page.flatten))
  | _ => (st, .refuse .length)

/-- The current flash operation as STOR reports it (Table 12-2); the scan's reads are reads (log 31). -/
def Store.opCode (st : Store) : Byte :=
  match st.op, st.erase with
  | .none, none =>
    match st.scan with
    | .none | .awaitDevice => 0
    | .readPage _ | .blankCheck _ => 1
  | .read _ _, none => 1
  | .program _, _ => 2
  | .none, some e => if e.phase = .suspended then 4 else 3
  | .read _ _, some _ => 5

/-- STOR (R161). With no current erase its suspend count and running time are none (log 31). -/
def ownStor (payload : List Byte) (st : Store) : Store × Reply :=
  match payload with
  | [] =>
    let counts := [some .erased, some .reserved, some .clip, some .queued, some .erasing, some .bad, none]
    (st, .ok ([st.state.code] ++ (counts.map fun x => le2 (st.countSectors x)).flatten ++
      le2 st.eraseQueue.length ++ [flagByte st.runOpen, byte st.refills.length, st.opCode] ++
      le2None (st.erase.map fun e => e.sector.val) ++ le2None (st.erase.map fun e => e.suspends) ++
      le2None (st.erase.map fun e => msLeft e.run)))
  | _ => (st, .refuse .length)

end Sys2Proof.Machine
end

