-- ==== Sys2Proof/Machine/Flags.lean ====
section
/-! DEFINITION. Flags and states that follow from other state: effective mute (R6), a canceller's state
(Table 3-2), the discard counters (R179), and what a change of canceller state carries with it. -/

namespace Sys2Proof.Machine

/-- Effective mute: the present flag is set, and the key is HELD or the host mute flag is set (R6). -/
def Position.muted (p : Position) : Bool := p.present && (p.keyHeld || p.hostMute)

/-- A counter that stays at its largest value (R179). -/
def bump16 (x : BitVec 16) : BitVec 16 := if x = 0xFFFF then x else x + 1

/-- Table 3-2, first row that matches; a combination outside the table, which R43 rules out, is IDLE
(log 45). -/
def canTable (holds waits : Bool) (leg : LegState) (mode : EchoMode) (w : Working) : CanState :=
  match holds, waits, leg, mode with
  | false, false, _, _ => .idle
  | false, true, .connecting, .on | false, true, .connecting, .freeze | false, true, .connecting, .bypass
  | false, true, .talking, .on | false, true, .talking, .freeze | false, true, .talking, .bypass => .waiting
  | true, _, .parked, .on | true, _, .parked, .freeze | true, _, .parked, .bypass
  | true, _, .connecting, .on | true, _, .connecting, .freeze | true, _, .connecting, .bypass => .held
  | true, _, .talking, .freeze => .held
  | true, _, .talking, .bypass => .bypassed
  | true, _, .talking, .on =>
    match w with
    | .converging => .converging
    | .converged => .converged
  | _, _, _, _ => .idle

/-- The states in which double talk and ERLE are measured (R44). -/
def CanState.measures : CanState → Bool
  | .converging | .converged => true
  | .idle | .waiting | .held | .bypassed => false

/-- A window of highway frames: 4 ms (R51). -/
def echoWindowFrames : Nat := 32

/-- Whether a reference level is at or above −45 dBFS (R51). -/
def referenceLoud (sq : Nat) : Bool := levelAtLeast sq echoWindowFrames (-450)

/-- A window about to begin: it adapts where the last 32 frames of the reference history, which are the window
before, were loud enough and there is no double talk (R51). -/
def Canceller.freshWindow (c : Canceller) : EchoWindow :=
  { EchoWindow.zero with
    adapts := referenceLoud (sumSquares (c.history.take echoWindowFrames)) && !c.doubleTalk }

/-- A window that runs does not adapt for its rest; one about to begin is as it was decided (R51). -/
def EchoWindow.cutOff (w : EchoWindow) : EchoWindow := { w with adapts := w.adapts && w.count == 0 }

/-- A canceller takes a state. A change clears the timer, and the double-talk flag outside CONVERGING and
CONVERGED; entry into one of these from another state begins a window, and a change between the two during a
window stops adaptation for the rest of it (R47, R51, R52, R53). -/
def Canceller.enter (c : Canceller) (st : CanState) : Canceller :=
  if c.state = st then c
  else
    { c with
      state := st
      timer := 0
      doubleTalk := c.doubleTalk && st.measures
      window :=
        match c.state.measures, st.measures with
        | _, false => EchoWindow.zero
        | true, true => c.window.cutOff
        | false, true => c.freshWindow }

/-- The state set anew from what it follows (R43). -/
def Canceller.restate (c : Canceller) (leg : Leg) (waits : Bool) : Canceller :=
  c.enter (canTable (!c.held.isEmpty) waits leg.state leg.mode c.working)

end Sys2Proof.Machine
end

