-- ==== Sys2Proof/Machine/Echo.lean ====
section
/-! DEFINITION. One canceller (chapter 3): what it holds, what it produces in a frame, and what the end of a
window decides. -/

namespace Sys2Proof.Machine

/-- Frames of reference history: 128 ms (R44). -/
def historyFrames : Nat := 1024

/-- Taps in a segment (section 3). -/
def tapsPerSegment : Nat := 128

/-- A granted segment with its taps at zero (R46). -/
def HeldSeg.fresh (i : SegIx) : HeldSeg := { num := i, taps := List.replicate tapsPerSegment 0 }

/-- Segments granted: appended with zero taps, and a canceller that held none starts afresh (R46). -/
def Canceller.granted (c : Canceller) (segs : List SegIx) : Canceller :=
  let c' := { c with held := c.held ++ segs.map HeldSeg.fresh }
  if c.held.isEmpty then { c' with working := .converging, erle := 0, timer := 0 } else c'

/-- Every segment lost (R49, R50, R55). -/
def Canceller.lost (c : Canceller) (reclaimed : Bool) : Canceller :=
  { c with held := [], reclaimed := reclaimed, working := .converging, erle := 0, timer := 0 }

/-- The reset option: zero taps and a fresh start; nothing for a canceller that holds no segment (R57). A
window that runs goes on without adapting, and counts at its end as one in which the canceller did not adapt
(log 29); one about to begin is the next window, which R51 decides anew with the double-talk flag clear. -/
def Canceller.resetOption (c : Canceller) : Canceller :=
  if c.held.isEmpty then c
  else
    let c : Canceller :=
      { c with
        held := c.held.map fun h => HeldSeg.fresh h.num
        working := .converging
        erle := 0
        timer := 0
        doubleTalk := false }
    { c with
      window :=
        if c.state.measures && c.window.count == 0 then c.freshWindow else c.window.cutOff }

/-- All taps in order: the segment at place k holds taps 128k to 128k + 127 (R44). -/
def Canceller.taps (c : Canceller) : List Tap := c.held.flatMap HeldSeg.taps

/-- What one tap contributes: nothing for a zero tap or silence (log 12). -/
def tapTerm (t : Tap) (x : Sample) : Int := if t = 0 ∨ x = 0 then 0 else Config.tapWeigh t x.toInt

/-- The echo estimate: tap i weighs the reference sample of i frames earlier (R44). -/
def echoEstimate (taps : List Tap) (history : List Sample) : Int :=
  (List.zipWith tapTerm taps history).sum

/-- Taps after one frame of adaptation, numbered from `k` on (R51; log 12). -/
def adaptFrom (nonce leg : Nat) : Nat → List HeldSeg → List HeldSeg
  | _, [] => []
  | k, h :: hs =>
    { h with taps := h.taps.mapIdx fun i t => Config.adaptTap nonce leg (k + i) t } ::
      adaptFrom nonce leg (k + h.taps.length) hs

/-- A sample's power. -/
def power (x : Int) : Nat := x.natAbs ^ 2

/-- One highway frame of the canceller of leg `n`: the outbound enters the history, the estimate is
subtracted where the state says so, and a measuring canceller adds to its window and adapts where R51
allows (R40, R44). -/
def Canceller.frame (nonce : Nat) (n : LegIx) (c : Canceller) (outbound trunk : Sample) :
    Canceller × Sample :=
  let history := (outbound :: c.history).take historyFrames
  let c := { c with history := history }
  match c.state with
  | .idle | .waiting | .bypassed => (c, trunk)
  | .held => (c, limit16 (trunk.toInt - echoEstimate c.taps history))
  | .converging | .converged =>
    let est := echoEstimate c.taps history
    let out := limit16 (trunk.toInt - est)
    let w := c.window
    ({ c with
        held := if w.adapts then adaptFrom nonce n 0 c.held else c.held
        window :=
          { w with
            count := w.count + 1
            ref := w.ref + power outbound.toInt
            rx := w.rx + power trunk.toInt
            est := w.est + power est
            res := w.res + power out.toInt } },
      out)

/-- Whether the receive level exceeds the estimate level by more than 6 dB (R52). -/
def doubleTalkIn (w : EchoWindow) : Bool := !ratioAtLeast w.est w.rx (-60)

/-- The ERLE estimate of a window in which the canceller adapted (R53; log 17). -/
def erleOf (nonce : Nat) (w : EchoWindow) : Nat :=
  if w.rx = 0 ∧ w.res = 0 then min 60 (Config.erleOfSilence nonce) else ratioDb60 w.rx w.res

/-- The convergence condition of a working state (R53). -/
def convergenceMet (w : Working) (erle : Nat) : Bool :=
  match w with
  | .converging => decide (18 ≤ erle)
  | .converged => decide (erle < 10)

/-- The working state changed to. -/
def Working.other : Working → Working
  | .converging => .converged
  | .converged => .converging

/-- The convergence time that changes the working state, in ms (R53). -/
def convergenceLimit : Nat := 500

/-- The convergence timer at its limit: back to 0, with the working state changed (R53). -/
def Canceller.turn (c : Canceller) : Canceller := { c with timer := 0, working := c.working.other }

/-- Whether a window is due to end: 32 frames of a measuring canceller. -/
def Canceller.windowDue (c : Canceller) : Bool :=
  c.state.measures && decide (echoWindowFrames ≤ c.window.count)

/-- The measurement of a window that ends: double talk, ERLE and the convergence timer (R52, R53). -/
def Canceller.measure (nonce : Nat) (c : Canceller) : Canceller :=
  let w := c.window
  let c := { c with doubleTalk := doubleTalkIn w }
  if w.adapts then
    let e := erleOf nonce w
    { c with erle := e, timer := if convergenceMet c.working e then c.timer + 4 else 0 }
  else c

/-- The window after it: it adapts where the reference was loud enough in the one before and there is no
double talk (R51). -/
def Canceller.nextWindow (c : Canceller) (before : EchoWindow) : Canceller :=
  { c with window := { EchoWindow.zero with adapts := referenceLoud before.ref && !c.doubleTalk } }

end Sys2Proof.Machine
end

