-- ==== Sys2Proof/Machine/Pool.lean ====
section
/-! DEFINITION. The Segment Pool (chapter 5) with the hand-offs it makes to cancellers and cursors, and the
refills a ring gives rise to (R94). Leg states, modes and park times are read from the Leg Table. -/

namespace Sys2Proof.Machine

/-! ## Counts and the fit test -/

def SegOwner.isTaps : SegOwner → Bool
  | .taps _ => true
  | .free | .ring _ => false

def SegOwner.isRing : SegOwner → Bool
  | .ring _ => true
  | .free | .taps _ => false

/-- The three counts (R73). -/
def Pool.free (p : Pool) : Nat := p.owner.toList.countP (· == .free)
def Pool.legHeld (p : Pool) : Nat := p.owner.toList.countP SegOwner.isTaps
def Pool.cursorHeld (p : Pool) : Nat := p.owner.toList.countP SegOwner.isRing

/-- The leg limit: 384 less the reserve (R74). -/
def Pool.legLimit (p : Pool) : Nat := 384 - p.reserve

/-- Whether a need fits (Table 5-2). -/
def Pool.fits (p : Pool) (who : Requester) (need : Nat) : Bool :=
  match who with
  | .cursor _ => decide (need ≤ p.free)
  | .leg _ =>
    decide (need + (p.reserve - p.cursorHeld) ≤ p.free) && decide (p.legHeld + need ≤ p.legLimit)

/-- The lowest-numbered FREE segments, `n` of them, ascending (R78). -/
def Pool.lowestFree (p : Pool) (n : Nat) : List SegIx :=
  ((List.finRange 384).filter fun i => look p.owner i == .free).take n

/-- Segments given an owner. -/
def Pool.mark (p : Pool) (segs : List SegIx) (o : SegOwner) : Pool :=
  { p with owner := segs.foldl (fun v i => put v i o) p.owner }

/-- The owner map entry of a requester. -/
def Requester.owner : Requester → SegOwner
  | .leg n => .taps n
  | .cursor c => .ring c

/-! ## The wait list (R76) -/

def WaitEntry.isCursor (e : WaitEntry) : Bool :=
  match e.who with
  | .cursor _ => true
  | .leg _ => false

/-- Whether a requester has an entry. -/
def Pool.waits (p : Pool) (who : Requester) : Bool := p.wait.any fun e => e.who = who

/-- A new entry: a cursor's goes behind the last cursor's, a leg's to the tail. -/
def Pool.insert (p : Pool) (e : WaitEntry) : Pool :=
  match e.who with
  | .leg _ => { p with wait := p.wait ++ [e] }
  | .cursor _ =>
    { p with wait := p.wait.takeWhile WaitEntry.isCursor ++ e :: p.wait.dropWhile WaitEntry.isCursor }

/-- A requester's entry removed; the others close up. -/
def Pool.remove (p : Pool) (who : Requester) : Pool :=
  { p with wait := p.wait.filter fun e => e.who ≠ who }

/-- The need of a requester's entry replaced in place (R83). -/
def Pool.changeNeed (p : Pool) (who : Requester) (need : Nat) : Pool :=
  { p with wait := p.wait.map fun e => if e.who = who then { e with need := need } else e }

/-! ## What the pool reaches in `Media` -/

/-- `Media` with the pool changed. -/
def Media.onPool (m : Media) (f : Pool → Pool) : Media := { m with pool := f m.pool }

/-- `Media` with one canceller changed. -/
def Media.onCan (m : Media) (n : LegIx) (f : Canceller → Canceller) : Media :=
  { m with can := upd m.can n f }

/-- `Media` with one cursor changed. -/
def Media.onCur (m : Media) (c : CurIx) (f : Cursor → Cursor) : Media :=
  { m with cursors := upd m.cursors c f }

/-- A leg's canceller takes the state its inputs give (R43). -/
def Media.restate (legs : Vector Leg 64) (n : LegIx) (m : Media) : Media :=
  m.onCan n fun c => c.restate (look legs n) (m.pool.waits (.leg n))

/-! ## Rings and refills -/

/-- What an item's position counts down from: the frames of a SILENCE or TONE item, 0 for a CLIP item
(Table 12-3). -/
def Item.frames : Item → Nat
  | .clip _ _ => 0
  | .silence ms => framesOf ms
  | .tone _ ms => framesOf ms

/-- The items of a cursor's snapshot. -/
def Cursor.items (cur : Cursor) : List Item :=
  match cur.snapshot with
  | some s => s.items
  | none => []

/-- A place in a list, with the position Table 12-3 reports there (log 21). -/
def placeAt (items : List Item) (i elapsed : Nat) : Place :=
  { index := i, elapsed := elapsed
    shown :=
      match items[i]? with
      | some (.clip _ _) | none => elapsed
      | some it => it.frames - elapsed }

/-- The start of item 0 of the snapshot. -/
def Cursor.firstPlace (cur : Cursor) : Place := placeAt cur.items 0 0

/-- The item a cursor stands in; none in the silence after an empty pass. -/
def Cursor.item (cur : Cursor) : Option Item :=
  match cur.gap, cur.snapshot with
  | false, some s => s.items[cur.index]?
  | _, _ => none

/-- Whether the cursor plays, or is to play, a CLIP item. -/
def Cursor.inClip (cur : Cursor) : Bool :=
  match cur.item with
  | some (.clip _ _) => true
  | some (.silence _) | some (.tone _ _) | none => false

/-- An EMPTY ring segment; with both EMPTY, segment 0 (R94). -/
def emptySeg (r : Vector RingSeg 2) : Option (Fin 2) :=
  if (look r 0).state = .empty then some 0 else if (look r 1).state = .empty then some 1 else none

/-- Samples of a clip, 0 for one without an entry. -/
def Store.samplesOf (st : Store) (id : ClipIx) : Nat :=
  match st.clip id with
  | some c => c.samples
  | none => 0

/-- The refill a cursor issues, where R94 allows one. -/
def Cursor.nextRefill (cur : Cursor) (c : CurIx) (st : Store) : Option Refill :=
  match cur.ring, cur.clip, cur.refill with
  | some r, some id, none =>
    match emptySeg r with
    | some b =>
      if cur.inClip ∧ cur.requested < st.samplesOf id then
        some
          { cursor := c, clip := id, seg := b, first := cur.requested,
            count := min 256 (st.samplesOf id - cur.requested) }
      else none
    | none => none
  | _, _, _ => none

/-- A cursor with a refill outstanding: its segment FILLING, the requested offset moved on (R94). -/
def Cursor.refilling (cur : Cursor) (rf : Refill) : Cursor :=
  { cur with
    ring := cur.ring.map fun r =>
      put r rf.seg { look r rf.seg with state := .filling, first := rf.first, data := [] }
    requested := cur.requested + rf.count
    refill := some rf.seg }

/-- A refill issued where R94 allows (R94). -/
def Media.issueRefill (m : Media) (c : CurIx) : Media :=
  match (look m.cursors c).nextRefill c m.store with
  | none => m
  | some rf => (m.onCur c fun cur => cur.refilling rf).onStore fun st => st.addRefill rf

/-- A ring as granted: both segments EMPTY, segment 0 the first granted (R92). -/
def ringOf (a b : SegIx) : Vector RingSeg 2 :=
  let e (i : SegIx) : RingSeg := { num := i, state := .empty, first := 0, data := [] }
  #v[e a, e b]

/-- A STARTING cursor that holds its ring: SILENCE, TONE and the silence after an empty pass play at once; a
CLIP item issues its first refill (R92). A PAUSED cursor only issues refills (R99). -/
def Media.ringReady (m : Media) (c : CurIx) : Media :=
  let m := m.onCur c fun cur =>
    if cur.state = .starting ∧ !cur.inClip then { cur with state := .playing } else cur
  m.issueRefill c

/-! ## The grant pass (R77–R80) -/

/-- A grant: the lowest-numbered FREE segments go to the requester, its entry leaves the list, and the owner
block is handed the segments (R78). -/
def Media.grant (legs : Vector Leg 64) (who : Requester) (need : Nat) (m : Media) : Media :=
  let segs := m.pool.lowestFree need
  let m := m.onPool fun p => (p.mark segs who.owner).remove who
  match who with
  | .leg n => (m.onCan n fun c => c.granted segs).restate legs n
  | .cursor c =>
    match segs with
    | a :: b :: _ => (m.onCur c fun cur => { cur with ring := some (ringOf a b) }).ringReady c
    | _ => m

/-- A reclaim: every segment of a leg becomes FREE, its canceller is IDLE with the reclaimed mark set, and
ECHO_RECLAIMED is raised (R50, R80). -/
def Media.reclaim (legs : Vector Leg 64) (n : LegIx) (m : Media) : Media :=
  let segs := (look m.can n).held.map HeldSeg.num
  let m := m.onPool fun p => p.mark segs .free
  let m := (m.onCan n fun c => c.lost true).restate legs n
  m.raise .echoReclaimed (.leg n) (detail1 (byte segs.length)) (look legs n).target

/-- How long a leg has been parked: none unless it is a reclaim candidate (R79). -/
def Media.parkedFor (legs : Vector Leg 64) (m : Media) (n : LegIx) : Option Nat :=
  let l := look legs n
  if l.state = .parked ∧ !(look m.can n).held.isEmpty then
    some (match l.parkTime with
      | some t => since m.router.stamp t
      | none => 0)
  else none

/-- The candidate to take first: the longest parked, the lower number among equals (R79). -/
def Media.candidate (legs : Vector Leg 64) (m : Media) : Option LegIx :=
  ((List.finRange 64).foldl
    (fun (best : Option (LegIx × Nat)) n =>
      match m.parkedFor legs n, best with
      | none, _ => best
      | some a, none => some (n, a)
      | some a, some (_, b) => if b < a then some (n, a) else best)
    none).map Prod.fst

/-- The grant pass (R77). Every turn removes a wait entry or a candidate, so the fuel is never spent
(log 38). -/
def Media.passLoop (legs : Vector Leg 64) : Nat → Media → Media
  | 0, m => m
  | fuel + 1, m =>
    match m.pool.wait with
    | [] => m
    | e :: _ =>
      if m.pool.fits e.who e.need then (m.grant legs e.who e.need).passLoop legs fuel
      else
        match m.candidate legs with
        | none => m
        | some n => (m.reclaim legs n).passLoop legs fuel

/-- A grant pass. -/
def Media.pass (legs : Vector Leg 64) (m : Media) : Media := m.passLoop legs (m.pool.wait.length + 65)

/-! ## Requests, releases and withdrawals -/

/-- A requester asks for segments (R75, R83). -/
def Media.ask (legs : Vector Leg 64) (who : Requester) (need : Nat) (m : Media) : Media :=
  if m.pool.waits who then (m.onPool fun p => p.changeNeed who need).pass legs
  else if m.pool.wait.isEmpty && m.pool.fits who need then m.grant legs who need
  else
    let m := m.onPool fun p => p.insert { who := who, need := need }
    let m :=
      match who with
      | .leg n => m.restate legs n
      | .cursor _ => m
    m.pass legs

/-- Segments released by their owner; the pass follows (R81). -/
def Media.release (legs : Vector Leg 64) (segs : List SegIx) (m : Media) : Media :=
  (m.onPool fun p => p.mark segs .free).pass legs

/-- A wait entry withdrawn; a requester with none changes nothing (R82). -/
def Media.withdraw (legs : Vector Leg 64) (who : Requester) (m : Media) : Media :=
  if m.pool.waits who then
    let m := m.onPool fun p => p.remove who
    let m :=
      match who with
      | .leg n => m.restate legs n
      | .cursor _ => m
    m.pass legs
  else m

/-! ## SPRS and SPQY -/

/-- The three counts as replies carry them. -/
def Pool.countBytes (p : Pool) : List Byte := le2 p.free ++ le2 p.legHeld ++ le2 p.cursorHeld

/-- SPRS (R85). -/
def ownSprs (legs : Vector Leg 64) (payload : List Byte) (m : Media) : Media × Reply :=
  match payload with
  | [b] =>
    match readRange 0 112 b.toNat with
    | none => (m, .refuse .badarg)
    | some r =>
      if 384 - r < m.pool.legHeld then (m, .refuse .state)
      else
        let m := (m.onPool fun p => { p with reserve := r }).pass legs
        (m, .ok (byte m.pool.reserve :: m.pool.countBytes))
  | _ => (m, .refuse .length)

/-- A wait-list entry in the reply of SPQY. -/
def WaitEntry.bytes (e : WaitEntry) : List Byte :=
  match e.who with
  | .leg n => [0, byte n, byte e.need]
  | .cursor c => [1, byte c, byte e.need]

/-- SPQY (R86). -/
def ownSpqy (payload : List Byte) (p : Pool) : Reply :=
  match payload with
  | [b] =>
    match readRange 0 119 b.toNat with
    | none => .refuse .badarg
    | some i =>
      let page := (p.wait.drop i).take 64
      .ok (p.countBytes ++ [byte p.reserve] ++ le2 p.legLimit ++
        [byte p.wait.length, byte i, byte page.length] ++ (page.map WaitEntry.bytes).flatten)
  | _ => .refuse .length

end Sys2Proof.Machine
end

