-- ==== Sys2Proof/Machine/Playback.lean ====
section
/-! DEFINITION. The Playback Unit (chapter 6): the Cue Table, entering and leaving items, starting, pausing,
resuming and stopping a cursor, the end of a refill, the sample of a frame, and CQRY. -/

namespace Sys2Proof.Machine

/-! ## Cursors and their owners -/

/-- The cursor of a hold group. -/
def groupCursor (g : GroupIx) : CurIx := ⟨g.val, by omega⟩

/-- The cursor of a position. -/
def posCursor (p : PosIx) : CurIx := ⟨p.val + 8, by omega⟩

/-- The owner of a cursor: a hold group or a position (Table 6-3). -/
def ownerOf (c : CurIx) : GroupIx ⊕ PosIx :=
  if h : c.val < 8 then .inl ⟨c.val, h⟩ else .inr ⟨c.val - 8, by omega⟩

/-- The owner as the subject of an event. -/
def ownerSubject (c : CurIx) : Subject :=
  match ownerOf c with
  | .inl g => .group g
  | .inr p => .position p

/-- Whether a cursor loops: the group cursors (Table 6-3). -/
def loops (c : CurIx) : Bool := decide (c.val < 8)

/-- The frequencies of Table 6-2, in Hz. -/
def toneHz : Fin 8 → Nat
  | 0 => 400 | 1 => 480 | 2 => 620 | 3 => 800 | 4 => 1000 | 5 => 1200 | 6 => 1400 | 7 => 2000

/-! ## Places -/

/-- Whether a time into an item is at or beyond its end: a clip's sample count, or the duration (R92). A clip
gone from the directory has no end, so that its item is entered and then skipped with CLIP_MISSING
(R93, R107). -/
def Item.endsBy (st : Store) (elapsed : Nat) : Item → Bool
  | .clip id _ => (st.clip id).any fun c => decide (c.samples ≤ elapsed)
  | .silence ms => decide (framesOf ms ≤ elapsed)
  | .tone _ ms => decide (framesOf ms ≤ elapsed)

/-- The item index and elapsed time that a start enters at: item 0 for a place beyond the last item, the start
of the next for one at or beyond the end of its item (R92). With no next item there is nothing to enter, and
the index is the number of items (log 50). -/
def resolvePlace (st : Store) (items : List Item) (place : Option Place) : Nat × Nat :=
  match place with
  | none => (0, 0)
  | some p =>
    match items[p.index]? with
    | none => (0, 0)
    | some it => if it.endsBy st p.elapsed then (p.index + 1, 0) else (p.index, p.elapsed)

/-- Frames or samples from an item's start to its end. -/
def Item.length (st : Store) : Item → Nat
  | .clip id _ => st.samplesOf id
  | it => it.frames

/-- The item and position that a start at an index and elapsed time sets, before any skip (R92 step 2). Where
the index is the number of items, the spec names no place: the model takes the end of the last item, so that
the item index stays one of 0–7 (Tables 6-3 and 7-1; log 50). -/
def startPlace (st : Store) (items : List Item) (i elapsed : Nat) : Place :=
  match items[i]?, items.getLast? with
  | none, some it => placeAt items (items.length - 1) (it.length st)
  | _, _ => placeAt items i elapsed

/-- The place a cursor stands at, as it is handed to its owner block (R99, R106; log 21): in the silence after
an empty pass, item 0 at its start. -/
def Cursor.standsAt (cur : Cursor) : Place :=
  if cur.gap then cur.firstPlace
  else
    match cur.item with
    | some (.clip _ _) | none => { index := cur.index, elapsed := cur.place, shown := cur.place }
    | some it => { index := cur.index, elapsed := it.frames - cur.place, shown := cur.place }

/-- The place handed over when a group's last member leaves: a STARTING cursor stands where it was started, be
it that it skipped clips since (R106). -/
def Cursor.leftAt (cur : Cursor) : Place := if cur.state = .starting then cur.begun else cur.standsAt

/-! ## Entering and leaving items (R93) -/

/-- Ring segments set EMPTY. -/
def emptyRing (r : Vector RingSeg 2) : Vector RingSeg 2 :=
  r.map fun g => { g with state := .empty, data := [] }

/-- The cursor enters the first item it can of those from index `i` on, the first at an elapsed time.
Clips that are not VALID are skipped with CLIP_MISSING. Answers whether an item was entered (R93). -/
def Media.enterItems (c : CurIx) : List Item → Nat → Nat → Media → Media × Bool
  | [], _, _, m => (m, false)
  | it :: rest, i, elapsed, m =>
    match it with
    | .clip id _ =>
      if m.store.grants id then
        ((m.onStore fun st => st.takeRef id).onCur c fun cur =>
          { cur with index := i, place := elapsed, clip := some id, requested := elapsed }, true)
      else
        (m.raise .clipMissing (ownerSubject c) (detail1 (byte id)) none).enterItems c rest (i + 1) 0
    | .silence ms =>
      (m.onCur c fun cur => { cur with index := i, place := framesOf ms - elapsed }, true)
    | .tone _ ms =>
      if elapsed = 0 then
        (m.onCur c fun cur => { cur with index := i, place := framesOf ms, phase := 0 }, true)
      else
        ({ (m.onCur c fun cur =>
              { cur with
                index := i, place := framesOf ms - elapsed, phase := Config.resumedPhase m.nonce }) with
            nonce := m.nonce + 1 }, true)

/-- The cursor enters its snapshot at an item index and elapsed time. -/
def Media.enterAt (c : CurIx) (i elapsed : Nat) (m : Media) : Media × Bool :=
  m.enterItems c ((look m.cursors c).items.drop i) i elapsed

/-- The cursor drops its clip reference, if it holds one (R93, R100). -/
def Media.dropReference (c : CurIx) (m : Media) : Media :=
  match (look m.cursors c).clip with
  | none => m
  | some id => (m.onCur c fun cur => { cur with clip := none }).onStore fun st => st.dropRef id

/-- The cursor leaves its item, with its ring EMPTY; a group cursor has then played in its pass (R98). -/
def Media.leaveItem (c : CurIx) (m : Media) : Media :=
  (m.dropReference c).onCur c fun cur =>
    { cur with
      ring := cur.ring.map emptyRing
      played := cur.played || (loops c && !cur.gap)
      gap := false }

/-- A cursor takes a snapshot of a cue list (R90). -/
def Media.snap (c : CurIx) (q : CueIx) (m : Media) : Media :=
  let l := look m.cues q
  m.onCur c fun cur => { cur with snapshot := some { cue := q, items := l.items, duck := l.duck } }

/-! ## Stopping (R100) -/

/-- The outstanding refill withdrawn (R100 step 2). -/
def Media.withdrawRefill (c : CurIx) (m : Media) : Media :=
  (m.onCur c fun cur => { cur with refill := none }).onStore fun st => st.withdrawRefill c

/-- The ring released, or the wait entry withdrawn (R100 step 3). -/
def Media.giveRing (legs : Vector Leg 64) (c : CurIx) (m : Media) : Media :=
  match (look m.cursors c).ring with
  | some r => (m.onCur c fun cur => { cur with ring := none }).release legs [(look r 0).num, (look r 1).num]
  | none => m.withdraw legs (.cursor c)

/-- The record of a stopped cursor (R100 step 4). The item index and position stay as they
stood (log 48). -/
def Cursor.stopped (cur : Cursor) : Cursor :=
  { cur with state := .stopped, snapshot := none, underrun := false, played := false, gap := false }

/-- A cursor stopped, in the order of R100; one already STOPPED is not changed. -/
def Media.stopCursor (legs : Vector Leg 64) (c : CurIx) (m : Media) : Media :=
  if (look m.cursors c).state = .stopped then m
  else
    (((m.dropReference c).withdrawRefill c).giveRing legs c).onCur c Cursor.stopped

/-! ## Starting (R92) -/

/-- Frames of silence after a pass that played nothing: 1,000 ms (R98). -/
def gapFrames : Nat := framesOf 1000

/-- A group cursor's silence after an empty pass; CQRY shows item 0 with the whole second left while such a
cursor is STARTING too (log 50). -/
def Cursor.toGap (cur : Cursor) : Cursor := { cur with gap := true, index := 0, place := gapFrames }

/-- The item index and position of a cursor set to the place it is started at (R92 step 2). -/
def Cursor.beginAt (cur : Cursor) (at_ : Place) : Cursor :=
  { cur with index := at_.index, place := at_.shown, begun := at_ }

/-- A cursor started on a cue list, at a place or at item 0. Answers whether it completed at once: a position
cursor whose list end is reached as it starts; it stops with the item index and position that the start set
(R92; log 48, and log 50 for a start at the end of the last item). -/
def Media.startCursor (legs : Vector Leg 64) (c : CurIx) (q : CueIx) (place : Option Place) (m : Media) :
    Media × Bool :=
  if (look m.cursors c).state ≠ .stopped then (m, false)
  else
    let items := (look m.cues q).items
    let (i, elapsed) := resolvePlace m.store items place
    let m := (m.onCur c fun cur => cur.stopped.beginAt (startPlace m.store items i elapsed)).snap c q
    let (m, entered) := m.enterAt c i elapsed
    if entered then
      ((m.onCur c fun cur => { cur with state := .starting }).ask legs (.cursor c) 2, false)
    else if loops c then
      ((m.onCur c fun cur => { cur.toGap with state := .starting }).ask legs (.cursor c) 2, false)
    else (m.onCur c Cursor.stopped, true)

/-! ## Pausing and resuming (R99) -/

/-- A cursor paused; one that is STOPPED or PAUSED is not changed. -/
def Media.pauseCursor (c : CurIx) (m : Media) : Media :=
  m.onCur c fun cur =>
    match cur.state with
    | .starting | .playing => { cur with state := .paused }
    | .stopped | .paused => cur

/-- The ring segment that plays next: the FULL one, the earlier in the clip if both are FULL. -/
def nextFull (r : Vector RingSeg 2) : Option (Fin 2) :=
  match (look r 0).state, (look r 1).state with
  | .full, .full => if (look r 1).first < (look r 0).first then some 1 else some 0
  | .full, _ => some 0
  | _, .full => some 1
  | _, _ => none

/-- The segment being read out. -/
def playingSeg (r : Vector RingSeg 2) : Option (Fin 2) :=
  if (look r 0).state = .playing then some 0 else if (look r 1).state = .playing then some 1 else none

/-- A FULL segment becomes PLAYING if none is (R95, R96, R99). -/
def playNext (r : Vector RingSeg 2) : Vector RingSeg 2 :=
  match playingSeg r, nextFull r with
  | none, some b => put r b { look r b with state := .playing }
  | _, _ => r

/-- Whether a cursor's item has been played to its end (R96). -/
def Cursor.atEnd (st : Store) (cur : Cursor) : Bool :=
  match cur.item with
  | some (.clip id _) => decide (st.samplesOf id ≤ cur.place)
  | some (.silence _) | some (.tone _ _) | none => decide (cur.place = 0)

/-- A PAUSED cursor resumed: PLAYING if it can go on, otherwise STARTING (R99, R102; log 28). -/
def Media.resumeCursor (c : CurIx) (m : Media) : Media :=
  m.onCur c fun cur =>
    match cur.state, cur.ring with
    | .paused, some r =>
      if !cur.inClip || (playingSeg r).isSome || (nextFull r).isSome || cur.atEnd m.store then
        { cur with state := .playing, ring := some (playNext r) }
      else { cur with state := .starting }
    | .paused, none => { cur with state := .starting }
    | _, _ => cur

/-! ## The end of a refill (R95) -/

/-- Samples as they stand in the flash, low byte first (section 9.1). -/
def samplesOfBytes : List Byte → List Sample
  | lo :: hi :: bs => (hi ++ lo : BitVec 16) :: samplesOfBytes bs
  | _ => []

/-- A cursor's record after its refill has completed (R95). -/
def Cursor.refilled (cur : Cursor) (b : Fin 2) (xs : List Sample) : Cursor :=
  let ring := cur.ring.map fun r => put r b { look r b with state := .full, data := xs }
  let cur := { cur with ring := ring, refill := none, underrun := false }
  match cur.state with
  | .starting => { cur with state := .playing, ring := cur.ring.map playNext }
  | .playing => { cur with ring := cur.ring.map playNext }
  | .stopped | .paused => cur

/-- A refill read has ended: the samples go to the cursor's segment unless the refill was withdrawn, and the
cursor issues its next (R95, R147). None where the read lies beyond the flash. -/
def readDone (m : Media) (flash : List Host.Cell) (rf : Refill) (withdrawn : Bool) : Option Media :=
  let idle := m.onStore fun st => { st with op := .none }
  if withdrawn then some idle.kick
  else
    match m.store.clip rf.clip with
    | none => none
    | some clip =>
      let a := sectorAddr clip.first + 256 + 2 * rf.first
      if a + 2 * rf.count ≤ flashSize then
        let m := idle.onStore fun st => { st with refills := st.refills.filter fun r => r.cursor ≠ rf.cursor }
        let xs := samplesOfBytes (flashBytes flash a (2 * rf.count))
        some ((m.onCur rf.cursor fun cur => cur.refilled rf.seg xs).issueRefill rf.cursor).kick
      else none

/-! ## One frame of a cursor (R96, R97) -/

/-- A PLAYING cursor in a CLIP item gives the next sample of its PLAYING segment; one read to its last
sample becomes EMPTY and the other plays if it is FULL. With samples left and nothing to play, it has an
underrun. -/
def Media.clipFrame (c : CurIx) (id : ClipIx) (gain : Int) (m : Media) : Media × Sample :=
  let cur := look m.cursors c
  match cur.ring with
  | none => (m, 0)
  | some r =>
    match playingSeg r with
    | none => (m, 0)
    | some b =>
      match (look r b).data with
      | [] => (m, 0)
      | x :: xs =>
        let out := limit16 (gainDb gain x.toInt)
        let seg := { look r b with state := if xs.isEmpty then .empty else .playing, data := xs }
        let r' := playNext (put r b seg)
        let cur' := { cur with ring := some r', place := cur.place + 1 }
        let starved := (playingSeg r').isNone && decide (cur.place + 1 < m.store.samplesOf id)
        let m := m.onCur c fun _ => { cur' with underrun := cur.underrun || starved }
        let m :=
          if starved && !cur.underrun then
            m.raise .cursorUnderrun (ownerSubject c) (detail1 (byte id)) none
          else m
        (m.issueRefill c, out)

/-- The sample of one highway frame of a cursor: silence unless it is PLAYING and its item is not at its end
(R96). -/
def Media.cursorFrame (c : CurIx) (m : Media) : Media × Sample :=
  let cur := look m.cursors c
  if cur.state ≠ .playing ∨ cur.atEnd m.store then (m, 0)
  else
    match cur.item with
    | some (.clip id gain) => m.clipFrame c id gain
    | some (.silence _) | none => (m.onCur c fun cur => { cur with place := cur.place - 1 }, 0)
    | some (.tone i _) =>
      (m.onCur c fun cur => { cur with place := cur.place - 1, phase := cur.phase + phaseStep (toneHz i) },
        toneAt cur.phase)

/-! ## CDEF and CQRY -/

/-- One item as four bytes spell it, in the ranges of Table 6-1 (log 46). -/
def readItem (kind first lo hi : Byte) : Option Item :=
  if kind = 0 then
    match readClip first, readSigned (-24) 6 (hi ++ lo : BitVec 16).toInt with
    | some id, some g => some (.clip id g)
    | _, _ => none
  else if kind = 1 then
    if first = 0 then (readRange 10 60000 (leNat [lo, hi])).map .silence else none
  else if kind = 2 then
    match readIx 8 first, readRange 10 60000 (leNat [lo, hi]) with
    | some i, some d => some (.tone i d)
    | _, _ => none
  else none

/-- The items a payload spells, four bytes each. -/
def readItems : List Byte → Option (List Item)
  | [] => some []
  | k :: f :: lo :: hi :: bs =>
    match readItem k f lo hi, readItems bs with
    | some i, some is => some (i :: is)
    | _, _ => none
  | _ => none

/-- CDEF up to the hand-off of the stored list to the hold groups: the list number and its new contents, or
why it is refused (R88). -/
def readCdef (payload : List Byte) : Except Result (CueIx × CueList) :=
  match payload with
  | q :: duck :: n :: items =>
    if items.length ≠ 4 * n.toNat then .error .length
    else
      match readIx 32 q, readRange 0 8 n.toNat, readSigned 0 30 duck.toInt, readItems items with
      | some q, some _, some d, some is => .ok (q, { items := is, duck := d.toNat })
      | _, _, _, _ => .error .badarg
  | _ => .error .length

/-- An item as replies carry it (section 12.3). -/
def Item.bytes : Item → List Byte
  | .clip id g => [0, byte id] ++ le2 (BitVec.ofInt 16 g).toNat
  | .silence ms => [1, 0] ++ le2 ms
  | .tone i ms => [2, byte i] ++ le2 ms

/-- A ring segment's number and state, or none. -/
def segBytes (r : Option (Vector RingSeg 2)) (b : Fin 2) : List Byte :=
  match r with
  | some r => le2 (look r b).num ++ [(look r b).state.code]
  | none => [0xFF, 0xFF, 0xFF]

/-- The cursor record in the reply of CQRY (R89; log 31). -/
def Cursor.bytes (c : CurIx) (cur : Cursor) : List Byte :=
  [cur.state.code, match ownerOf c with
    | .inl g => byte g
    | .inr p => byte p,
    ixByte (cur.snapshot.map Snapshot.cue), byte cur.items.length, byte cur.index] ++
  le4 cur.place ++ [flagByte (loops c)] ++ segBytes cur.ring 0 ++ segBytes cur.ring 1 ++
  [ixByte cur.clip, flagByte cur.refill.isSome, flagByte cur.underrun]

/-- CQRY (R89). -/
def ownCqry (payload : List Byte) (m : Media) : Reply :=
  match payload with
  | [sel, b] =>
    if sel = 0 then
      match readIx 32 b with
      | none => .refuse .badarg
      | some q =>
        let l := look m.cues q
        .ok ([byte l.duck, byte l.items.length] ++ (l.items.map Item.bytes).flatten)
    else if sel = 1 then
      match readIx 56 b with
      | none => .refuse .badarg
      | some c => .ok ((look m.cursors c).bytes c)
    else .refuse .badarg
  | _ => .refuse .length

end Sys2Proof.Machine
end

