-- ==== Sys2Proof/Machine/Hold.lean ====
section
/-! DEFINITION. The Hold Group Unit (chapter 7): members, the group cursor, pass starts, source changes,
resume points, the park alarms a new alarm time raises (R36), and CDEF, GSRC and GQRY. -/

namespace Sys2Proof.Machine

/-! ## Reaching parts of `Units` -/

/-- `Units` with its `Media` changed. -/
def Units.onMedia (u : Units) (f : Media → Media) : Units := { u with toMedia := f u.toMedia }

/-- `Units` with one leg changed. -/
def Units.onLeg (u : Units) (n : LegIx) (f : Leg → Leg) : Units := { u with legs := upd u.legs n f }

/-- `Units` with one position changed. -/
def Units.onPos (u : Units) (p : PosIx) (f : Position → Position) : Units :=
  { u with pos := upd u.pos p f }

/-- `Units` with one hold group changed. -/
def Units.onGroup (u : Units) (g : GroupIx) (f : Group → Group) : Units :=
  { u with groups := upd u.groups g f }

/-- `Units` with one whisper state changed. -/
def Units.onWhisper (u : Units) (p : PosIx) (f : Whisper → Whisper) : Units :=
  { u with whisper := upd u.whisper p f }

/-- An event taken (R165). -/
def Units.raise (u : Units) (k : EventKind) (subj : Subject) (detail : BitVec 16)
    (target : Option PosIx) : Units :=
  u.onMedia fun m => m.raise k subj detail target

/-! ## The group cursor -/

/-- The cue list of a group whose source is playable: named, and defined (R105). -/
def Units.playable (u : Units) (g : GroupIx) : Option CueIx :=
  match (look u.groups g).source with
  | none => none
  | some q => if (look u.cues q).items.isEmpty then none else some q

/-- The start test: a STOPPED cursor, members, and a playable source. The stored resume point is handed on
where the resume flag is set, and is then none (R105, R107). -/
def Units.startTest (u : Units) (g : GroupIx) : Units :=
  let gr := look u.groups g
  match u.playable g with
  | none => u
  | some q =>
    if (look u.cursors (groupCursor g)).state = .stopped ∧ !gr.members.isEmpty then
      let place := if gr.resume then gr.point else none
      (u.onGroup g fun gr => { gr with point := none }).onMedia fun m =>
        (m.startCursor u.legs (groupCursor g) q place).1
    else u

/-- The group's cursor stopped because its source is not playable; no resume point is stored (R111). -/
def Units.stopUnplayable (u : Units) (g : GroupIx) : Units :=
  (u.onMedia fun m => m.stopCursor u.legs (groupCursor g)).onGroup g fun gr => { gr with point := none }

/-- The cursor takes a new snapshot and enters item 0, or begins the silence after an empty pass
(R98, R111). -/
def Media.newPass (c : CurIx) (q : CueIx) (m : Media) : Media :=
  let m := (m.snap c q).onCur c fun cur => { cur with played := false }
  let (m, entered) := m.enterAt c 0 0
  if entered then m.issueRefill c else m.onCur c Cursor.toGap

/-- A pass start, or the switch to a new source: the mark is cleared and the current source is taken, or the
cursor stopped where it is not playable (R98, R111). -/
def Units.passStart (u : Units) (g : GroupIx) : Units :=
  let u := u.onGroup g fun gr => { gr with pendingChange := false }
  match u.playable g with
  | none => u.stopUnplayable g
  | some q => u.onMedia fun m => m.newPass (groupCursor g) q

/-- The item of a group cursor has ended (R98, R111). -/
def Units.groupItemEnd (u : Units) (g : GroupIx) : Units :=
  let c := groupCursor g
  let cur := look u.cursors c
  let u := u.onMedia fun m => m.leaveItem c
  if cur.gap || (look u.groups g).pendingChange then u.passStart g
  else
    let (m, entered) := u.toMedia.enterAt c (cur.index + 1) 0
    let u := { u with toMedia := m }
    if entered then u.onMedia fun m => m.issueRefill c
    else if (look u.cursors c).played then u.passStart g
    else u.onMedia fun m => m.onCur c Cursor.toGap

/-- A STARTING cursor changes lists at once: it leaves the item it had entered, takes the new snapshot and
enters item 0, which is then the item it was started at, keeping its ring or its wait entry (R106, R110;
log 50). -/
def Media.swapStarting (c : CurIx) (q : CueIx) (m : Media) : Media :=
  let m := (((m.dropReference c).withdrawRefill c).onCur c fun cur =>
    { cur with ring := cur.ring.map emptyRing, gap := false, played := false, underrun := false }).snap c q
  let (m, entered) := (m.onCur c fun cur => cur.beginAt cur.firstPlace).enterAt c 0 0
  let m := if entered then m else m.onCur c Cursor.toGap
  if (look m.cursors c).ring.isSome then m.ringReady c else m

/-! ## Members (R104, R106) -/

/-- A join: the leg goes to the tail, and the start test is made. -/
def Units.join (u : Units) (g : GroupIx) (n : LegIx) : Units :=
  (u.onGroup g fun gr => { gr with members := gr.members ++ [n] }).startTest g

/-- The last member has left: the cursor stops, and where it ran its place is stored if the resume flag is
set and no source change is pending (R106; log 41). -/
def Units.lastLeave (u : Units) (g : GroupIx) : Units :=
  let cur := look u.cursors (groupCursor g)
  let u := u.onMedia fun m => m.stopCursor u.legs (groupCursor g)
  u.onGroup g fun gr =>
    { gr with
      point :=
        if gr.pendingChange || !gr.resume then none
        else if cur.state = .stopped then gr.point else some cur.leftAt
      pendingChange := false }

/-- A leave: the others close up; with the last member the cursor stops. -/
def Units.leave (u : Units) (g : GroupIx) (n : LegIx) : Units :=
  let u := u.onGroup g fun gr => { gr with members := gr.members.filter (· ≠ n) }
  if (look u.groups g).members.isEmpty then u.lastLeave g else u

/-- A move to the tail of the same group: no leave and no join for the cursor. -/
def Units.moveTail (u : Units) (g : GroupIx) (n : LegIx) : Units :=
  u.onGroup g fun gr => { gr with members := gr.members.filter (· ≠ n) ++ [n] }

/-- A leg that stands in a group goes to the tail of a group, leaving its old one if that differs (R23). -/
def Units.moveTo (u : Units) (old : Option GroupIx) (g : GroupIx) (n : LegIx) : Units :=
  match old with
  | none => u.join g n
  | some o => if o = g then u.moveTail g n else (u.leave o n).join g n

/-! ## Park alarms (R35, R36) -/

/-- Whether a leg's park alarm is due: PARKED, its flag clear, and its group's alarm time reached. -/
def Units.alarmDue (u : Units) (n : LegIx) : Bool :=
  let l := look u.legs n
  match l.group, l.parkTime with
  | some g, some t =>
    decide (l.state = .parked) && !l.fired && decide (0 < (look u.groups g).alarm) &&
      decide (1000 * (look u.groups g).alarm ≤ since u.router.stamp t)
  | _, _ => false

/-- PARK_ALARM raised for a leg whose alarm is due (R35). -/
def Units.parkAlarm (u : Units) (n : LegIx) : Units :=
  if u.alarmDue n then
    let l := look u.legs n
    (u.onLeg n fun l => { l with fired := true }).raise .parkAlarm (.leg n)
      (detail2 (ixByte l.owner) (ixByte l.group)) l.target
  else u

/-! ## Requests -/

/-- CDEF: the list stored, and the start test of every group whose source it is, in ascending order (R88,
R105; log 54). -/
def ownCdef (payload : List Byte) (u : Units) : Units × Reply :=
  match readCdef payload with
  | .error r => (u, .refuse r)
  | .ok (q, l) =>
    let u := u.onMedia fun m => { m with cues := put m.cues q l }
    ((List.finRange 8).foldl
      (fun u g => if (look u.groups g).source = some q then u.startTest g else u) u, .ok [])

/-- An alarm time: 0, or 5–600 s (R109). -/
def readAlarm (n : Nat) : Option Nat := if n = 0 then some 0 else readRange 5 600 n

/-- A change of source (R110). -/
def Units.changeSource (u : Units) (g : GroupIx) (source : Option CueIx) : Units :=
  let c := groupCursor g
  let changed := decide ((look u.groups g).source ≠ source)
  let u := u.onGroup g fun gr =>
    { gr with source := source, point := if changed then none else gr.point }
  let cur := look u.cursors c
  let own := cur.snapshot.map Snapshot.cue
  if cur.state = .stopped then u
  else if own = source then u.onGroup g fun gr => { gr with pendingChange := false }
  else if cur.state = .starting then
    match u.playable g with
    | some q => u.onMedia fun m => m.swapStarting c q
    | none => u.stopUnplayable g
  else u.onGroup g fun gr => { gr with pendingChange := true }

/-- GSRC (R109). -/
def ownGsrc (payload : List Byte) (u : Units) : Units × Reply :=
  match payload with
  | [gb, src, res, a0, a1] =>
    match readIx 8 gb, readIxNone 32 src, readFlag res, readAlarm (leNat [a0, a1]) with
    | some g, some source, some resume, some alarm =>
      let u := u.onGroup g fun gr =>
        { gr with resume := resume, point := if resume then gr.point else none }
      let u := u.changeSource g source
      let u := u.onGroup g fun gr => { gr with alarm := alarm }
      let u := (look u.groups g).members.foldl Units.parkAlarm u
      let u := u.startTest g
      (u, .ok [(look u.cursors (groupCursor g)).state.code,
        flagByte (look u.groups g).pendingChange])
    | _, _, _, _ => (u, .refuse .badarg)
  | _ => (u, .refuse .length)

/-- GQRY (R112). -/
def ownGqry (payload : List Byte) (u : Units) : Reply :=
  match payload with
  | [gb] =>
    match readIx 8 gb with
    | none => .refuse .badarg
    | some g =>
      let gr := look u.groups g
      let cur := look u.cursors (groupCursor g)
      .ok ([ixByte gr.source, flagByte (u.playable g).isSome, flagByte gr.resume] ++ le2 gr.alarm ++
        [flagByte gr.pendingChange] ++
        (match gr.point with
          | none => 0xFF :: le4None none
          | some p => byte p.index :: le4 p.shown) ++
        [cur.state.code, ixByte (cur.snapshot.map Snapshot.cue), byte gr.members.length] ++
        gr.members.map fun n => byte n.val)
  | _ => .refuse .length

end Sys2Proof.Machine
end

