-- ==== Sys2Proof/Machine/Whisper.lean ====
section
/-! DEFINITION. Cut-through (R29–R31) and the Whisper Unit's scheduling of prompts (sections 8.2 to 8.4):
placing, pushing, completion, the next entry, removal, routed postings, WPST and WFLS. -/

namespace Sys2Proof.Machine

/-! ## Cut-through (R31) -/

/-- A CONNECTING leg cuts through: it leaves its group and talks, and CUT_THROUGH is raised (R29, R31). -/
def Units.cutThrough (u : Units) (n : LegIx) (cause : CutCause) : Units :=
  let old := (look u.legs n).group
  let u := u.onLeg n fun l =>
    { l with
      state := .talking, group := none, parkTime := none, timer := none, connectRef := false }
  let u :=
    match old with
    | some g => u.leave g n
    | none => u
  let l := look u.legs n
  (u.onMedia fun m => m.restate u.legs n).raise .cutThrough (.leg n)
    (detail2 cause.code (ixByte l.owner)) l.target

/-- The report that a position's connect entry has left it: acted on where the bound leg is CONNECTING and
still references the entry (R29; log 42). -/
def Units.connectReport (u : Units) (p : PosIx) (cause : CutCause) : Units :=
  match (look u.pos p).bound with
  | none => u
  | some n =>
    let l := look u.legs n
    if l.state = .connecting ∧ l.connectRef then u.cutThrough n cause else u

/-! ## Starting, completing and pushing entries -/

/-- Whether the head of a queue preempts a playing entry of a level: a ROUTINE one, an URGENT head, and the
nesting flag on (R116). -/
def preempts (nesting : Bool) (playing head : Level) : Bool :=
  nesting && decide (playing = .routine) && decide (head = .urgent)

/-- An entry becomes the playing one and its cursor is started, at its saved place if it has one. Answers
whether it completed as it started (R116). -/
def Units.startEntry (u : Units) (p : PosIx) (e : Entry) : Units × Bool :=
  let u := u.onWhisper p fun w =>
    { w with playing := .prompt { e with saved := none, holdsCursor := false } }
  let (m, completed) := u.toMedia.startCursor u.legs (posCursor p) e.cue e.saved
  ({ u with toMedia := m }, completed)

/-- The playing entry has completed: WHISPER_DONE, or for a connect entry the report COMPLETED (R118). -/
def Units.completeEntry (u : Units) (p : PosIx) (e : Entry) : Units :=
  let u := u.onWhisper p fun w => { w with playing := .none }
  if e.connect then u.connectReport p .completed
  else u.raise .whisperDone (.position p) (detail2 (byte e.cue) e.origin.code) none

/-- The place of a position's cursor taken and the cursor stopped (R117). -/
def Units.takePlace (u : Units) (p : PosIx) : Units × Place :=
  let m := u.toMedia.pauseCursor (posCursor p)
  let place := (look m.cursors (posCursor p)).standsAt
  ({ u with toMedia := m.stopCursor u.legs (posCursor p) }, place)

/-- A position's cursor stopped (R100). -/
def Units.stopPos (u : Units) (p : PosIx) : Units :=
  u.onMedia fun m => m.stopCursor u.legs (posCursor p)

/-- The playing prompt pushed onto the stack (R117). -/
def Units.pushPlaying (u : Units) (p : PosIx) (byCoach : Bool) : Units :=
  match (look u.whisper p).playing with
  | .none | .coach => u
  | .prompt e =>
    let (u, e) :=
      match e.resume, byCoach with
      | .restart, _ => (u.stopPos p, e)
      | .resume, true => (u.onMedia fun m => m.pauseCursor (posCursor p), { e with holdsCursor := true })
      | .resume, false =>
        let (u, place) := u.takePlace p
        (u, { e with saved := some place })
    u.onWhisper p fun w => { w with playing := .none, stack := e :: w.stack }

/-! ## The next entry (R119) -/

/-- The head of the waiting queue, if it would preempt an entry of a level. -/
def Units.preemptor (u : Units) (p : PosIx) (lvl : Level) : Option (Entry × List Entry) :=
  match (look u.whisper p).queue with
  | h :: q => if preempts (look u.pos p).nesting lvl h.level then some (h, q) else none
  | [] => none

/-- The playing place filled: from the stack unless the head of the queue would preempt, then from the
queue. Every turn but the last removes an entry, so the fuel is never spent (R119; log 38). -/
def Units.nextLoop (p : PosIx) : Nat → Units → Units
  | 0, u => u
  | fuel + 1, u =>
    let w := look u.whisper p
    match w.stack, w.queue with
    | e :: stack, _ =>
      match u.preemptor p e.level with
      | some (h, q) =>
        let (u, e) :=
          if e.holdsCursor then
            let (u, place) := u.takePlace p
            (u, { e with saved := some place, holdsCursor := false })
          else (u, e)
        let u := u.onWhisper p fun w => { w with queue := q, stack := e :: stack }
        let (u, completed) := u.startEntry p h
        if completed then (u.completeEntry p h).nextLoop p fuel else u
      | none =>
        let u := u.onWhisper p fun w => { w with stack := stack }
        if e.holdsCursor then
          (u.onWhisper p fun w => { w with playing := .prompt { e with holdsCursor := false } }).onMedia
            fun m => m.resumeCursor (posCursor p)
        else
          let (u, completed) := u.startEntry p e
          if completed then (u.completeEntry p e).nextLoop p fuel else u
    | [], h :: q =>
      let u := u.onWhisper p fun w => { w with queue := q }
      let (u, completed) := u.startEntry p h
      if completed then (u.completeEntry p h).nextLoop p fuel else u
    | [], [] => u

/-- The next entry taken where the playing place is empty (R119). -/
def Units.next (u : Units) (p : PosIx) : Units :=
  let w := look u.whisper p
  match w.playing with
  | .none => u.nextLoop p (w.queue.length + w.stack.length + 1)
  | .prompt _ | .coach => u

/-- The head of the queue starts. -/
def Units.startHead (u : Units) (p : PosIx) : Units :=
  match (look u.whisper p).queue with
  | [] => u
  | h :: q =>
    let (u, completed) := (u.onWhisper p fun w => { w with queue := q }).startEntry p h
    if completed then (u.completeEntry p h).next p else u

/-! ## Placing entries (R115, R116) -/

/-- The most entries a waiting queue holds (R115). -/
def whisperLimit : Nat := 8

/-- How many waiting entries stand ahead of a new one of a level. -/
def queueAhead (q : List Entry) (lvl : Level) : Nat :=
  match lvl with
  | .urgent => (q.takeWhile fun e => e.level = .urgent).length
  | .routine => q.length

/-- A new entry put in service order: behind the last of its level (R115). -/
def enqueue (q : List Entry) (e : Entry) : List Entry :=
  q.take (queueAhead q e.level) ++ e :: q.drop (queueAhead q e.level)

/-- The decision made when an entry has been placed (R116). -/
def Units.schedule (u : Units) (p : PosIx) : Units :=
  match (look u.whisper p).playing with
  | .none => u.startHead p
  | .coach => u
  | .prompt e =>
    if (u.preemptor p e.level).isSome then (u.pushPlaying p false).startHead p else u

/-- An entry placed in a position's queue, and the decision made (R115, R116). -/
def Units.place (u : Units) (p : PosIx) (e : Entry) : Units :=
  (u.onWhisper p fun w => { w with queue := enqueue w.queue e }).schedule p

/-- A new entry. -/
def Entry.new (cue : CueIx) (lvl : Level) (origin : Origin) (res : ResumeMode) : Entry :=
  { cue := cue, level := lvl, origin := origin, resume := res, connect := decide (origin = .connect),
    saved := none, holdsCursor := false }

/-! ## Routed and announcement postings (R121, R133) -/

/-- Why a posting cannot be placed, in the order of R121. -/
def Units.dropReason (u : Units) (p : PosIx) (q : CueIx) : Option DropReason :=
  let s := (look u.pos p).state
  if s = .absent ∨ s = .loopback then some .state
  else if (look u.cues q).items.isEmpty then some .empty
  else if whisperLimit ≤ (look u.whisper p).queue.length then some .full
  else none

/-- The detail of WHISPER_DROPPED (Table 12-5). -/
def droppedDetail (q : CueIx) (o : Origin) (r : DropReason) : BitVec 16 :=
  detail2 (byte q) (byte (o.code.toNat + 16 * r.code.toNat))

/-- A posting placed, or dropped with WHISPER_DROPPED. Answers whether it was placed. -/
def Units.post (u : Units) (p : PosIx) (q : CueIx) (lvl : Level) (o : Origin) : Units × Bool :=
  match u.dropReason p q with
  | some r => (u.raise .whisperDropped (.position p) (droppedDetail q o r) none, false)
  | none => (u.place p (Entry.new q lvl o .restart), true)

/-- A routed posting made. What its placing raises is recorded, and no routed posting arises from it: the chain
ends there (R166; log 55). -/
def Units.postRouted (u : Units) (x : Posting) : Units :=
  { (u.post x.pos x.cue x.level .route).1 with postings := [] }

/-- The routed postings of the events taken made, in the order of their events (R165; log 20). -/
def Units.settle (u : Units) : Units := u.postings.foldl Units.postRouted { u with postings := [] }

/-! ## Removal (R123–R125) -/

/-- Whether the playing entry is a prompt that passes a test. -/
def Playing.isPrompt (f : Entry → Bool) : Playing → Bool
  | .prompt e => f e
  | .none | .coach => false

/-- Entries that pass a test removed from queue, stack and playing place, with the cursor stopped if one of
them held it. Answers how many there were, whether a connect entry was among them, and whether the playing
place fell empty. The next entry is not taken. -/
def Units.removeEntries (u : Units) (p : PosIx) (f : Entry → Bool) : Units × Nat × Bool × Bool :=
  let w := look u.whisper p
  let playing := w.playing.isPrompt f
  let gone := w.queue.filter f ++ w.stack.filter f ++
    (match w.playing with
      | .prompt e => if f e then [e] else []
      | .none | .coach => [])
  let holds := playing || w.stack.any fun e => f e && e.holdsCursor
  let u := u.onWhisper p fun w =>
    { w with
      queue := w.queue.filter fun e => !f e
      stack := w.stack.filter fun e => !f e
      playing := if playing then .none else w.playing }
  (if holds then u.stopPos p else u, gone.length, gone.any Entry.connect, playing)

/-- The connect entry of a position removed from wherever it stands, with no report; the next entry is taken
if it was playing (R124). -/
def Units.removeConnect (u : Units) (p : PosIx) : Units :=
  let (u, _, _, playing) := u.removeEntries p Entry.connect
  if playing then u.next p else u

/-- Every entry of a position removed, and nothing started (R125). -/
def Units.emptyWhisper (u : Units) (p : PosIx) : Units :=
  let (u, _, _, _) := u.removeEntries p fun _ => true
  u.onWhisper p fun _ => Whisper.reset

/-! ## Requests -/

/-- The whisper summary (section 12.3). -/
def Whisper.summary (w : Whisper) : List Byte :=
  [byte w.queue.length] ++
  (match w.playing with
    | .none => [0, 0xFF, 0xFF, 0xFF]
    | .coach => [1, 3, 0xFF, 0xFF]
    | .prompt e => [2, e.level.code, byte e.cue, e.origin.code]) ++
  [byte w.stack.length] ++
  (match w.stack.reverse with
    | [] => [0xFF, 0xFF]
    | [a] => [a.level.code, 0xFF]
    | a :: b :: _ => [a.level.code, b.level.code])

/-- WPST (R120). -/
def ownWpst (payload : List Byte) (u : Units) : Units × Reply :=
  match payload with
  | [pb, qb, lb, rb] =>
    match readIx 48 pb, readIx 32 qb, readLevel lb, readResume rb with
    | some p, some q, some lvl, some res =>
      match u.dropReason p q with
      | some .state => (u, .refuse .state)
      | some .empty => (u, .refuse .badarg)
      | some .full => (u, .refuse .noroom)
      | none =>
        let before := (look u.whisper p).queue
        let u := u.place p (Entry.new q lvl .post res)
        let w := look u.whisper p
        let taken := before.length + 1 - w.queue.length
        (u, .ok (flagByte (decide (queueAhead before lvl < taken)) :: w.summary))
    | _, _, _, _ => (u, .refuse .badarg)
  | _ => (u, .refuse .length)

/-- Whether a WFLS level set holds a level (R188). -/
def inLevelSet (set : Byte) (lvl : Level) : Bool :=
  match lvl with
  | .urgent => set.getLsbD 0
  | .routine => set.getLsbD 1

/-- WFLS (R123). -/
def ownWfls (payload : List Byte) (u : Units) : Units × Reply :=
  match payload with
  | [pb, set] =>
    match readIx 48 pb, readRange 0 3 set.toNat with
    | some p, some _ =>
      let (u, n, connect, playing) := u.removeEntries p fun e => inLevelSet set e.level
      let u := if connect then u.connectReport p .flushed else u
      let u := if playing then u.next p else u
      (u, .ok (byte n :: (look u.whisper p).summary))
    | _, _ => (u, .refuse .badarg)
  | _ => (u, .refuse .length)

/-- The list end of a position cursor: the cursor stops, its entry completes and the next is taken (R98,
R118). -/
def Units.posItemEnd (u : Units) (p : PosIx) : Units :=
  let c := posCursor p
  let (m, entered) := (u.toMedia.leaveItem c).enterAt c ((look u.cursors c).index + 1) 0
  let u := { u with toMedia := m }
  if entered then u.onMedia fun m => m.issueRefill c
  else
    let u := u.stopPos p
    match (look u.whisper p).playing with
    | .prompt e => (u.completeEntry p e).next p
    | .none | .coach => u

end Sys2Proof.Machine
end

