-- ==== Sys2Proof/Machine/Coach.lean ====
section
/-! DEFINITION. Coach pairs (section 8.5) and the announcements of floor groups (section 8.6), over the
whisper scheduling. -/

namespace Sys2Proof.Machine

/-! ## Pairs and links (R126, R9) -/

/-- The pair a position takes part in. -/
def Units.pairOf (u : Units) (p : PosIx) : Option Pair :=
  u.pairs.find? fun x => x.supervisor = p || x.agent = p

/-- The pair whose agent a position is. -/
def Units.pairOfAgent (u : Units) (p : PosIx) : Option Pair := u.pairs.find? fun x => x.agent = p

/-- Both coach links of a pair set as the pair stands. -/
def Units.setLinks (u : Units) (x : Pair) : Units :=
  (u.onPos x.supervisor fun p =>
      { p with coach := some { partner := x.agent, side := .supervisor, active := x.active } }).onPos
    x.agent fun p =>
      { p with coach := some { partner := x.supervisor, side := .agent, active := x.active } }

/-- A pair marked active or pending, with both links. -/
def Units.markPair (u : Units) (x : Pair) (active : Bool) : Units :=
  let x' := { x with active := active }
  { u with pairs := u.pairs.map fun y => if y = x then x' else y }.setLinks x'

/-- A pending pair whose agent is ENGAGED is activated: the coach takes the playing place, a playing prompt
is pushed, and COACH_STARTED is raised (R128). -/
def Units.activatePair (u : Units) (x : Pair) : Units :=
  let u := ((u.markPair x true).pushPlaying x.agent true).onWhisper x.agent fun w =>
    { w with playing := .coach }
  u.raise .coachStarted (.position x.agent) (detail2 (byte x.supervisor) x.mode.code) (some x.agent)

/-- The coach leaves the agent's playing place and the next entry is taken (R129, R131). -/
def Units.dropCoach (u : Units) (p : PosIx) : Units :=
  match (look u.whisper p).playing with
  | .coach => (u.onWhisper p fun w => { w with playing := .none }).next p
  | .none | .prompt _ => u

/-- An active pair returns to pending when its agent has left ENGAGED (R129). -/
def Units.suspendPair (u : Units) (agent : PosIx) : Units :=
  match u.pairOfAgent agent with
  | some x => if x.active then (u.markPair x false).dropCoach agent else u
  | none => u

/-- A pair ends (R131). -/
def Units.endPair (u : Units) (x : Pair) (reason : EndReason) : Units :=
  let present := decide ((look u.pos x.agent).state ≠ .absent)
  let u := if x.active && present then u.dropCoach x.agent else u
  let u := { u with pairs := u.pairs.filter fun y => y ≠ x }
  let u := (u.onPos x.agent fun p => { p with coach := none }).onPos x.supervisor fun p =>
    { p with coach := none, state := if p.state = .coaching then .idle else p.state }
  u.raise .coachEnded (.position x.agent) (detail2 (byte x.supervisor) reason.code) (some x.agent)

/-- The WHU is handed a headset loss: every entry removed, and a pair of either side ended (R125). -/
def Units.whisperLoss (u : Units) (p : PosIx) : Units :=
  let u := u.emptyWhisper p
  match u.pairOf p with
  | some x => u.endPair x .headsetLost
  | none => u

/-! ## CATT and CDET -/

/-- CATT (R127). -/
def ownCatt (payload : List Byte) (u : Units) : Units × Reply :=
  match payload with
  | [sb, ab, mb] =>
    match readIx 48 sb, readIx 48 ab, readCoachMode mb with
    | some s, some a, some mode =>
      let sup := look u.pos s
      let agent := look u.pos a
      if s = a then (u, .refuse .badarg)
      else if sup.role ≠ .supervisor ∨ sup.state ≠ .idle ∨ sup.coach.isSome then (u, .refuse .state)
      else if agent.state = .absent ∨ agent.state = .coaching then (u, .refuse .state)
      else
        let old := u.pairOfAgent a
        if (old.map Pair.active).getD false then (u, .refuse .busy)
        else
          let u :=
            match old with
            | some x => u.endPair x .replaced
            | none => u
          let x : Pair := { supervisor := s, agent := a, mode := mode, active := false }
          let u := ({ u with pairs := u.pairs ++ [x] }.setLinks x).onPos s fun p =>
            { p with state := .coaching }
          let engaged := decide ((look u.pos a).state = .engaged)
          (if engaged then u.activatePair x else u,
            .ok [flagByte engaged, ixByte (old.map Pair.supervisor)])
    | _, _, _ => (u, .refuse .badarg)
  | _ => (u, .refuse .length)

/-- CDET (R130). -/
def ownCdet (payload : List Byte) (u : Units) : Units × Reply :=
  match payload with
  | [pb] =>
    match readIx 48 pb with
    | none => (u, .refuse .badarg)
    | some p =>
      match u.pairOf p with
      | none => (u, .refuse .notfound)
      | some x =>
        (u.endPair x .detached, .ok [byte (if x.supervisor = p then x.agent else x.supervisor)])
  | _ => (u, .refuse .length)

/-! ## Announcements (R133) -/

/-- Whether an announcement reaches a position: present, and in one of the groups of the mask. -/
def Units.included (u : Units) (mask : BitVec 8) (p : PosIx) : Bool :=
  let pos := look u.pos p
  decide (pos.state ≠ .absent) && decide (pos.floors &&& mask ≠ 0)

/-- The postings of an announcement, in ascending order of position, with the number placed. -/
def Units.announce (u : Units) (a : Counting) : Units × Nat :=
  (List.finRange 48).foldl
    (fun (acc : Units × Nat) p =>
      if acc.1.included a.mask p then
        let (u, placed) := acc.1.post p a.cue a.level .announce
        (u, acc.2 + if placed then 1 else 0)
      else acc)
    (u, 0)

/-- An announcement slot fires: the postings, then ANNOUNCE_FIRED (R133). -/
def Units.fire (u : Units) (k : SlotIx) (a : Counting) : Units × Nat :=
  let (u, n) := u.announce a
  (u.raise .announceFired (.slot k) (detail1 (byte n)) none, n)

end Sys2Proof.Machine
end

