-- ==== Sys2Proof/Machine/Legs.lean ====
section
/-! DEFINITION. The Leg Unit (chapter 2) and what it hands to the cancellers (chapter 3): BIND, PARK, RELS,
auto-park, the connect timer, ECHO, the ends of echo windows, and LQRY. -/

namespace Sys2Proof.Machine

/-! ## Hand-offs to the Echo Canceller Array -/

/-- A canceller asks for the rest of its tail, unless its mode is OFF or it holds it all (R45). -/
def Units.acquire (u : Units) (n : LegIx) : Units :=
  let c := look u.can n
  if (look u.legs n).mode ≠ .off ∧ c.held.length < c.tail then
    u.onMedia fun m => m.ask u.legs (.leg n) (c.tail - c.held.length)
  else u

/-- A BIND handed to the canceller: the reclaimed mark is cleared, the state follows, and the rest of the
tail is acquired (R45, R48). -/
def Units.echoBind (u : Units) (n : LegIx) : Units :=
  (u.onMedia fun m => (m.onCan n fun c => { c with reclaimed := false }).restate u.legs n).acquire n

/-- A park handed to the canceller: its wait entry is withdrawn, it is HELD with what it holds, and the pass
may now reclaim it (R47, R77). -/
def Units.echoPark (u : Units) (n : LegIx) : Units :=
  u.onMedia fun m =>
    let due := m.pool.waits (.leg n) || !(look m.can n).held.isEmpty
    let m := (m.onPool fun p => p.remove (.leg n)).restate u.legs n
    if due then m.pass u.legs else m

/-- A release handed to the canceller: segments and wait entry go back together, with one pass, and the
context takes its reset values but for the tail (R49, R81, R82; log 53). -/
def Units.echoRelease (u : Units) (n : LegIx) : Units :=
  u.onMedia fun m =>
    let c := look m.can n
    let m := m.onPool fun p => (p.mark (c.held.map HeldSeg.num) .free).remove (.leg n)
    (m.onCan n fun c => { Canceller.reset with tail := c.tail }).pass u.legs

/-! ## Hand-offs to the Position Unit (R9) -/

/-- A bind: the position is ENGAGED, and a pending pair of which it is the agent activates (R128). -/
def Units.posBind (u : Units) (p : PosIx) (n : LegIx) : Units :=
  let u := u.onPos p fun pos => { pos with bound := some n, state := .engaged }
  match u.pairOfAgent p with
  | some x => u.activatePair x
  | none => u

/-- An unbind: the position is IDLE, and an active pair of which it is the agent returns to pending. -/
def Units.posUnbind (u : Units) (p : PosIx) : Units :=
  (u.onPos p fun pos => { pos with bound := none, state := .idle }).suspendPair p

/-! ## Shared steps of PARK, RELS and auto-park -/

/-- A CONNECTING leg's timer and entry reference cleared, and the connect entry removed (R24, R32, R33
step 1). -/
def Units.cancelConnect (u : Units) (n : LegIx) : Units :=
  let l := look u.legs n
  if l.state = .connecting then
    let u := u.onLeg n fun l => { l with timer := none, connectRef := false }
    match l.bound with
    | some p => u.removeConnect p
    | none => u
  else u

/-- A leg placed in a group: park time and fired flag set anew, then at the tail, leaving its old group if
that differs. A pass that the leave or the join begins ranks it by the new park time (R22, R23, R79;
log 27). -/
def Units.standIn (u : Units) (n : LegIx) (g : GroupIx) : Units :=
  let old := (look u.legs n).group
  (u.onLeg n fun l =>
    { l with group := some g, parkTime := some u.router.stamp, fired := false }).moveTo old g n

/-! ## PARK (R22–R24) -/

/-- PARK of a leg in any state (log 27). -/
def Units.park (u : Units) (n : LegIx) (g : GroupIx) : Units :=
  match (look u.legs n).state with
  | .free => (u.onLeg n fun l => { l with state := .parked }).standIn n g
  | .parked => u.standIn n g
  | .connecting | .talking =>
    let u := u.cancelConnect n
    let bound := (look u.legs n).bound
    let u := u.onLeg n fun l => { l with bound := none }
    let u :=
      match bound with
      | some p => u.posUnbind p
      | none => u
    ((u.standIn n g).onLeg n fun l => { l with state := .parked }).echoPark n

/-- PARK. -/
def ownPark (payload : List Byte) (u : Units) : Units × Reply :=
  match payload with
  | [nb, gb] =>
    match readIx 64 nb, readIx 8 gb with
    | some n, some g => (u.park n g, .ok [])
    | _, _ => (u, .refuse .badarg)
  | _ => (u, .refuse .length)

/-- A bound leg parked into the default group of a position that has lost its headset (R32). -/
def Units.autoPark (u : Units) (p : PosIx) (n : LegIx) : Units :=
  let u := u.cancelConnect n
  let u := (u.onLeg n fun l => { l with bound := none }).onPos p fun pos => { pos with bound := none }
  let u := ((u.standIn n (look u.pos p).defaultGroup).onLeg n fun l =>
    { l with state := .parked }).echoPark n
  let l := look u.legs n
  u.raise .legAutoParked (.leg n) (detail2 (ixByte l.owner) (ixByte l.group)) l.target

/-! ## BIND (R25–R28) -/

/-- The connect timer a BIND asks for, in frames: 0 selects 8 s (R28). -/
def connectFrames (s : Nat) : Nat := framesOf (1000 * if s = 0 then 8 else s)

/-- BIND without a cue (R26). -/
def Units.bindTalk (u : Units) (n : LegIx) (p : PosIx) : Units :=
  let old := (look u.legs n).group
  let u := u.onLeg n fun l =>
    { l with state := .talking, bound := some p, owner := some p, group := none, parkTime := none }
  let u :=
    match old with
    | some g => u.leave g n
    | none => u
  (u.posBind p n).echoBind n

/-- Whether a position's whisper state holds a connect entry. -/
def Whisper.hasConnect (w : Whisper) : Bool :=
  w.queue.any Entry.connect || w.stack.any Entry.connect || w.playing.isPrompt Entry.connect

/-- BIND with a cue (R27). A connect entry that completes as it starts is reported once the leg is
CONNECTING and the position ENGAGED (log 26). -/
def Units.bindConnect (u : Units) (n : LegIx) (p : PosIx) (q : CueIx) (timeout : Nat) : Units :=
  let free := decide ((look u.legs n).state = .free)
  let u := u.onLeg n fun l => { l with state := .connecting, bound := some p, owner := some p }
  let u := if free then u.standIn n (look u.pos p).defaultGroup else u
  let u := u.onLeg n fun l => { l with connectRef := true }
  let u := u.place p (Entry.new q .urgent .connect .resume)
  let left := !(look u.whisper p).hasConnect
  let u := u.onLeg n fun l => { l with timer := some (connectFrames timeout) }
  let u := (u.posBind p n).echoBind n
  if left then u.connectReport p .completed else u

/-- BIND (R25). -/
def ownBind (payload : List Byte) (u : Units) : Units × Reply :=
  match payload with
  | [nb, pb, qb, tb] =>
    match readIx 64 nb, readIx 48 pb, readIxNone 32 qb, readRange 0 30 tb.toNat with
    | some n, some p, some cue, some t =>
      let leg := (look u.legs n).state
      if leg ≠ .free ∧ leg ≠ .parked then (u, .refuse .state)
      else if (look u.pos p).state ≠ .idle then (u, .refuse .state)
      else
        match cue with
        | none => (u.bindTalk n p, .ok [])
        | some q =>
          if (look u.cues q).items.isEmpty then (u, .refuse .badarg)
          else if whisperLimit ≤ (look u.whisper p).queue.length then (u, .refuse .noroom)
          else (u.bindConnect n p q t, .ok [])
    | _, _, _, _ => (u, .refuse .badarg)
  | _ => (u, .refuse .length)

/-- The connect timer of a CONNECTING leg at zero (R30). -/
def Units.connectExpiry (u : Units) (n : LegIx) : Units :=
  let l := look u.legs n
  if l.state = .connecting ∧ l.timer = some 0 then (u.cancelConnect n).cutThrough n .timeout else u

/-! ## RELS (R33) -/

/-- RELS of a leg that is not FREE (log 27; its canceller log 49). -/
def Units.rels (u : Units) (n : LegIx) : Units :=
  let u := u.cancelConnect n
  let l := look u.legs n
  let u := u.onLeg n fun l => { l with state := .free, bound := none }
  let u :=
    match l.bound with
    | some p => u.posUnbind p
    | none => u
  let u := u.onLeg n fun l => { l with group := none, parkTime := none, fired := false }
  let u :=
    match l.group with
    | some g => u.leave g n
    | none => u
  (u.onLeg n fun l => { l with owner := none }).echoRelease n

/-- RELS. -/
def ownRels (payload : List Byte) (u : Units) : Units × Reply :=
  match payload with
  | [nb] =>
    match readIx 64 nb with
    | none => (u, .refuse .badarg)
    | some n =>
      if (look u.legs n).state = .free then (u, .refuse .state) else (u.rels n, .ok [])
  | _ => (u, .refuse .length)

/-! ## ECHO (R54–R57) -/

/-- Every segment given back and any wait entry withdrawn together, with one pass, and a fresh IDLE canceller
(Table 3-4, OFF; R81, R82; log 53). -/
def Units.echoOff (u : Units) (n : LegIx) : Units :=
  u.onMedia fun m =>
    let segs := (look m.can n).held.map HeldSeg.num
    let due := m.pool.waits (.leg n) || !segs.isEmpty
    let m := m.onPool fun p => (p.mark segs .free).remove (.leg n)
    let m := (m.onCan n fun c => c.lost false).restate u.legs n
    if due then m.pass u.legs else m

/-- Whether a leg is CONNECTING or TALKING. -/
def Leg.inCall (l : Leg) : Bool := l.state = .connecting || l.state = .talking

/-- A change of echo mode (R55). -/
def Units.echoMode (u : Units) (n : LegIx) (old new : EchoMode) : Units :=
  if old = new then u
  else
    match old, new with
    | _, .off => u.echoOff n
    | .off, _ => if (look u.legs n).inCall then u.acquire n else u
    | _, .bypass =>
      u.onMedia fun m => (m.onCan n fun c => { c with working := .converging }).restate u.legs n
    | _, _ => u.onMedia fun m => m.restate u.legs n

/-- A change of the requested tail with a mode other than OFF; a smaller one gives back the segments beyond it
and withdraws any wait entry together, with one pass (R56, R81, R82; log 53). -/
def Units.echoTail (u : Units) (n : LegIx) (tail : Nat) : Units :=
  let held := (look u.can n).held
  if tail < held.length then
    u.onMedia fun m =>
      let m := m.onPool fun p => (p.mark ((held.drop tail).map HeldSeg.num) .free).remove (.leg n)
      ((m.onCan n fun c => { c with held := c.held.take tail }).restate u.legs n).pass u.legs
  else if held.length = tail then u.onMedia fun m => m.withdraw u.legs (.leg n)
  else if (look u.legs n).inCall then u.acquire n
  else u

/-- The reset option (R57). -/
def Units.echoReset (u : Units) (n : LegIx) : Units :=
  u.onMedia fun m => (m.onCan n Canceller.resetOption).restate u.legs n

/-- ECHO (R54). -/
def ownEcho (payload : List Byte) (u : Units) : Units × Reply :=
  match payload with
  | [nb, mb, tb, rb] =>
    match readIx 64 nb, readEchoMode mb, readRange 2 8 tb.toNat, readFlag rb with
    | some n, some mode, some tail, some reset =>
      let l := look u.legs n
      let u := u.onLeg n fun l => { l with mode := mode, tail := tail }
      let u := u.onMedia fun m => m.onCan n fun c => { c with tail := tail }
      let u := u.echoMode n l.mode mode
      let u := if mode ≠ .off ∧ l.tail ≠ tail then u.echoTail n tail else u
      let u := if reset then u.echoReset n else u
      (u, .ok [(look u.can n).state.code, byte (look u.can n).held.length])
    | _, _, _, _ => (u, .refuse .badarg)
  | _ => (u, .refuse .length)

/-! ## Windows (R51–R53) -/

/-- The convergence timer at its limit: the working state changes, and ECHO_CONVERGED is raised on entry to
CONVERGED (R53). -/
def Units.convergenceTurn (u : Units) (n : LegIx) : Units :=
  let entered := decide ((look u.can n).working = .converging)
  let u := u.onMedia fun m => (m.onCan n Canceller.turn).restate u.legs n
  if entered then
    u.raise .echoConverged (.leg n) (detail1 (byte (look u.can n).held.length)) (look u.legs n).target
  else u

/-- The end of a window: double talk, ERLE and the timer, the change of working state at 500 ms, and the
next window (R51, R52, R53; log 6). -/
def Units.windowEnd (u : Units) (n : LegIx) : Units :=
  let c := look u.can n
  let u := u.onMedia fun m => { (m.onCan n fun c => c.measure m.nonce) with nonce := m.nonce + 1 }
  let u := if convergenceLimit ≤ (look u.can n).timer then u.convergenceTurn n else u
  u.onMedia fun m => m.onCan n fun c' => c'.nextWindow c.window

/-! ## LQRY (R41, R58) -/

/-- The reply of LQRY. -/
def ownLqry (payload : List Byte) (u : Units) : Reply :=
  match payload with
  | [nb] =>
    match readIx 64 nb with
    | none => .refuse .badarg
    | some n =>
      let l := look u.legs n
      let c := look u.can n
      let stood := if l.group.isSome then l.parkTime.map (since u.router.stamp) else none
      .ok ([l.state.code, ixByte l.bound, ixByte l.owner, ixByte l.group] ++ le4None stood ++
        [flagByte l.fired] ++ le2None (l.timer.map msLeft) ++
        [flagByte l.connectRef, l.mode.code, byte l.tail, c.state.code, byte c.held.length,
          flagByte c.reclaimed, flagByte c.doubleTalk, byte c.erle])
  | _ => .refuse .length

end Sys2Proof.Machine
end

