-- ==== Sys2Proof/Machine/Noise.lean ====
section
/-! DEFINITION. One suppressor (chapter 4): the speech decision, learning, the alarm and suppression at the
end of a block, comfort noise, and what arrival, loss and PCFG do to it. -/

namespace Sys2Proof.Machine

/-- Frames in an analysis block: 8 ms (R60). -/
def blockFrames : Nat := 64

/-- Learned time from which the profile is used, in ms. -/
def learnedEnough : Nat := 500

/-- A band level kept in −96.0 to 0 dBFS, in tenths. -/
def clampBand (x : Int) : Int := max (-960) (min 0 x)

/-- The levels of the 16 bands of a block (R62). Table 4-1 gives steps of 0.1 dB and the range of −96 to 0 dBFS
for the band estimates alone; that a block's levels are measured so too is the model's choice (log 13). -/
def bandLevels (block : List Sample) : List Int :=
  (List.range 16).map fun i => clampBand (Config.bandLevel block i)

/-! ## The speech decision (R61) -/

/-- The hangover time that clears the speech flag, in ms. -/
def hangoverLimit : Nat := 200

/-- A block not above the floor while the flag is set: 8 ms of hangover, the flag cleared at the limit. -/
def Suppressor.hang (s : Suppressor) : Suppressor :=
  if hangoverLimit ≤ s.hangover + 8 then { s with speech := false, hangover := 0 }
  else { s with hangover := s.hangover + 8 }

/-- Whether a block exceeds the noise floor by more than 9 dB. -/
def Suppressor.aboveFloor (s : Suppressor) (block : List Sample) : Bool :=
  levelExceeds (sumSquares block) block.length (10 * (s.floor + 9))

/-- The speech decision for a block. -/
def Suppressor.decideSpeech (s : Suppressor) (block : List Sample) : Suppressor :=
  if s.learned < learnedEnough then
    { s with speech := levelAtLeast (sumSquares block) block.length (-300) }
  else if s.aboveFloor block then { s with speech := true, hangover := 0 }
  else if s.speech then s.hang
  else s

/-! ## Learning (R62) -/

/-- A band estimate moved toward a level: down by at most 1 dB, up by at most 0.1 dB. -/
def moveBand (est lvl : Int) : Int :=
  if lvl < est then max lvl (est - 10) else min lvl (est + 1)

/-- The mean in power of one band over the blocks learned. -/
def meanBand (blocks : List (List Int)) (i : Nat) : Int :=
  meanTenths (blocks.map fun b => b.getD i (-960))

/-- Learning from a block whose speech flag is clear. -/
def Suppressor.learn (s : Suppressor) (levels : List Int) : Suppressor :=
  if s.speech then s
  else
    let early := s.early ++ [levels]
    let bands :=
      if s.learned < learnedEnough then (List.range 16).map (meanBand early)
      else List.zipWith moveBand s.bands levels
    let learned := min 60000 (s.learned + 8)
    { s with
      bands := bands
      learned := learned
      floor := sumDb bands
      early := if learned < learnedEnough then early else [] }

/-! ## The alarm (R68, R69) -/

/-- The hold time of the alarm in each direction, in ms. -/
def alarmHold : Nat := 2000

/-- Whether a block's floor counts toward a change of the alarm. -/
def Suppressor.alarmCounts (s : Suppressor) : Bool :=
  match s.alarm with
  | .normal => decide (learnedEnough ≤ s.learned) && decide (s.threshold < s.floor)
  | .high => decide (s.floor < s.threshold - 3)

/-- The alarm timers after a block. -/
def Suppressor.alarmTick (s : Suppressor) : Suppressor :=
  match s.alarm with
  | .normal => { s with highTimer := if s.alarmCounts then s.highTimer + 8 else 0 }
  | .high => { s with lowTimer := if s.alarmCounts then s.lowTimer + 8 else 0 }

/-- The alarm whose hold time has been reached, if any. -/
def Suppressor.alarmReached (s : Suppressor) : Option Alarm :=
  match s.alarm with
  | .normal => if alarmHold ≤ s.highTimer then some .high else none
  | .high => if alarmHold ≤ s.lowTimer then some .normal else none

/-- The alarm changed, with both timers at 0. -/
def Suppressor.setAlarm (s : Suppressor) (a : Alarm) : Suppressor :=
  { s with alarm := a, highTimer := 0, lowTimer := 0 }

/-! ## Suppression (R64) -/

/-- The attenuation of a band in 900ths of a dB: all of the level's maximum up to 3 dB above the estimate,
none from 12 dB on, in proportion between. -/
def bandAttenuation (level : Nat) (est lvl : Int) : Nat :=
  let d := lvl - est
  if d ≤ 30 then 60 * level * 90 else if 120 ≤ d then 0 else 60 * level * (120 - d).toNat

/-- A block after suppression; unchanged where no band is attenuated (log 13). -/
def Suppressor.suppress (s : Suppressor) (block : List Sample) (levels : List Int) : List Sample :=
  let att := List.zipWith (bandAttenuation s.level) s.bands levels
  if s.learned < learnedEnough ∨ att.all (· = 0) then block
  else block.mapIdx fun i _ => limit16 (Config.recombine block att i)

/-! ## The end of a block (R60) -/

/-- Whether a block is due to end. -/
def Suppressor.blockDue (s : Suppressor) : Bool := decide (blockFrames ≤ s.gather.length)

/-- The end of a block up to its alarm: the speech decision, learning and the alarm timers. -/
def Suppressor.judge (s : Suppressor) : Suppressor :=
  let block := s.gather.take blockFrames
  ((s.decideSpeech block).learn (bandLevels block)).alarmTick

/-- The end of a block after its alarm: suppression, and delivery from the next frame on (log 30). -/
def Suppressor.emit (s : Suppressor) : Suppressor :=
  let block := s.gather.take blockFrames
  { s with
    gather := s.gather.drop blockFrames
    deliver := s.deliver ++ s.suppress block (bandLevels block) }

/-! ## Comfort noise (R66, R67) -/

/-- What a generator block carries: flat at −70 dBFS, or the profile within −90 to −30 dBFS. -/
def Suppressor.noiseContent (s : Suppressor) : Int × Option (List Int) :=
  if s.learned < learnedEnough then (-70, none)
  else
    let total := max (-90) (min (-30) s.floor)
    (total, some (s.bands.map fun b => b + 10 * (total - s.floor)))

/-- A generator started on a fresh noise sequence. -/
def Generator.start (seq : Nat) : Generator := { seq := seq, ran := 0, total := -70, bands := none }

/-- One frame of comfort noise; a generator block takes the profile as it stands at its start. -/
def Suppressor.noiseFrame (s : Suppressor) : Suppressor × Sample :=
  match s.generator with
  | none => (s, 0)
  | some g =>
    let g :=
      if g.ran % blockFrames = 0 then
        { g with total := s.noiseContent.1, bands := s.noiseContent.2 }
      else g
    ({ s with generator := some { g with ran := g.ran + 1 } },
      limit16 (Config.noiseSample g.seq g.ran g.total g.bands))

/-! ## One frame, arrival, loss and settings -/

/-- The suppressed microphone of a frame, which leaves the block being delivered; silence where no block is,
as in the first 64 frames after an arrival (log 52). -/
def Suppressor.micFrame (s : Suppressor) : Suppressor × Sample :=
  match s.deliver with
  | [] => (s, 0)
  | x :: xs => ({ s with deliver := xs }, x)

/-- A microphone sample taken (R60). -/
def Suppressor.intake (s : Suppressor) (x : Sample) : Suppressor := { s with gather := s.gather ++ [x] }

/-- The profile reset of a headset arrival (R63). -/
def Suppressor.arrival (s : Suppressor) : Suppressor :=
  { s with
    bands := List.replicate 16 (-960), learned := 0, floor := -96, speech := false, hangover := 0,
    early := [], gather := [], deliver := [] }

/-- A headset loss: what was gathered and not delivered is discarded, the alarm ends, the profile stays
(R60, R63). -/
def Suppressor.loss (s : Suppressor) : Suppressor :=
  { s with
    speech := false, hangover := 0, alarm := .normal, highTimer := 0, lowTimer := 0, generator := none,
    gather := [], deliver := [] }

/-- The level and threshold of an accepted PCFG; a changed threshold sets both timers to 0 (R70). -/
def Suppressor.configure (s : Suppressor) (level : Nat) (threshold : Int) : Suppressor :=
  if threshold = s.threshold then { s with level := level }
  else { s with level := level, threshold := threshold, highTimer := 0, lowTimer := 0 }

/-- The reply of NQRY (R71). -/
def Suppressor.bytes (s : Suppressor) : List Byte :=
  [sbyte s.floor, s.alarm.code] ++ le2 s.learned ++ [flagByte s.speech] ++ (s.bands.map tenths2).flatten

end Sys2Proof.Machine
end

