-- ==== Sys2Proof/Machine/Positions.lean ====
section
/-! DEFINITION. The Position Unit (chapter 1): effective mute, headset arrival and loss, status subframes,
the link timer, PCFG, PQRY, PMUT, PLPB, and the suppressor's events and NQRY. -/

namespace Sys2Proof.Machine

/-! ## Reaching parts of the state -/

/-- The state with its `Units` changed. -/
def State.onUnits (s : State) (f : Units → Units) : State := { s with toUnits := f s.toUnits }

/-- The state with its `Media` changed. -/
def State.onMedia (s : State) (f : Media → Media) : State := s.onUnits fun u => u.onMedia f

/-- The state with one suppressor changed. -/
def State.onSup (s : State) (p : PosIx) (f : Suppressor → Suppressor) : State :=
  { s with sup := upd s.sup p f }

/-! ## Position events and deltas (R6, R7, R168) -/

/-- A position event; where its record enters the notice queue, the delta it stands for is cleared. -/
def Units.raisePos (u : Units) (k : EventKind) (p : PosIx) (detail : BitVec 16)
    (clear : Position → Position) : Units :=
  let enters := u.router.enters k
  let u := u.raise k (.position p) detail (some p)
  if enters then u.onPos p clear else u

/-- A change of effective mute from `was`, if there is one: the delta, and MUTE_ON or MUTE_OFF (R6). -/
def Units.muteChange (u : Units) (p : PosIx) (was : Bool) : Units :=
  let pos := look u.pos p
  if pos.muted = was then u
  else
    (u.onPos p fun pos => { pos with muteChanged := true }).raisePos
      (if pos.muted then .muteOn else .muteOff) p
      (detail2 (flagByte pos.keyHeld) (flagByte pos.hostMute)) fun pos => { pos with muteChanged := false }

/-- The comfort noise generator runs while effective mute is set: started on a fresh sequence, or stopped
(R66). -/
def State.syncGenerator (s : State) (p : PosIx) : State :=
  match (look s.pos p).muted, (look s.sup p).generator with
  | true, none =>
    let seq := s.nonce
    (s.onMedia fun m => { m with nonce := m.nonce + 1 }).onSup p fun c =>
      { c with generator := some (Generator.start seq) }
  | false, some _ => s.onSup p fun c => { c with generator := none }
  | true, some _ | false, none => s

/-! ## Arrival and loss (R8, R10) -/

/-- A headset arrival, with the mute key of the completing subframe. -/
def Units.arrive (u : Units) (p : PosIx) (key : Bool) : Units :=
  let u := u.onPos p fun pos =>
    { pos with
      present := true, keyHeld := key, presentChanged := true, state := .idle, debounce := none }
  let u := u.raisePos .headsetOn p (detail1 (look u.pos p).role.code) fun pos =>
    { pos with presentChanged := false }
  u.muteChange p false

/-- A headset arrival, handed on to the suppressor (R63, R66). -/
def State.arrive (s : State) (p : PosIx) (key : Bool) : State :=
  ((s.onUnits fun u => u.arrive p key).onSup p Suppressor.arrival).syncGenerator p

/-- A headset loss, in the order of R10. -/
def Units.lose (u : Units) (p : PosIx) (cause : LossCause) : Units :=
  let before := look u.pos p
  let u := u.onPos p fun pos =>
    { pos with
      present := false, keyHeld := false, presentChanged := true, state := .absent, debounce := none }
  let u := u.raisePos .headsetOff p (detail2 cause.code before.state.code) fun pos =>
    { pos with presentChanged := false }
  let u := u.muteChange p before.muted
  let u :=
    match before.state, before.bound with
    | .engaged, some n => u.autoPark p n
    | _, _ => u
  u.whisperLoss p

/-- A headset loss, handed on to the suppressor (R63). -/
def State.lose (s : State) (p : PosIx) (cause : LossCause) : State :=
  (s.onUnits fun u => u.lose p cause).onSup p Suppressor.loss

/-! ## Headset status (R4, R5, R6) -/

/-- The link timer, 20 ms in frames (R4). -/
def linkTime : Nat := framesOf 20

/-- The presence debounce, 50 ms in frames (R5). -/
def debounceTime : Nat := framesOf 50

/-- The mute key of a valid subframe, taken while the present flag is set (R6). -/
def State.takeKey (s : State) (p : PosIx) (key : Bool) : State :=
  let before := look s.pos p
  if before.present then
    (s.onUnits fun u =>
      (u.onPos p fun pos => { pos with keyHeld := key }).muteChange p before.muted).syncGenerator p
  else s

/-- The presence debounce of a valid subframe (R5). -/
def State.debounce (s : State) (p : PosIx) (present key : Bool) : State :=
  let pos := look s.pos p
  if present = pos.present then s.onUnits fun u => u.onPos p fun pos => { pos with debounce := none }
  else
    match pos.debounce with
    | none =>
      s.onUnits fun u => u.onPos p fun pos =>
        { pos with debounce := some { toPresent := present, run := 0 } }
    | some d =>
      if d.run < debounceTime then s
      else if present then s.arrive p key
      else s.lose p .unplugged

/-- A status subframe; one whose link validity bit is clear is as none (R4; log 25). -/
def State.subframe (s : State) (p : PosIx) (present key valid : Bool) : State :=
  if valid then
    let s := s.onUnits fun u => u.onPos p fun pos =>
      { pos with linkValid := true, linkTimer := some linkTime }
    (s.takeKey p key).debounce p present key
  else s

/-- The link timer at zero: the link is lost, and a present headset with it (R4). -/
def State.linkLost (s : State) (p : PosIx) : State :=
  if (look s.pos p).linkTimer = some 0 then
    let s := s.onUnits fun u => u.onPos p fun pos =>
      { pos with linkValid := false, linkTimer := none, debounce := none }
    if (look s.pos p).present then s.lose p .linkLost else s
  else s

/-! ## Requests -/

/-- PCFG (R14). -/
def ownPcfg (payload : List Byte) (s : State) : State × Reply :=
  match payload with
  | [pb, rb, fb, gb, nb, eb, cb, lb, tb] =>
    match readIx 48 pb, readRole rb, readIx 8 gb, readFlag nb, readSigned (-24) 12 eb.toInt,
        readSigned 0 30 cb.toInt, readRange 0 3 lb.toNat, readSigned (-60) (-20) tb.toInt with
    | some p, some role, some g, some nesting, some gain, some duck, some level, some threshold =>
      let pos := look s.pos p
      if role ≠ pos.role ∧ ¬((pos.state = .absent ∨ pos.state = .idle) ∧ pos.coach = none) then
        (s, .refuse .state)
      else
        ((s.onUnits fun u => u.onPos p fun pos =>
            { pos with
              role := role, floors := fb, defaultGroup := g, nesting := nesting, gain := gain,
              coachDuck := duck.toNat }).onSup p fun c => c.configure level threshold, .ok [])
    | _, _, _, _, _, _, _, _ => (s, .refuse .badarg)
  | _ => (s, .refuse .length)

/-- The reply of PQRY (Table 12-3); with no coach link partner and side are none, and the flag is 0 (R188,
R189). -/
def State.pqryBytes (s : State) (p : PosIx) : List Byte :=
  let pos := look s.pos p
  let sup := look s.sup p
  [pos.role.code, pos.state.code, flagByte pos.present, flagByte pos.linkValid, flagByte pos.keyHeld,
    flagByte pos.hostMute, flagByte pos.muted, flagByte pos.presentChanged, flagByte pos.muteChanged,
    pos.floors, byte pos.defaultGroup, flagByte pos.nesting, sbyte pos.gain, byte pos.coachDuck,
    byte sup.level, sbyte sup.threshold, ixByte pos.bound] ++
  (match pos.coach with
    | none => [0xFF, 0xFF, 0]
    | some l => [byte l.partner, l.side.code, flagByte l.active])

/-- PQRY (R15). -/
def ownPqry (payload : List Byte) (s : State) : State × Reply :=
  match payload with
  | [pb] =>
    match readIx 48 pb with
    | none => (s, .refuse .badarg)
    | some p =>
      (s.onUnits fun u => u.onPos p fun pos => { pos with presentChanged := false, muteChanged := false },
        .ok (s.pqryBytes p))
  | _ => (s, .refuse .length)

/-- PMUT (R17). -/
def ownPmut (payload : List Byte) (s : State) : State × Reply :=
  match payload with
  | [pb, mb] =>
    match readIx 48 pb, readFlag mb with
    | some p, some mute =>
      let was := (look s.pos p).muted
      ((s.onUnits fun u =>
        (u.onPos p fun pos => { pos with hostMute := mute }).muteChange p was).syncGenerator p, .ok [])
    | _, _ => (s, .refuse .badarg)
  | _ => (s, .refuse .length)

/-- Whether a whisper state holds no entry, waiting, playing or stacked (R18). -/
def Whisper.noEntry (w : Whisper) : Bool :=
  w.queue.isEmpty && w.stack.isEmpty && !w.playing.isPrompt fun _ => true

/-- PLPB (R18, R19). -/
def ownPlpb (payload : List Byte) (u : Units) : Units × Reply :=
  match payload with
  | [pb, lb] =>
    match readIx 48 pb, readFlag lb with
    | some p, some true =>
      if (look u.pos p).state = .idle ∧ (look u.whisper p).noEntry then
        (u.onPos p fun pos => { pos with state := .loopback }, .ok [])
      else (u, .refuse .state)
    | some p, some false =>
      if (look u.pos p).state = .loopback then
        (u.onPos p fun pos => { pos with state := .idle }, .ok [])
      else (u, .refuse .state)
    | _, _ => (u, .refuse .badarg)
  | _ => (u, .refuse .length)

/-- NQRY (R71). -/
def ownNqry (payload : List Byte) (s : State) : Reply :=
  match payload with
  | [pb] =>
    match readIx 48 pb with
    | none => .refuse .badarg
    | some p => .ok (look s.sup p).bytes
  | _ => .refuse .length

/-! ## Announcements (R132–R134) -/

/-- The lowest-numbered IDLE slot. -/
def State.idleSlot (s : State) : Option SlotIx := (List.finRange 4).find? fun k => (look s.slots k).isNone

/-- ANNC (R132). -/
def ownAnnc (payload : List Byte) (s : State) : State × Reply :=
  match payload with
  | [mask, qb, lb, d0, d1] =>
    match readIx 32 qb, readLevel lb, readRange 0 60000 (leNat [d0, d1]) with
    | some q, some lvl, some delay =>
      if mask = 0 then (s, .refuse .badarg)
      else
        match s.idleSlot with
        | none => (s, .refuse .noroom)
        | some k =>
          let a : Counting := { mask := mask, cue := q, level := lvl, left := framesOf delay }
          if delay = 0 then
            let (u, n) := s.toUnits.fire k a
            ({ s with toUnits := u }, .ok [byte k, byte n])
          else ({ s with slots := put s.slots k (some a) }, .ok [byte k, 0xFF])
    | _, _, _ => (s, .refuse .badarg)
  | _ => (s, .refuse .length)

/-- ACAN (R134). -/
def ownAcan (payload : List Byte) (s : State) : State × Reply :=
  match payload with
  | [kb] =>
    match readIx 4 kb with
    | none => (s, .refuse .badarg)
    | some k =>
      match look s.slots k with
      | none => (s, .refuse .late)
      | some a => ({ s with slots := put s.slots k none }, .ok (le2 (msLeft a.left)))
  | _ => (s, .refuse .length)

/-- The expiry of a COUNTING slot whose delay has run out (R133). -/
def State.announceExpiry (s : State) (k : SlotIx) : State :=
  match look s.slots k with
  | none => s
  | some a =>
    if a.left = 0 then
      let (u, _) := s.toUnits.fire k a
      { s with toUnits := u, slots := put s.slots k none }
    else s

/-! ## Blocks (R60) -/

/-- The alarm changed and its event raised (R68, R69). -/
def State.alarmTurn (s : State) (p : PosIx) (a : Alarm) : State :=
  let s := s.onSup p fun c => c.setAlarm a
  let c := look s.sup p
  s.onUnits fun u =>
    u.raise (match a with
      | .high => .noiseHigh
      | .normal => .noiseNormal) (.position p) (detail2 (sbyte c.floor) (sbyte c.threshold)) (some p)

/-- The end of an analysis block of a present position: the speech decision, learning, the alarm, and
suppression (R60; log 6). -/
def State.blockEnd (s : State) (p : PosIx) : State :=
  let s := s.onSup p Suppressor.judge
  let s :=
    match (look s.sup p).alarmReached with
    | some a => s.alarmTurn p a
    | none => s
  s.onSup p Suppressor.emit

/-- Whether a position's block is due to end. -/
def State.blockDue (s : State) (p : PosIx) : Bool := (look s.pos p).present && (look s.sup p).blockDue

end Sys2Proof.Machine
end

