-- ==== Sys2Proof/Machine/Highway.lean ====
section
/-! DEFINITION. One highway frame (00 section 4.1, R11–R13, R37–R40, R44, R60, R65–R67, R96): the samples of
every slot, in the order log 37 fixes, and the 0.125 ms that pass. -/

namespace Sys2Proof.Machine

/-- A sample of a highway; a slot the frame does not give is silence (log 36). -/
def slotSample (xs : List Sample) (i : Nat) : Sample := xs.getD i 0

/-! ## What the suppressors and cursors give -/

/-- The suppressed microphone and the comfort noise of a position in this frame; an ABSENT position gives
silence (R60). -/
def State.suppressorOut (s : State) (p : PosIx) : Suppressor × Sample × Sample :=
  if (look s.pos p).present then
    let (c, mic) := (look s.sup p).micFrame
    let (c, noise) := c.noiseFrame
    (c, mic, noise)
  else (look s.sup p, 0, 0)

/-- The output of every cursor, in ascending order. -/
def Media.cursorsFrame (m : Media) : Media × Vector Sample 56 :=
  (List.finRange 56).foldl
    (fun (acc : Media × Vector Sample 56) c =>
      let (m, x) := acc.1.cursorFrame c
      (m, put acc.2 c x))
    (m, Vector.replicate 56 0)

/-- The samples of one frame that the mixes take. -/
structure Sources where
  mic : Vector Sample 48
  noise : Vector Sample 48
  cursor : Vector Sample 56
  /-- Trunk receive after echo cancellation. -/
  clean : Vector Sample 64

/-- A position's microphone as others hear it: silence while its effective mute is set (R11, R13, R39). -/
def Units.openMic (u : Units) (src : Sources) (p : PosIx) : Int :=
  if (look u.pos p).muted then 0 else (look src.mic p).toInt

/-- The supervisor of the active pair of which a position is the agent. -/
def Units.activeCoach (u : Units) (p : PosIx) : Option PosIx :=
  match (look u.pos p).coach with
  | some l => if l.side = .agent ∧ l.active then some l.partner else none
  | none => none

/-! ## Outbound (R37–R39) -/

/-- Barge audio on a position's leg (R39). -/
def Units.barge (u : Units) (src : Sources) (p : PosIx) : Int :=
  match u.pairOfAgent p with
  | some x => if x.active ∧ x.mode = .barge then u.openMic src x.supervisor else 0
  | none => 0

/-- The outbound of a leg (Table 2-4). -/
def Units.outboundOf (u : Units) (src : Sources) (n : LegIx) : Sample :=
  let l := look u.legs n
  match l.state with
  | .free => 0
  | .parked | .connecting =>
    match l.group with
    | some g => look src.cursor (groupCursor g)
    | none => 0
  | .talking =>
    match l.bound with
    | none => 0
    | some p =>
      let own := if (look u.pos p).muted then (look src.noise p).toInt else (look src.mic p).toInt
      limit16 (own + u.barge src p)

/-! ## Earpiece (R11–R13) -/

/-- The cue duck of the prompt entry that is a position's playing entry, in dB (R12). -/
def Units.cueDuck (u : Units) (p : PosIx) : Nat :=
  match (look u.whisper p).playing with
  | .prompt _ =>
    match (look u.cursors (posCursor p)).snapshot with
    | some s => s.duck
    | none => 0
  | .none | .coach => 0

/-- The duck on an ENGAGED position's trunk receive: the larger of cue duck and coach duck (R12). -/
def Units.duck (u : Units) (p : PosIx) : Nat :=
  match (look u.whisper p).playing with
  | .coach => max (u.cueDuck p) (look u.pos p).coachDuck
  | .prompt _ | .none => u.cueDuck p

/-- Trunk receive of a leg that is TALKING, ducked; nothing of any other (R40). -/
def Units.trunkPart (u : Units) (src : Sources) (n : Option LegIx) (duck : Nat) : Int :=
  match n with
  | none => 0
  | some n =>
    if (look u.legs n).state = .talking then gainDb (-duck) (look src.clean n).toInt else 0

/-- Coach audio: the microphone of the supervisor of an active pair (R11). -/
def Units.coachAudio (u : Units) (src : Sources) (p : PosIx) : Int :=
  match u.activeCoach p with
  | some s => u.openMic src s
  | none => 0

/-- The listen mix of a supervisor whose pair is active (R13). -/
def Units.listenMix (u : Units) (src : Sources) (p : PosIx) : Int :=
  match (look u.pos p).coach with
  | some l =>
    if l.side = .supervisor ∧ l.active then
      u.trunkPart src (look u.pos l.partner).bound (u.cueDuck p) + u.openMic src l.partner
    else 0
  | none => 0

/-- The sources of a position's earpiece (Table 1-4). -/
def Units.earpieceMix (u : Units) (src : Sources) (p : PosIx) : Int :=
  let pos := look u.pos p
  let whisper := (look src.cursor (posCursor p)).toInt
  match pos.state with
  | .absent => 0
  | .idle => whisper
  | .engaged => u.trunkPart src pos.bound (u.duck p) + whisper + u.coachAudio src p
  | .coaching => u.listenMix src p + whisper
  | .loopback => (look src.mic p).toInt

/-- The earpiece sample of a position, under its gain and limited (R12). -/
def Units.earpieceOf (u : Units) (src : Sources) (p : PosIx) : Sample :=
  limit16 (gainDb (look u.pos p).gain (u.earpieceMix src p))

/-! ## Time -/

/-- The counters of the store after one frame: the quiet window, a program, a running erase (R136, R149). -/
def Store.tick (st : Store) : Store :=
  { st with
    quiet := tickDown st.quiet
    op :=
      match st.op with
      | .program p => .program { p with run := p.run + 1 }
      | op => op
    erase := st.erase.map fun e =>
      if e.phase = .running then { e with run := e.run + 1, since := e.since + 1 } else e }

/-- The timestamp counter after one frame (R164). -/
def Router.tick (r : Router) : Router :=
  if 7 ≤ r.phase then { r with phase := 0, stamp := r.stamp + 1 } else { r with phase := r.phase + 1 }

/-- A position's timers after one frame. -/
def Position.tick (p : Position) : Position :=
  { p with linkTimer := tickDown p.linkTimer, debounce := p.debounce.map fun d => { d with run := d.run + 1 } }

/-- Every counter after one frame (log 2). -/
def State.tick (s : State) : State :=
  { s with
    pos := mapIx s.pos fun _ p => p.tick
    legs := mapIx s.legs fun _ l => { l with timer := tickDown l.timer }
    slots := mapIx s.slots fun _ a => a.map fun a => { a with left := a.left - 1 }
    store := s.store.tick
    router := s.router.tick
    link :=
      { s.link with
        gap :=
          match s.link.assembler with
          | .hunting => 0
          | .assembling _ => s.link.gap + 1 } }

/-! ## The frame -/

/-- One highway frame (log 37). -/
def State.frame (s : State) (mic trunk : List Sample) : State :=
  let given : Vector (Suppressor × Sample × Sample) 48 := Vector.ofFn s.suppressorOut
  let (m, cursor) := s.toMedia.cursorsFrame
  let u := { s.toUnits with toMedia := m }
  let src : Sources :=
    { mic := given.map fun x => x.2.1, noise := given.map fun x => x.2.2, cursor := cursor,
      clean := Vector.replicate 64 0 }
  let outbound : Vector Sample 64 := Vector.ofFn (u.outboundOf src)
  let cans : Vector (Canceller × Sample) 64 := Vector.ofFn fun n =>
    (look u.can n).frame u.nonce n (look outbound n) (slotSample trunk n)
  let src := { src with clean := cans.map Prod.snd }
  State.tick
    { s with
      toUnits := u.onMedia fun m => { m with can := cans.map Prod.fst, nonce := m.nonce + 1 }
      sup := mapIx (given.map Prod.fst) fun p c =>
        if (look s.pos p).present then c.intake (slotSample mic p) else c
      outbound := outbound
      earpiece := Vector.ofFn (u.earpieceOf src) }

end Sys2Proof.Machine
end

