-- ==== Sys2Proof/Machine/Link.lean ====
section
/-! DEFINITION. The Control Link Port (chapter 11): frames, the receive assembler, discards, the request
queue with the port's own answers, the outgoing arbiter, and IDNT, STAT, LRAT and RSTR. -/

namespace Sys2Proof.Machine

/-! ## Requests by name (Table 12-3) -/

/-- The 40 request names, each with the one length of its payload, or none where it varies (R180). -/
def requestNames : List (List Byte × Option Nat) :=
  [(ascii4 'P' 'C' 'F' 'G', some 9), (ascii4 'P' 'Q' 'R' 'Y', some 1), (ascii4 'P' 'M' 'U' 'T', some 2),
    (ascii4 'P' 'L' 'P' 'B', some 2), (ascii4 'N' 'Q' 'R' 'Y', some 1), (ascii4 'B' 'I' 'N' 'D', some 4),
    (ascii4 'P' 'A' 'R' 'K', some 2), (ascii4 'R' 'E' 'L' 'S', some 1), (ascii4 'L' 'Q' 'R' 'Y', some 1),
    (ascii4 'E' 'C' 'H' 'O', some 4), (ascii4 'S' 'P' 'R' 'S', some 1), (ascii4 'S' 'P' 'Q' 'Y', some 1),
    (ascii4 'C' 'D' 'E' 'F', none), (ascii4 'C' 'Q' 'R' 'Y', some 2), (ascii4 'G' 'S' 'R' 'C', some 5),
    (ascii4 'G' 'Q' 'R' 'Y', some 1), (ascii4 'W' 'P' 'S' 'T', some 4), (ascii4 'W' 'F' 'L' 'S', some 2),
    (ascii4 'C' 'A' 'T' 'T', some 3), (ascii4 'C' 'D' 'E' 'T', some 1), (ascii4 'A' 'N' 'N' 'C', some 5),
    (ascii4 'A' 'C' 'A' 'N', some 1), (ascii4 'O' 'P' 'E' 'N', some 6), (ascii4 'D' 'A' 'T' 'A', none),
    (ascii4 'F' 'I' 'N' 'I', some 0), (ascii4 'D' 'R' 'O' 'P', some 1), (ascii4 'R' 'T' 'I' 'R', some 1),
    (ascii4 'R' 'S' 'T' 'O', some 1), (ascii4 'P' 'R' 'O' 'T', some 1), (ascii4 'L' 'I' 'S' 'T', some 1),
    (ascii4 'S' 'T' 'O' 'R', some 0), (ascii4 'F' 'R' 'M' 'T', some 1), (ascii4 'R' 'O' 'U' 'T', some 8),
    (ascii4 'N' 'M' 'O' 'D', some 1), (ascii4 'N' 'F' 'E' 'T', some 1), (ascii4 'N' 'C' 'L' 'R', some 0),
    (ascii4 'I' 'D' 'N' 'T', some 0), (ascii4 'S' 'T' 'A' 'T', some 0), (ascii4 'L' 'R' 'A' 'T', some 4),
    (ascii4 'R' 'S' 'T' 'R', some 0)]

/-- The port's own answer to a request, if it gives one: UNKNOWN, or LENGTH for a payload of fixed length
(R180). -/
def portAnswer (r : Request) : Option Result :=
  match requestNames.find? fun x => x.1 = r.name with
  | none => some .unknown
  | some (_, some n) => if r.payload.length = n then none else some .length
  | some (_, none) => none

/-- Whether a request is an RSTR that has been taken: no later request is handed on (R180). -/
def Request.isRestart (r : Request) : Bool :=
  decide (r.name = ascii4 'R' 'S' 'T' 'R') && decide (r.reply.map Reply.result = some .ok)

/-- Whether the queue holds an RSTR that has been taken. -/
def Link.restartDue (l : Link) : Bool := l.requests.any Request.isRestart

/-- The port's own answers given to the oldest requests not yet answered, up to one that an owner must take
(R180; log 5). -/
def answerOwn : List Request → List Request
  | [] => []
  | r :: rs =>
    match r.reply with
    | some _ => if r.isRestart then r :: rs else r :: answerOwn rs
    | none =>
      match portAnswer r with
      | some res => { r with reply := some (.refuse res) } :: answerOwn rs
      | none => r :: rs

/-- The port looks at its request queue. -/
def Link.pump (l : Link) : Link := { l with requests := answerOwn l.requests }

/-- The request an owner takes next: the oldest without a reply, unless a restart is due (R180). -/
def Link.next (l : Link) : Option Request :=
  if l.restartDue then none else l.requests.find? fun r => r.reply.isNone

/-- A reply given to the oldest request without one. -/
def giveReply (rep : Reply) : List Request → List Request
  | [] => []
  | r :: rs => if r.reply.isNone then { r with reply := some rep } :: rs else r :: giveReply rep rs

/-! ## Discards (R178, R179) -/

/-- A frame discarded: its counter, and LINK_FAULT if the latch was clear. -/
def State.discard (s : State) (cause : Discard) : State :=
  let latched := s.link.latch
  let s :=
    { s with
      link := { s.link with counters := upd s.link.counters cause.index bump16, latch := true } }
  if latched then s
  else s.onMedia fun m => m.raise .linkFault .none (detail1 (byte cause.index)) none

/-- The most requests the queue holds (R180). -/
def requestLimit : Nat := 4

/-- A frame that passed its other checks: FULL, or accepted with the latch cleared (R178, R180). -/
def State.accept (s : State) (r : Request) : State :=
  if requestLimit ≤ s.link.requests.length then s.discard .full
  else { s with link := { s.link with requests := s.link.requests ++ [r], latch := false }.pump }

/-! ## The receive assembler (R178) -/

/-- The SYNC byte (R177). -/
def syncByte : Byte := 0xC5

/-- The assembler set, with its gap at 0. -/
def State.setAssembler (s : State) (a : Assembler) : State :=
  { s with link := { s.link with assembler := a, gap := 0 } }

/-- A complete frame, LEN to CHECK: CHECK, KIND and FULL in order, then accepted (R178). -/
def State.completeFrame (s : State) (bytes : List Byte) : State :=
  let covered := bytes.take (bytes.length - 2)
  if le2 (crc16 covered).toNat ≠ bytes.drop (bytes.length - 2) then s.discard .check
  else
    match covered with
    | _ :: kind :: t0 :: t1 :: n0 :: n1 :: n2 :: n3 :: payload =>
      if kind ≠ 0x51 then s.discard .kind
      else s.accept { tag := t1 ++ t0, name := [n0, n1, n2, n3], payload := payload, reply := none }
    | _ => s.discard .check

/-- A byte received (R178). -/
def State.receive (s : State) (b : Byte) (stop : Bool) : State :=
  match s.link.assembler with
  | .hunting => if stop && b == syncByte then s.setAssembler (.assembling []) else s
  | .assembling bytes =>
    if !stop then (s.setAssembler .hunting).discard .framing
    else
      let bytes := bytes ++ [b]
      match bytes with
      | [] => s
      | len :: _ =>
        if len.toNat < 7 ∨ 247 < len.toNat then (s.setAssembler .hunting).discard .len
        else if bytes.length = len.toNat + 3 then (s.setAssembler .hunting).completeFrame bytes
        else s.setAssembler (.assembling bytes)

/-- A break on RXD (R178). -/
def State.lineBreak (s : State) : State :=
  match s.link.assembler with
  | .hunting => s
  | .assembling _ => (s.setAssembler .hunting).discard .framing

/-- The time without a byte that discards a frame, 5 ms in frames (R178). -/
def gapTime : Nat := framesOf 5

/-- 5 ms without the next byte of a frame (R178). -/
def State.gapTimeout (s : State) : State :=
  match s.link.assembler with
  | .hunting => s
  | .assembling _ => if gapTime ≤ s.link.gap then (s.setAssembler .hunting).discard .gap else s

/-! ## Taking a request -/

/-- The next request is taken by its owner: the owner's effects, the routed postings they bring about, and
the reply, ready in the same step as the records they enter (R171, R180; log 56). -/
def State.take (s : State) (own : List Byte → State → State × Reply) : State :=
  match s.link.next with
  | none => s
  | some r =>
    let (s, rep) := own r.payload s
    let s := s.onUnits Units.settle
    { s with link := { s.link with requests := giveReply rep s.link.requests }.pump }

/-- Whether the next request is the one a command names. -/
def State.nextIs (s : State) (r : Request) : Bool := decide (s.link.next = some r)

/-- A request command: it takes the oldest request not yet taken if that is the one it names. Otherwise its
whole frame arrives, and is taken if it is then the oldest (log 4). A payload that no frame can carry gives
a LEN beyond its range (R178). -/
def State.request (s : State) (own : List Byte → State → State × Reply) (name : List Byte)
    (tag : BitVec 16) (payload : List Byte) : State :=
  let r : Request := { tag := tag, name := name, payload := payload, reply := none }
  if s.nextIs r then s.take own
  else if 240 < payload.length then s.discard .len
  else
    let s := s.accept r
    if s.nextIs r then s.take own else s

/-! ## Frames on TXD (R177, R181) -/

/-- A frame: SYNC, LEN, body and CHECK. -/
def frameBytes (kind : Byte) (tag : BitVec 16) (name rest : List Byte) : List Byte :=
  let body := kind :: le2 tag.toNat ++ name ++ rest
  let covered := byte body.length :: body
  syncByte :: covered ++ le2 (crc16 covered).toNat

/-- The reply frame of a request. -/
def replyFrame (r : Request) (rep : Reply) : List Byte :=
  frameBytes 0x41 r.tag r.name (rep.result.code :: rep.payload)

/-- The notice frame of a record. -/
def noticeFrame (n : Notice) : List Byte := frameBytes 0x4E 0 n.kind.tag n.payload

/-- The oldest reply that is ready: that of the head of the queue. -/
def Link.ready (l : Link) : Option (Request × Reply) :=
  match l.requests with
  | r :: _ => r.reply.map fun rep => (r, rep)
  | [] => none

/-- The oldest ready reply begins where TXD is free (R181). -/
def State.replyStart (s : State) : State :=
  match s.link.tx, s.link.ready with
  | none, some (r, rep) => { s with link := { s.link with tx := some (.reply (replyFrame r rep)) } }
  | _, _ => s

/-- In PUSH mode, with TXD free and no reply ready, the head record leaves the queue and its frame begins
(R171, R181; log 56). -/
def State.noticeStart (s : State) : State :=
  match s.link.tx, s.link.ready, s.router.mode, s.router.notices with
  | none, none, .push, n :: ns =>
    { s.onMedia fun m => { m with router := { m.router with notices := ns } } with
      link := { s.link with tx := some (.notice (noticeFrame n)) } }
  | _, _, _, _ => s

/-- TXD falls free; a reply's request leaves the queue (R180, R181). -/
def Link.frameEnd (l : Link) : Link :=
  match l.tx with
  | some (.reply _) => { l with tx := none, requests := l.requests.drop 1 }.pump
  | some (.notice _) => { l with tx := none }
  | none => l

/-- The rate that an accepted LRAT in transmission asks for, if it differs from the rate in force at the end of
that reply (R182; log 57). -/
def Link.rateAsked (l : Link) : Option Nat :=
  match l.tx, l.ready with
  | some (.reply _), some (r, rep) =>
    if r.name = ascii4 'L' 'R' 'A' 'T' ∧ rep.result = .ok ∧ leNat r.payload ≠ l.rate then
      some (leNat r.payload)
    else none
  | _, _ => none

/-- Whether the frame in transmission is the reply of an RSTR. -/
def Link.restarting (l : Link) : Bool :=
  match l.tx, l.requests with
  | some (.reply _), r :: _ => r.isRestart
  | _, _ => false

/-- The new rate on both lines; a frame being received is abandoned, uncounted (R182). -/
def Link.switch (l : Link) (rate : Nat) : Link := { l with rate := rate, assembler := .hunting, gap := 0 }

/-! ## Requests of the port -/

/-- IDNT (R183). -/
def ownIdnt (payload : List Byte) : Reply :=
  match payload with
  | [] =>
    .ok (le2 0x2A17 ++ le2 0x0048 ++ [1, 48, 64, 8, 8, 32, 127, 4] ++ le2 384 ++ [56, 64, 4])
  | _ => .refuse .length

/-- STAT (R184). -/
def ownStat (payload : List Byte) (s : State) : Reply :=
  match payload with
  | [] =>
    .ok ([s.store.state.code] ++ s.pool.countBytes ++
      [byte s.router.notices.length, flagByte s.router.overflow, s.router.mode.code] ++ le4 s.link.rate ++
      (s.link.counters.toList.map fun x => le2 x.toNat).flatten ++
      [flagByte s.link.latch, byte s.link.requests.length])
  | _ => .refuse .length

/-- The six link rates (R176). -/
def linkRates : List Nat := [115200, 230400, 460800, 921600, 1500000, 3000000]

/-- LRAT: the rate itself changes at the end of the reply (R182). -/
def ownLrat (payload : List Byte) : Reply :=
  match payload with
  | [_, _, _, _] => if linkRates.contains (leNat payload) then .ok payload else .refuse .badarg
  | _ => .refuse .length

/-- RSTR: the restart comes at the end of the reply (R185). -/
def ownRstr (payload : List Byte) : Reply :=
  match payload with
  | [] => .ok []
  | _ => .refuse .length

end Sys2Proof.Machine
end

