-- ==== Sys2Proof/Machine/Reset.lean ====
section
/-! DEFINITION. The three kinds of reset (R186, R185, R91, R157, R159), and the ends of the frames that a
rate switch or a restart follows. -/

namespace Sys2Proof.Machine

/-- Power-on or pin reset: every block at its reset values, the store scanning, and what was under way on the
flash cut short (R157, R186). The commands waiting are the outside world's and stay (log 1). -/
def State.hardReset (s : State) (k : ResetKind) : State :=
  { State.reset with
    toUnits := Units.reset k Store.scanStart (s.nonce + 1)
    flash := cutFlash s.store s.nonce s.flash
    pending := s.pending }

/-- Every reference dropped (R91). -/
def Store.dropAllRefs (st : Store) : Store :=
  { st with dir := st.dir.map (Option.map fun c => { c with refs := 0 }) }

/-- The refill queue emptied; a read under way will be handed to no cursor (R159). -/
def Store.dropRefills (st : Store) : Store :=
  { st with
    refills := []
    op :=
      match st.op with
      | .read r _ => .read r true
      | op => op }

/-- A RETIRING clip that begins at a sector and is not yet queued has its sectors queued (R159). -/
def Store.queueRetiring (st : Store) (s : SectorIx) : Store :=
  match st.findClip fun c => c.state = .retiring && c.first = s && look st.sectors s = some .clip with
  | some id => st.queueClip id
  | none => st

/-- The clip being written is dropped, without DROP's refusals (R159). -/
def Store.dropWriting (st : Store) : Store :=
  match st.writing with
  | some id => st.dropClip id
  | none => st

/-- The store at a restart, after the Playback Unit has dropped every reference (R91, R159). -/
def Store.restart (st : Store) : Store :=
  if st.state = .scanning then Store.scanStart
  else
    ((List.finRange 256).foldl Store.queueRetiring st.dropAllRefs.dropWriting.dropRefills).kick

/-- The restart: every block's restart values around the store's, with the link rate kept (R185). -/
def State.restart (s : State) : State :=
  { State.reset with
    toUnits := Units.reset .restart s.store.restart s.nonce
    link := Link.reset s.link.rate
    flash := s.flash
    pending := s.pending }

/-- The end of the frame in transmission, with the rate switch or the restart that follows it (R181, R182,
R185; log 7). -/
def State.frameEnd (s : State) : State :=
  if s.link.restarting then s.restart
  else
    match s.link.rateAsked with
    | some rate => { s with link := s.link.frameEnd.switch rate }
    | none => { s with link := s.link.frameEnd }

end Sys2Proof.Machine
end

