-- ==== Sys2Proof/Machine/Requests.lean ====
section
/-! DEFINITION. The meanings of the 40 requests: each hands the owner of its chapter to the one way a request
is taken (R180; log 4). -/

namespace Sys2Proof.Machine

/-- The outcome of a command. -/
abbrev Outcome := Host.Outcome State Fault Refusal

/-! ## Owners of parts of the state -/

/-- An owner that acts on `Media`, within `Units`. -/
def inMedia (own : Media → Media × Reply) (u : Units) : Units × Reply :=
  let (m, rep) := own u.toMedia
  ({ u with toMedia := m }, rep)

/-- An owner that acts on `Units`. -/
def onUnits (own : List Byte → Units → Units × Reply) (payload : List Byte) (s : State) : State × Reply :=
  let (u, rep) := own payload s.toUnits
  ({ s with toUnits := u }, rep)

/-- An owner that acts on the store. -/
def onStore (own : List Byte → Store → Store × Reply) (payload : List Byte) (s : State) : State × Reply :=
  let (st, rep) := own payload s.store
  (s.onMedia fun m => { m with store := st }, rep)

/-- An owner that acts on the router. -/
def onRouter (own : List Byte → Router → Router × Reply) (payload : List Byte) (s : State) : State × Reply :=
  let (r, rep) := own payload s.router
  (s.onMedia fun m => { m with router := r }, rep)

/-- An owner that changes nothing. -/
def query (own : List Byte → State → Reply) (payload : List Byte) (s : State) : State × Reply :=
  (s, own payload s)

/-- FRMT with the end of a format that has nothing to erase (R156; log 40). -/
def ownFormat (payload : List Byte) (u : Units) : Units × Reply :=
  let (st, rep) := ownFrmt payload u.store
  if rep.result = .ok then (u.onMedia fun m => { m with store := st }.formatDone, rep) else (u, rep)

/-! ## The 40 requests -/

/-- PCFG sets a position's configuration (R14). -/
def execPcfg (tag : BitVec 16) (payload : List Byte) (s : State) : Outcome :=
  .next (s.request ownPcfg (ascii4 'P' 'C' 'F' 'G') tag payload)

/-- PQRY returns a Position Record and clears its deltas (R15). -/
def execPqry (tag : BitVec 16) (payload : List Byte) (s : State) : Outcome :=
  .next (s.request ownPqry (ascii4 'P' 'Q' 'R' 'Y') tag payload)

/-- PMUT sets or clears the host mute flag (R17). -/
def execPmut (tag : BitVec 16) (payload : List Byte) (s : State) : Outcome :=
  .next (s.request ownPmut (ascii4 'P' 'M' 'U' 'T') tag payload)

/-- PLPB moves a position into LOOPBACK or out of it (R18, R19). -/
def execPlpb (tag : BitVec 16) (payload : List Byte) (s : State) : Outcome :=
  .next (s.request (onUnits ownPlpb) (ascii4 'P' 'L' 'P' 'B') tag payload)

/-- NQRY returns the learned state of a suppressor (R71). -/
def execNqry (tag : BitVec 16) (payload : List Byte) (s : State) : Outcome :=
  .next (s.request (query ownNqry) (ascii4 'N' 'Q' 'R' 'Y') tag payload)

/-- BIND binds a leg to a position (R25). -/
def execBind (tag : BitVec 16) (payload : List Byte) (s : State) : Outcome :=
  .next (s.request (onUnits ownBind) (ascii4 'B' 'I' 'N' 'D') tag payload)

/-- PARK places a leg in a hold group (R22–R24). -/
def execPark (tag : BitVec 16) (payload : List Byte) (s : State) : Outcome :=
  .next (s.request (onUnits ownPark) (ascii4 'P' 'A' 'R' 'K') tag payload)

/-- RELS releases a leg (R33). -/
def execRels (tag : BitVec 16) (payload : List Byte) (s : State) : Outcome :=
  .next (s.request (onUnits ownRels) (ascii4 'R' 'E' 'L' 'S') tag payload)

/-- LQRY returns a Leg Record and its canceller (R41). -/
def execLqry (tag : BitVec 16) (payload : List Byte) (s : State) : Outcome :=
  .next (s.request (query fun pl s => ownLqry pl s.toUnits) (ascii4 'L' 'Q' 'R' 'Y') tag payload)

/-- ECHO sets echo mode, tail and the reset option (R54). -/
def execEcho (tag : BitVec 16) (payload : List Byte) (s : State) : Outcome :=
  .next (s.request (onUnits ownEcho) (ascii4 'E' 'C' 'H' 'O') tag payload)

/-- SPRS sets the reserve (R85). -/
def execSprs (tag : BitVec 16) (payload : List Byte) (s : State) : Outcome :=
  .next (s.request (onUnits fun pl u => inMedia (ownSprs u.legs pl) u) (ascii4 'S' 'P' 'R' 'S') tag payload)

/-- SPQY reads the pool (R86). -/
def execSpqy (tag : BitVec 16) (payload : List Byte) (s : State) : Outcome :=
  .next (s.request (query fun pl s => ownSpqy pl s.pool) (ascii4 'S' 'P' 'Q' 'Y') tag payload)

/-- CDEF replaces a cue list (R88). -/
def execCdef (tag : BitVec 16) (payload : List Byte) (s : State) : Outcome :=
  .next (s.request (onUnits ownCdef) (ascii4 'C' 'D' 'E' 'F') tag payload)

/-- CQRY reads a cue list or a cursor (R89). -/
def execCqry (tag : BitVec 16) (payload : List Byte) (s : State) : Outcome :=
  .next (s.request (query fun pl s => ownCqry pl s.toMedia) (ascii4 'C' 'Q' 'R' 'Y') tag payload)

/-- GSRC sets a hold group's source, resume flag and alarm time (R109). -/
def execGsrc (tag : BitVec 16) (payload : List Byte) (s : State) : Outcome :=
  .next (s.request (onUnits ownGsrc) (ascii4 'G' 'S' 'R' 'C') tag payload)

/-- GQRY reads a hold group (R112). -/
def execGqry (tag : BitVec 16) (payload : List Byte) (s : State) : Outcome :=
  .next (s.request (query fun pl s => ownGqry pl s.toUnits) (ascii4 'G' 'Q' 'R' 'Y') tag payload)

/-- WPST posts a whisper entry (R120). -/
def execWpst (tag : BitVec 16) (payload : List Byte) (s : State) : Outcome :=
  .next (s.request (onUnits ownWpst) (ascii4 'W' 'P' 'S' 'T') tag payload)

/-- WFLS removes whisper entries (R123). -/
def execWfls (tag : BitVec 16) (payload : List Byte) (s : State) : Outcome :=
  .next (s.request (onUnits ownWfls) (ascii4 'W' 'F' 'L' 'S') tag payload)

/-- CATT makes a coach pair (R127). -/
def execCatt (tag : BitVec 16) (payload : List Byte) (s : State) : Outcome :=
  .next (s.request (onUnits ownCatt) (ascii4 'C' 'A' 'T' 'T') tag payload)

/-- CDET ends a coach pair (R130). -/
def execCdet (tag : BitVec 16) (payload : List Byte) (s : State) : Outcome :=
  .next (s.request (onUnits ownCdet) (ascii4 'C' 'D' 'E' 'T') tag payload)

/-- ANNC starts an announcement (R132). -/
def execAnnc (tag : BitVec 16) (payload : List Byte) (s : State) : Outcome :=
  .next (s.request ownAnnc (ascii4 'A' 'N' 'N' 'C') tag payload)

/-- ACAN cancels an announcement (R134). -/
def execAcan (tag : BitVec 16) (payload : List Byte) (s : State) : Outcome :=
  .next (s.request ownAcan (ascii4 'A' 'C' 'A' 'N') tag payload)

/-- OPEN claims sectors for a new clip (R140). -/
def execOpenClip (tag : BitVec 16) (payload : List Byte) (s : State) : Outcome :=
  .next (s.request (onStore ownOpen) (ascii4 'O' 'P' 'E' 'N') tag payload)

/-- DATA carries a clip's sample bytes (R141). -/
def execData (tag : BitVec 16) (payload : List Byte) (s : State) : Outcome :=
  .next (s.request (onStore ownData) (ascii4 'D' 'A' 'T' 'A') tag payload)

/-- FINI seals the clip being written (R143). -/
def execFini (tag : BitVec 16) (payload : List Byte) (s : State) : Outcome :=
  .next (s.request (onStore ownFini) (ascii4 'F' 'I' 'N' 'I') tag payload)

/-- DROP abandons the clip being written (R144). -/
def execDrop (tag : BitVec 16) (payload : List Byte) (s : State) : Outcome :=
  .next (s.request (onStore ownDrop) (ascii4 'D' 'R' 'O' 'P') tag payload)

/-- RTIR retires a clip (R152). -/
def execRtir (tag : BitVec 16) (payload : List Byte) (s : State) : Outcome :=
  .next (s.request (onStore ownRtir) (ascii4 'R' 'T' 'I' 'R') tag payload)

/-- RSTO restores a retiring clip (R154). -/
def execRsto (tag : BitVec 16) (payload : List Byte) (s : State) : Outcome :=
  .next (s.request (onStore ownRsto) (ascii4 'R' 'S' 'T' 'O') tag payload)

/-- PROT protects a clip (R155). -/
def execProt (tag : BitVec 16) (payload : List Byte) (s : State) : Outcome :=
  .next (s.request (onStore ownProt) (ascii4 'P' 'R' 'O' 'T') tag payload)

/-- LIST reads the clip directory (R160). -/
def execListClips (tag : BitVec 16) (payload : List Byte) (s : State) : Outcome :=
  .next (s.request (onStore ownList) (ascii4 'L' 'I' 'S' 'T') tag payload)

/-- STOR reads the store (R161). -/
def execStor (tag : BitVec 16) (payload : List Byte) (s : State) : Outcome :=
  .next (s.request (onStore ownStor) (ascii4 'S' 'T' 'O' 'R') tag payload)

/-- FRMT formats the store (R156). -/
def execFrmt (tag : BitVec 16) (payload : List Byte) (s : State) : Outcome :=
  .next (s.request (onUnits ownFormat) (ascii4 'F' 'R' 'M' 'T') tag payload)

/-- ROUT reads or sets a route (R174). -/
def execRout (tag : BitVec 16) (payload : List Byte) (s : State) : Outcome :=
  .next (s.request (onRouter ownRout) (ascii4 'R' 'O' 'U' 'T') tag payload)

/-- NMOD sets the delivery mode (R172). -/
def execNmod (tag : BitVec 16) (payload : List Byte) (s : State) : Outcome :=
  .next (s.request (onRouter ownNmod) (ascii4 'N' 'M' 'O' 'D') tag payload)

/-- NFET fetches notice records (R170). -/
def execNfet (tag : BitVec 16) (payload : List Byte) (s : State) : Outcome :=
  .next (s.request (onRouter ownNfet) (ascii4 'N' 'F' 'E' 'T') tag payload)

/-- NCLR empties the notice queue (R173). -/
def execNclr (tag : BitVec 16) (payload : List Byte) (s : State) : Outcome :=
  .next (s.request (onRouter ownNclr) (ascii4 'N' 'C' 'L' 'R') tag payload)

/-- IDNT returns the identity of the part (R183). -/
def execIdnt (tag : BitVec 16) (payload : List Byte) (s : State) : Outcome :=
  .next (s.request (query fun pl _ => ownIdnt pl) (ascii4 'I' 'D' 'N' 'T') tag payload)

/-- STAT returns the part's status (R184). -/
def execStat (tag : BitVec 16) (payload : List Byte) (s : State) : Outcome :=
  .next (s.request (query ownStat) (ascii4 'S' 'T' 'A' 'T') tag payload)

/-- LRAT asks for a new link rate (R182). -/
def execLrat (tag : BitVec 16) (payload : List Byte) (s : State) : Outcome :=
  .next (s.request (query fun pl _ => ownLrat pl) (ascii4 'L' 'R' 'A' 'T') tag payload)

/-- RSTR asks for a restart (R185). -/
def execRstr (tag : BitVec 16) (payload : List Byte) (s : State) : Outcome :=
  .next (s.request (query fun pl _ => ownRstr pl) (ascii4 'R' 'S' 'T' 'R') tag payload)

end Sys2Proof.Machine
end

