-- ==== Sys2Proof/Machine/Events.lean ====
section
/-! DEFINITION. The meanings of the commands that are not requests: resets, bytes and frames on the link,
headset status, the highway frame, the ends of counters, and the reports of the flash. A command whose event
the state does not hold leaves it unchanged (log 3). -/

namespace Sys2Proof.Machine

/-- The state after a command's own effects, once the routed postings they bring about are made (R165;
log 20). -/
def State.settled (s : State) : State := s.onUnits Units.settle

/-! ## Resets and the link -/

/-- POWER_ON (R186). -/
def execPowerOn (s : State) : Outcome := .next (s.hardReset .powerOn)

/-- PIN_RESET (R186). -/
def execPinReset (s : State) : Outcome := .next (s.hardReset .pinReset)

/-- RESTART, at the end of the RSTR reply in transmission (R185; log 7). -/
def execRestart (s : State) : Outcome := .next (if s.link.restarting then s.restart else s)

/-- LINK_RATE_SWITCH, at the end of an LRAT reply in transmission that asks for another rate (R182; log 7). -/
def execLinkRateSwitch (s : State) : Outcome :=
  .next (if s.link.rateAsked.isSome then s.frameEnd else s)

/-- RECEIVE_BYTE (R178). -/
def execReceiveByte (b : Byte) (stop : Bool) (s : State) : Outcome := .next (s.receive b stop)

/-- LINE_BREAK (R178). -/
def execLineBreak (s : State) : Outcome := .next s.lineBreak

/-- GAP_TIMEOUT (R178). -/
def execGapTimeout (s : State) : Outcome := .next s.gapTimeout

/-- REPLY_FRAME_START (R181). -/
def execReplyFrameStart (s : State) : Outcome := .next s.replyStart

/-- NOTICE_FRAME_START (R171, R181). -/
def execNoticeFrameStart (s : State) : Outcome := .next s.noticeStart

/-- FRAME_TRANSMIT_END (R181). -/
def execFrameTransmitEnd (s : State) : Outcome := .next s.frameEnd

/-! ## Headset status -/

/-- STATUS_SUBFRAME (R4, R5, R6). -/
def execStatusSubframe (p : PosIx) (present key valid : Bool) (s : State) : Outcome :=
  .next (s.subframe p present key valid).settled

/-- LINK_TIMER_EXPIRY (R4). -/
def execLinkTimerExpiry (p : PosIx) (s : State) : Outcome := .next (s.linkLost p).settled

/-! ## Audio -/

/-- HIGHWAY_FRAME (R11, R37, R44, R60, R96). -/
def execHighwayFrame (mic trunk : List Sample) (s : State) : Outcome := .next (s.frame mic trunk)

/-- ECHO_WINDOW_END (R52, R53). -/
def execEchoWindowEnd (n : LegIx) (s : State) : Outcome :=
  .next (if (look s.can n).windowDue then (s.onUnits fun u => u.windowEnd n).settled else s)

/-- Whether the end of a canceller's window would bring its convergence timer to its limit. -/
def State.convergenceDue (s : State) (n : LegIx) : Bool :=
  (look s.can n).windowDue && decide (convergenceLimit ≤ ((look s.can n).measure s.nonce).timer)

/-- CONVERGENCE_TIMER_EXPIRY (R53): the change of working state, where the timer stands at its limit; or the
window end that brings it there (log 6). -/
def execConvergenceTimerExpiry (n : LegIx) (s : State) : Outcome :=
  .next
    (if convergenceLimit ≤ (look s.can n).timer then (s.onUnits fun u => u.convergenceTurn n).settled
    else if s.convergenceDue n then (s.onUnits fun u => u.windowEnd n).settled
    else s)

/-- ANALYSIS_BLOCK_END (R60). -/
def execAnalysisBlockEnd (p : PosIx) (s : State) : Outcome :=
  .next (if s.blockDue p then (s.blockEnd p).settled else s)

/-- HANGOVER_EXPIRY (R61): the end of a block that clears the speech flag by the hangover count, or the
clearing alone where the count stands at its limit (log 6). -/
def execHangoverExpiry (p : PosIx) (s : State) : Outcome :=
  let c := look s.sup p
  .next
    (if hangoverLimit ≤ c.hangover then
      s.onSup p fun c => { c with speech := false, hangover := 0 }
    else if s.blockDue p ∧ learnedEnough ≤ c.learned ∧ c.speech ∧
        (c.decideSpeech (c.gather.take blockFrames)).speech = false then (s.blockEnd p).settled
    else s)

/-- The alarm the end of a position's block would change to. -/
def State.alarmDue (s : State) (p : PosIx) : Option Alarm :=
  if s.blockDue p then (look s.sup p).judge.alarmReached else none

/-- An alarm timer at its limit: the change alone where the timer stands there, or the end of the block that
brings it there (log 6). -/
def State.alarmExpiry (s : State) (p : PosIx) (a : Alarm) : State :=
  if (look s.sup p).alarmReached = some a then (s.alarmTurn p a).settled
  else if s.alarmDue p = some a then (s.blockEnd p).settled
  else s

/-- HIGH_TIMER_EXPIRY (R68). -/
def execHighTimerExpiry (p : PosIx) (s : State) : Outcome := .next (s.alarmExpiry p .high)

/-- LOW_TIMER_EXPIRY (R69). -/
def execLowTimerExpiry (p : PosIx) (s : State) : Outcome := .next (s.alarmExpiry p .normal)

/-! ## Timers -/

/-- CONNECT_TIMER_EXPIRY (R30). -/
def execConnectTimerExpiry (n : LegIx) (s : State) : Outcome :=
  .next (s.onUnits fun u => u.connectExpiry n).settled

/-- PARK_ALARM_EXPIRY (R35). -/
def execParkAlarmExpiry (n : LegIx) (s : State) : Outcome :=
  .next (s.onUnits fun u => u.parkAlarm n).settled

/-- ANNOUNCEMENT_EXPIRY (R133). -/
def execAnnouncementExpiry (k : SlotIx) (s : State) : Outcome := .next (s.announceExpiry k).settled

/-! ## Playback -/

/-- The end of the item of a PLAYING cursor that has been played to its end (R98). -/
def Units.itemEnd (u : Units) (c : CurIx) : Units :=
  let cur := look u.cursors c
  if cur.state = .playing ∧ cur.atEnd u.store then
    match ownerOf c with
    | .inl g => u.groupItemEnd g
    | .inr p => u.posItemEnd p
  else u

/-- ITEM_END (R98). -/
def execItemEnd (c : CurIx) (s : State) : Outcome := .next (s.onUnits fun u => u.itemEnd c).settled

/-! ## The flash -/

/-- The state with its `Media` and flash replaced, or the fault of an address that does not exist
(log 44). -/
def State.withFlash (s : State) : Option (Media × List Host.Cell) → Outcome
  | none => .fault .flashAddress
  | some (m, flash) => .next { s.onMedia fun _ => m with flash := flash }

/-- REFILL_COMPLETE (R147, R95). -/
def execRefillComplete (s : State) : Outcome :=
  match s.store.op with
  | .read r w => s.withFlash ((readDone s.toMedia s.flash r w).map fun m => (m, s.flash))
  | .none | .program _ => .next s

/-- RESUME_HOLD_EXPIRY (R148): with refills waiting, the suspend is issued. -/
def execResumeHoldExpiry (s : State) : Outcome :=
  .next (if s.store.refills.isEmpty then s else s.onMedia fun m => m.onStore Store.issueSuspend)

/-- ERASE_SUSPEND_EFFECT (R148). -/
def execEraseSuspendEffect (s : State) : Outcome :=
  match s.store.erase with
  | some e =>
    if e.phase = .suspending then
      .next (s.onMedia fun m => (m.onStore fun st =>
        { st with erase := some { e with phase := .suspended, suspends := e.suspends + 1 } }).kick)
    else .next s
  | none => .next s

/-- PAGE_PROGRAM_COMPLETE (R142). -/
def execPageProgramComplete (s : State) : Outcome :=
  match s.store.op with
  | .program p =>
    match p.prog with
    | .header _ => .next s
    | .data _ _ _ | .protect _ _ | .zero _ => s.withFlash (pageProgramDone s.toMedia s.flash p)
  | .none | .read _ _ => .next s

/-- HEADER_PROGRAM_COMPLETE (R143). -/
def execHeaderProgramComplete (s : State) : Outcome :=
  match s.store.op with
  | .program p =>
    match p.prog with
    | .header id => s.withFlash (headerProgramDone s.toMedia s.flash p id)
    | .data _ _ _ | .protect _ _ | .zero _ => .next s
  | .none | .read _ _ => .next s

/-- The limits of a page program, 5 ms, and of an erase, 3 s of running time, in frames (R136). -/
def programLimit : Nat := framesOf 5
def eraseLimit : Nat := framesOf 3000

/-- PROGRAM_TIMEOUT (R145, R155, R151). -/
def execProgramTimeout (s : State) : Outcome :=
  match s.store.op with
  | .program p =>
    if programLimit ≤ p.run then s.withFlash (programFailed s.toMedia s.flash p) else .next s
  | .none | .read _ _ => .next s

/-- ERASE_COMPLETE (R150; log 39). -/
def execEraseComplete (s : State) : Outcome :=
  match s.store.erase with
  | some e =>
    if e.phase = .suspended then .next s else s.withFlash (some (eraseDone s.toMedia s.flash e))
  | none => .next s

/-- ERASE_TIMEOUT (R151). -/
def execEraseTimeout (s : State) : Outcome :=
  match s.store.erase with
  | some e =>
    if e.phase ≠ .suspended ∧ eraseLimit ≤ e.run then
      s.withFlash (some (eraseFailed s.toMedia s.flash e))
    else .next s
  | none => .next s

/-- QUIET_WINDOW_EXPIRY (R149). -/
def execQuietWindowExpiry (s : State) : Outcome :=
  .next
    (if s.store.quiet = some 0 then
      s.onMedia fun m => (m.onStore fun st =>
        { st with quiet := none, runOpen := st.runOpen || !st.eraseQueue.isEmpty }).kick
    else s)

/-- FLASH_DEVICE_READY (R157). -/
def execFlashDeviceReady (s : State) : Outcome :=
  .next
    (if s.store.scan = .awaitDevice then
      s.onMedia fun m => m.onStore fun st => { st with scan := .readPage 0 }
    else s)

/-- SCAN_READ_COMPLETE (R157). -/
def execScanReadComplete (s : State) : Outcome :=
  .next
    (match s.store.scan with
    | .readPage k => s.onMedia fun m => m.scanRead s.flash k
    | .none | .awaitDevice | .blankCheck _ => s)

/-- BLANK_CHECK_COMPLETE (R158). -/
def execBlankCheckComplete (s : State) : Outcome :=
  .next
    (match s.store.scan with
    | .blankCheck k => s.onMedia fun m => m.scanBlank s.flash k
    | .none | .awaitDevice | .readPage _ => s)

end Sys2Proof.Machine
end

