-- ==== Sys2Proof/Machine/Dispatch.lean ====
section
/-! DEFINITION. One arm for each command: its meaning. -/

namespace Sys2Proof.Machine

/-- The effect of a command on everything but the queue of commands waiting. -/
def exec (i : Instr) (s : State) : Host.Outcome State Fault Refusal :=
  match i with
  | .powerOn => Sys2Proof.Machine.execPowerOn s
  | .pinReset => Sys2Proof.Machine.execPinReset s
  | .restart => Sys2Proof.Machine.execRestart s
  | .linkRateSwitch => Sys2Proof.Machine.execLinkRateSwitch s
  | .receiveByte b stop => Sys2Proof.Machine.execReceiveByte b stop s
  | .lineBreak => Sys2Proof.Machine.execLineBreak s
  | .gapTimeout => Sys2Proof.Machine.execGapTimeout s
  | .replyFrameStart => Sys2Proof.Machine.execReplyFrameStart s
  | .noticeFrameStart => Sys2Proof.Machine.execNoticeFrameStart s
  | .frameTransmitEnd => Sys2Proof.Machine.execFrameTransmitEnd s
  | .pcfg tag payload => Sys2Proof.Machine.execPcfg tag payload s
  | .pqry tag payload => Sys2Proof.Machine.execPqry tag payload s
  | .pmut tag payload => Sys2Proof.Machine.execPmut tag payload s
  | .plpb tag payload => Sys2Proof.Machine.execPlpb tag payload s
  | .nqry tag payload => Sys2Proof.Machine.execNqry tag payload s
  | .bind tag payload => Sys2Proof.Machine.execBind tag payload s
  | .park tag payload => Sys2Proof.Machine.execPark tag payload s
  | .rels tag payload => Sys2Proof.Machine.execRels tag payload s
  | .lqry tag payload => Sys2Proof.Machine.execLqry tag payload s
  | .echo tag payload => Sys2Proof.Machine.execEcho tag payload s
  | .sprs tag payload => Sys2Proof.Machine.execSprs tag payload s
  | .spqy tag payload => Sys2Proof.Machine.execSpqy tag payload s
  | .cdef tag payload => Sys2Proof.Machine.execCdef tag payload s
  | .cqry tag payload => Sys2Proof.Machine.execCqry tag payload s
  | .gsrc tag payload => Sys2Proof.Machine.execGsrc tag payload s
  | .gqry tag payload => Sys2Proof.Machine.execGqry tag payload s
  | .wpst tag payload => Sys2Proof.Machine.execWpst tag payload s
  | .wfls tag payload => Sys2Proof.Machine.execWfls tag payload s
  | .catt tag payload => Sys2Proof.Machine.execCatt tag payload s
  | .cdet tag payload => Sys2Proof.Machine.execCdet tag payload s
  | .annc tag payload => Sys2Proof.Machine.execAnnc tag payload s
  | .acan tag payload => Sys2Proof.Machine.execAcan tag payload s
  | .openClip tag payload => Sys2Proof.Machine.execOpenClip tag payload s
  | .data tag payload => Sys2Proof.Machine.execData tag payload s
  | .fini tag payload => Sys2Proof.Machine.execFini tag payload s
  | .drop tag payload => Sys2Proof.Machine.execDrop tag payload s
  | .rtir tag payload => Sys2Proof.Machine.execRtir tag payload s
  | .rsto tag payload => Sys2Proof.Machine.execRsto tag payload s
  | .prot tag payload => Sys2Proof.Machine.execProt tag payload s
  | .listClips tag payload => Sys2Proof.Machine.execListClips tag payload s
  | .stor tag payload => Sys2Proof.Machine.execStor tag payload s
  | .frmt tag payload => Sys2Proof.Machine.execFrmt tag payload s
  | .rout tag payload => Sys2Proof.Machine.execRout tag payload s
  | .nmod tag payload => Sys2Proof.Machine.execNmod tag payload s
  | .nfet tag payload => Sys2Proof.Machine.execNfet tag payload s
  | .nclr tag payload => Sys2Proof.Machine.execNclr tag payload s
  | .idnt tag payload => Sys2Proof.Machine.execIdnt tag payload s
  | .stat tag payload => Sys2Proof.Machine.execStat tag payload s
  | .lrat tag payload => Sys2Proof.Machine.execLrat tag payload s
  | .rstr tag payload => Sys2Proof.Machine.execRstr tag payload s
  | .statusSubframe p present key valid => Sys2Proof.Machine.execStatusSubframe p present key valid s
  | .linkTimerExpiry p => Sys2Proof.Machine.execLinkTimerExpiry p s
  | .highwayFrame mic trunk => Sys2Proof.Machine.execHighwayFrame mic trunk s
  | .echoWindowEnd n => Sys2Proof.Machine.execEchoWindowEnd n s
  | .convergenceTimerExpiry n => Sys2Proof.Machine.execConvergenceTimerExpiry n s
  | .analysisBlockEnd p => Sys2Proof.Machine.execAnalysisBlockEnd p s
  | .hangoverExpiry p => Sys2Proof.Machine.execHangoverExpiry p s
  | .highTimerExpiry p => Sys2Proof.Machine.execHighTimerExpiry p s
  | .lowTimerExpiry p => Sys2Proof.Machine.execLowTimerExpiry p s
  | .connectTimerExpiry n => Sys2Proof.Machine.execConnectTimerExpiry n s
  | .parkAlarmExpiry n => Sys2Proof.Machine.execParkAlarmExpiry n s
  | .announcementExpiry k => Sys2Proof.Machine.execAnnouncementExpiry k s
  | .itemEnd c => Sys2Proof.Machine.execItemEnd c s
  | .refillComplete => Sys2Proof.Machine.execRefillComplete s
  | .resumeHoldExpiry => Sys2Proof.Machine.execResumeHoldExpiry s
  | .eraseSuspendEffect => Sys2Proof.Machine.execEraseSuspendEffect s
  | .pageProgramComplete => Sys2Proof.Machine.execPageProgramComplete s
  | .headerProgramComplete => Sys2Proof.Machine.execHeaderProgramComplete s
  | .programTimeout => Sys2Proof.Machine.execProgramTimeout s
  | .eraseComplete => Sys2Proof.Machine.execEraseComplete s
  | .eraseTimeout => Sys2Proof.Machine.execEraseTimeout s
  | .quietWindowExpiry => Sys2Proof.Machine.execQuietWindowExpiry s
  | .flashDeviceReady => Sys2Proof.Machine.execFlashDeviceReady s
  | .scanReadComplete => Sys2Proof.Machine.execScanReadComplete s
  | .blankCheckComplete => Sys2Proof.Machine.execBlankCheckComplete s

end Sys2Proof.Machine
end

