-- ==== Sys2Proof/Safety.lean ====
section
/-! DEFINITION. The words that claims about the part are made in: when a request command is taken at once and
what it leaves on the link, what a source of audio gives in a frame, where a prompt or a cursor comes to stand,
what a discard leaves, and the invariants of a sound state. -/

namespace Sys2Proof.Machine

/-! ## Requests -/

/-- The request a command stands for, if it is one of the 40 (Table 12-3). -/
def requestOf (c : Instr) : Option Request :=
  let r (name : List Byte) (tag : BitVec 16) (payload : List Byte) : Option Request :=
    some { tag := tag, name := name, payload := payload, reply := none }
  match c with
  | .pcfg t p => r (ascii4 'P' 'C' 'F' 'G') t p
  | .pqry t p => r (ascii4 'P' 'Q' 'R' 'Y') t p
  | .pmut t p => r (ascii4 'P' 'M' 'U' 'T') t p
  | .plpb t p => r (ascii4 'P' 'L' 'P' 'B') t p
  | .nqry t p => r (ascii4 'N' 'Q' 'R' 'Y') t p
  | .bind t p => r (ascii4 'B' 'I' 'N' 'D') t p
  | .park t p => r (ascii4 'P' 'A' 'R' 'K') t p
  | .rels t p => r (ascii4 'R' 'E' 'L' 'S') t p
  | .lqry t p => r (ascii4 'L' 'Q' 'R' 'Y') t p
  | .echo t p => r (ascii4 'E' 'C' 'H' 'O') t p
  | .sprs t p => r (ascii4 'S' 'P' 'R' 'S') t p
  | .spqy t p => r (ascii4 'S' 'P' 'Q' 'Y') t p
  | .cdef t p => r (ascii4 'C' 'D' 'E' 'F') t p
  | .cqry t p => r (ascii4 'C' 'Q' 'R' 'Y') t p
  | .gsrc t p => r (ascii4 'G' 'S' 'R' 'C') t p
  | .gqry t p => r (ascii4 'G' 'Q' 'R' 'Y') t p
  | .wpst t p => r (ascii4 'W' 'P' 'S' 'T') t p
  | .wfls t p => r (ascii4 'W' 'F' 'L' 'S') t p
  | .catt t p => r (ascii4 'C' 'A' 'T' 'T') t p
  | .cdet t p => r (ascii4 'C' 'D' 'E' 'T') t p
  | .annc t p => r (ascii4 'A' 'N' 'N' 'C') t p
  | .acan t p => r (ascii4 'A' 'C' 'A' 'N') t p
  | .openClip t p => r (ascii4 'O' 'P' 'E' 'N') t p
  | .data t p => r (ascii4 'D' 'A' 'T' 'A') t p
  | .fini t p => r (ascii4 'F' 'I' 'N' 'I') t p
  | .drop t p => r (ascii4 'D' 'R' 'O' 'P') t p
  | .rtir t p => r (ascii4 'R' 'T' 'I' 'R') t p
  | .rsto t p => r (ascii4 'R' 'S' 'T' 'O') t p
  | .prot t p => r (ascii4 'P' 'R' 'O' 'T') t p
  | .listClips t p => r (ascii4 'L' 'I' 'S' 'T') t p
  | .stor t p => r (ascii4 'S' 'T' 'O' 'R') t p
  | .frmt t p => r (ascii4 'F' 'R' 'M' 'T') t p
  | .rout t p => r (ascii4 'R' 'O' 'U' 'T') t p
  | .nmod t p => r (ascii4 'N' 'M' 'O' 'D') t p
  | .nfet t p => r (ascii4 'N' 'F' 'E' 'T') t p
  | .nclr t p => r (ascii4 'N' 'C' 'L' 'R') t p
  | .idnt t p => r (ascii4 'I' 'D' 'N' 'T') t p
  | .stat t p => r (ascii4 'S' 'T' 'A' 'T') t p
  | .lrat t p => r (ascii4 'L' 'R' 'A' 'T') t p
  | .rstr t p => r (ascii4 'R' 'S' 'T' 'R') t p
  | _ => none

/-- Whether the link takes one more request at once: every request in the queue has its reply, none of them
is a restart, and a place is free (R180). -/
def Link.takes (l : Link) : Prop :=
  (∀ r ∈ l.requests, r.reply.isSome = true) ∧ l.restartDue = false ∧ l.requests.length < requestLimit

/-- Whether a request command is taken at once, with no routed posting left over (log 4, log 20). -/
def State.takes (s : State) : Prop := s.link.takes ∧ s.postings = []

/-- The link after one request has been accepted, taken and answered: it stands in the queue with its reply
ready, and the fault latch is clear (R179, R180). -/
def Link.answered (l : Link) (tag : BitVec 16) (name payload : List Byte) (rep : Reply) : Link :=
  { l with
    requests := l.requests ++ [{ tag := tag, name := name, payload := payload, reply := some rep }]
    latch := false }

/-- The state with a request's OK or other reply ready, and nothing else changed. -/
def State.replied (s : State) (tag : BitVec 16) (name payload : List Byte) (rep : Reply) : State :=
  { s with link := s.link.answered tag name payload rep }

/-- Whether no kind carries a cue route, as after a reset (R163): no event posts a prompt. -/
def State.noCueRoutes (s : State) : Prop := ∀ k : Fin 24, (look s.router.routes k).cue = none

/-- Whether the one cue route of the table is that of a kind, a cue list at a level. -/
def State.onlyRoute (s : State) (k : EventKind) (q : CueIx) (level : Level) : Prop :=
  (look s.router.routes k.index).cue = some (q, level) ∧
    ∀ j : Fin 24, j ≠ k.index → (look s.router.routes j).cue = none

/-! ## Audio -/

/-- The sample a cursor gives in one frame: silence unless it is PLAYING inside an item, the next sample of
the PLAYING segment under the item's gain, or the tone at its phase (R96). -/
def State.sampleOf (s : State) (c : CurIx) : Sample :=
  let cur := look s.cursors c
  if cur.state ≠ .playing then 0
  else
    match cur.item with
    | some (.clip id gain) =>
      if s.store.samplesOf id ≤ cur.place then 0
      else
        (cur.ring.bind fun r => (playingSeg r).bind fun b => (look r b).data.head?).elim 0 fun x =>
          limit16 (gainDb gain x.toInt)
    | some (.tone _ _) => if cur.place = 0 then 0 else toneAt cur.phase
    | some (.silence _) | none => 0

/-- The suppressed microphone of a position, silence while it is ABSENT (R60). -/
def State.micOf (s : State) (p : PosIx) : Int :=
  if (look s.pos p).present then ((look s.sup p).deliver.headD 0).toInt else 0

/-- The microphone as others hear it: silence while effective mute is set (R11, R13, R39). -/
def State.openMicOf (s : State) (p : PosIx) : Int :=
  if (look s.pos p).present ∧ ((look s.pos p).keyHeld ∨ (look s.pos p).hostMute) then 0 else s.micOf p

/-- The comfort noise of a position: its sequence at the level and with the bands that its generator took when
its block of 64 frames began, flat at −70 dBFS below 500 ms of learned time and otherwise the profile at
the floor, kept within −90 to −30 dBFS (R66, R67). -/
def State.noiseOf (s : State) (p : PosIx) : Int :=
  let c := look s.sup p
  let total := max (-90) (min (-30) c.floor)
  c.generator.elim 0 fun g =>
    (limit16
      (if g.ran % 64 ≠ 0 then Config.noiseSample g.seq g.ran g.total g.bands
      else if c.learned < 500 then Config.noiseSample g.seq g.ran (-70) none
      else
        Config.noiseSample g.seq g.ran total
          (some (c.bands.map fun b => b + 10 * (total - c.floor))))).toInt

/-! ## Prompts -/

/-- Whether an item's fields lie in the ranges of Table 6-1. -/
def Item.inRange : Item → Prop
  | .clip id gain => id ≠ 0 ∧ -24 ≤ gain ∧ gain ≤ 6
  | .silence ms => 10 ≤ ms ∧ ms ≤ 60000
  | .tone _ ms => 10 ≤ ms ∧ ms ≤ 60000

/-- Service order: an URGENT entry behind the URGENT entries at the head, a ROUTINE one at the tail (R115). -/
def serviceOrder (q : List Entry) (e : Entry) : List Entry :=
  if e.level = .urgent then
    q.takeWhile (fun x => x.level = .urgent) ++ e :: q.dropWhile (fun x => x.level = .urgent)
  else q ++ [e]

/-- Whether an announcement with a mask reaches a position: present, and in a group of the mask (R133). -/
def State.reached (s : State) (mask : BitVec 8) (p : PosIx) : Prop :=
  (look s.pos p).state ≠ .absent ∧ (look s.pos p).floors &&& mask ≠ 0

/-- How many positions take an entry of an announcement: those it reaches that are not in LOOPBACK and whose
queue is not full, or none for an empty list (R121, R133). -/
def State.takers (s : State) (mask : BitVec 8) (q : CueIx) : Nat :=
  (List.finRange 48).countP fun p =>
    decide ((look s.pos p).state ≠ .absent ∧ (look s.pos p).floors &&& mask ≠ 0 ∧
      (look s.pos p).state ≠ .loopback ∧ (look s.cues q).items ≠ [] ∧ (look s.whisper p).queue.length < 8)

/-- Whether no item list begins with a CLIP item, so that a cursor can start on it at once. -/
def noClipFirst (items : List Item) : Prop := ∀ id gain rest, items ≠ .clip id gain :: rest

/-- Whether a clip stands in the directory in state VALID (R93). -/
def Store.valid (st : Store) (id : ClipIx) : Prop := ∃ k, st.clip id = some k ∧ k.state = .valid

/-- Whether a cursor can enter item 0 of a list: SILENCE, TONE, or a clip that is VALID (R93). -/
def State.canEnter (s : State) (items : List Item) : Prop :=
  noClipFirst items ∨ ∃ id gain rest, items = .clip id gain :: rest ∧ s.store.valid id

/-- Whether an entry of a level, placed behind what waits, leaves the playing entry in its place: the coach, an
URGENT prompt, nesting off, or a queue of ROUTINE entries alone (R116). -/
def Whisper.keepsPlaying (w : Whisper) (nesting : Bool) (level : Level) : Prop :=
  w.playing = .coach ∨
    ∃ f, w.playing = .prompt f ∧
      (f.level = .urgent ∨ nesting = false ∨ (level = .routine ∧ ∀ h ∈ w.queue, h.level = .routine))

/-- What a routed posting does to a state (R121): WHISPER_DROPPED with reason STATE, EMPTY or FULL and origin
ROUTE, a place in the queue, or the playing place. -/
def State.routedTo (s t : State) (p : PosIx) (q : CueIx) (level : Level) : Prop :=
  let w := look s.whisper p
  let e : Entry :=
    { cue := q, level := level, origin := .route, resume := .restart, connect := false, saved := none,
      holdsCursor := false }
  let away := (look s.pos p).state = .absent ∨ (look s.pos p).state = .loopback
  let dropped (reason : Byte) : State :=
    { s with
      router := s.router.record .whisperDropped (.position p) (detail2 (byte q) (1 + 16 * reason)) }
  (away → t = dropped 0) ∧
    (¬away → (look s.cues q).items = [] → t = dropped 1) ∧
    (¬away → (look s.cues q).items ≠ [] →
      (8 ≤ w.queue.length → t = dropped 2) ∧
      (w.queue.length < 8 → w.keepsPlaying (look s.pos p).nesting level →
        t = { s with whisper := put s.whisper p { w with queue := serviceOrder w.queue e } }) ∧
      (w.playing = .none → w.queue = [] → s.canEnter (look s.cues q).items →
        look t.whisper p = { w with playing := .prompt e }))

/-- Where a place in a list leads: none, or one beyond the last item, to item 0 at its start, one at or beyond
the end of its item to the start of the next (R92). -/
def State.resolvesTo (s : State) (items : List Item) (place : Option Place) (i elapsed : Nat) : Prop :=
  match place with
  | none => i = 0 ∧ elapsed = 0
  | some x =>
    (items.length ≤ x.index → i = 0 ∧ elapsed = 0) ∧
      ∀ it, items[x.index]? = some it →
        (it.endsBy s.store x.elapsed = true → i = x.index + 1 ∧ elapsed = 0) ∧
        (it.endsBy s.store x.elapsed = false → i = x.index ∧ elapsed = x.elapsed)

/-- Whether a cursor has been started on a list inside an item: it has the list's snapshot, it plays the rest
of a SILENCE or TONE item or waits for its ring, and in a CLIP item it is STARTING and holds a reference
(R92, R93, R105). -/
def State.startedAt (t : State) (c : CurIx) (q : CueIx) (i elapsed : Nat) : Prop :=
  let cur := look t.cursors c
  cur.snapshot = some { cue := q, items := (look t.cues q).items, duck := (look t.cues q).duck } ∧
    cur.index = i ∧ (cur.state = .starting ∨ cur.state = .playing) ∧
    (cur.ring = none → cur.state = .starting ∧ t.pool.waits (.cursor c) = true) ∧
    (∀ id gain, (look t.cues q).items[i]? = some (.clip id gain) →
      cur.state = .starting ∧ cur.place = elapsed ∧ cur.clip = some id) ∧
    ∀ ms, (look t.cues q).items[i]? = some (.silence ms) ∨
        (∃ k, (look t.cues q).items[i]? = some (.tone k ms)) →
      cur.place = 8 * ms - elapsed ∧ (cur.state = .playing ∨ t.pool.waits (.cursor c) = true)

/-- Whether the place a cursor was started at, before any skip, is an item index and an elapsed time
(R92 step 2, R106). -/
def State.startPlaceIs (t : State) (c : CurIx) (i elapsed : Nat) : Prop :=
  (look t.cursors c).begun.index = i ∧ (look t.cursors c).begun.elapsed = elapsed

/-- What the issue of a refill leaves of a cursor that plays, or is to play, a clip, and of its ring (R94): with
none outstanding, a segment EMPTY and samples not yet asked for, that segment, 0 before 1, is FILLING from the
requested offset on, and the refill of 256 samples or the fewer left stands in the queue; otherwise nothing
is asked for. -/
def State.asksFor (t : State) (c : CurIx) (cur : Cursor) (ring : Vector RingSeg 2) (id : ClipIx) : Prop :=
  let new := look t.cursors c
  let samples := (t.store.clip id).elim 0 Clip.samples
  let count := min 256 (samples - cur.requested)
  let due (e : Fin 2) : Prop := cur.refill = none ∧ cur.requested < samples ∧ (look ring e).state = .empty ∧
    (e = 1 → (look ring 0).state ≠ .empty)
  (∀ e, due e →
    new.ring =
      some (put ring e { look ring e with state := .filling, first := cur.requested, data := [] }) ∧
    new.requested = cur.requested + count ∧ new.refill = some e ∧
    { cursor := c, clip := id, seg := e, first := cur.requested, count := count } ∈ t.store.refills) ∧
  ((∀ e, ¬due e) →
    new.ring = some ring ∧ new.requested = cur.requested ∧ new.refill = cur.refill)

/-- What leaving a CLIP item leaves in the store: the reference is dropped, and with the last one of a RETIRING
clip its sectors are queued (R93, R98, R153). -/
def State.referenceDropped (s t : State) (id : ClipIx) (k : Clip) : Prop :=
  (k.state ≠ .retiring ∨ k.refs ≠ 1 →
    t.store = { s.store with dir := put s.store.dir id (some { k with refs := k.refs - 1 }) }) ∧
  (k.state = .retiring → k.refs = 1 →
    t.store.clip id = some { k with refs := 0, eraseLeft := k.sectors, goneBad := 0 } ∧
    t.store.eraseQueue = s.store.eraseQueue ++ k.run ∧
    ∀ j ∈ k.run, look t.store.sectors j = some .queued)

/-! ## Coaching -/

/-- What the unbind of an agent that keeps its headset leaves of its active pair (R129): both sides pending,
the supervisor's state as it was, and the coach gone from the agent's playing place, where the prompt that
the coach paused plays on if it is all there is. -/
def State.pairSuspended (s t : State) (p : PosIx) : Prop :=
  ∀ (x : Pair) (w : Whisper), s.pairs.find? (fun x => x.agent = p) = some x → x.active = true →
    w = look s.whisper p →
    t.pairs = s.pairs.map (fun y => if y = x then { x with active := false } else y) ∧
    (look t.pos p).coach = some { partner := x.supervisor, side := .agent, active := false } ∧
    (x.supervisor ≠ p →
      look t.pos x.supervisor =
        { look s.pos x.supervisor with
          coach := some { partner := p, side := .supervisor, active := false } }) ∧
    (w.playing = .coach →
      (look t.whisper p).playing ≠ .coach ∧
      (s.noCueRoutes → w.queue = [] →
        (w.stack = [] → look t.whisper p = { queue := [], playing := .none, stack := [] }) ∧
        ∀ e, w.stack = [e] → e.connect = false → e.holdsCursor = true →
          look t.whisper p =
            { queue := [], playing := .prompt { e with holdsCursor := false }, stack := [] }))

/-! ## The store -/

/-- The RETIRING clips whose sectors are not queued yet, in ascending order of first sector (R159). -/
def Store.awaitErase (st : Store) (order : List ClipIx) : Prop :=
  (∀ id, id ∈ order ↔
    ∃ c, st.clip id = some c ∧ c.state = .retiring ∧ look st.sectors c.first = some .clip) ∧
  order.Pairwise fun i j => ∀ a b, st.clip i = some a → st.clip j = some b → a.first < b.first

/-- Whether a leg is a reclaim candidate: PARKED, with segments held (R79). -/
def State.reclaimable (s : State) (n : LegIx) : Prop :=
  (look s.legs n).state = .parked ∧ (look s.can n).held ≠ []

/-- How long ago a leg's park time was, in ms (R79, R164). -/
def State.parkAge (s : State) (n : LegIx) : Nat :=
  (look s.legs n).parkTime.elim 0 fun t => (s.router.stamp - t).toNat

/-- Whether `n` sectors from one on exist and are ERASED. -/
def Store.erasedRun (st : Store) (first n : Nat) : Prop :=
  first + n ≤ 256 ∧ ∀ k : SectorIx, first ≤ k.val → k.val < first + n →
    look st.sectors k = some .erased

/-! ## The link -/

/-- What the discard of the frame being assembled leaves, for the cause with a code (R178, R179): the
assembler hunting, the counter one higher unless it stands at 65,535, the latch set, and LINK_FAULT taken
where it was clear. -/
def State.afterDiscard (s : State) (cause : Fin 6) : State :=
  { s with
    link :=
      { s.link with
        assembler := .hunting
        gap := 0
        counters := put s.link.counters cause
          (if look s.link.counters cause = 0xFFFF then 0xFFFF else look s.link.counters cause + 1)
        latch := true }
    router :=
      if s.link.latch then s.router
      else s.router.record .linkFault .none (BitVec.ofNat 16 cause.val) }

/-- Bytes received one after another, each with a good stop bit. -/
def receiveAll : List Byte → State → Host.Outcome State Fault Refusal
  | [], s => .next s
  | b :: bs, s =>
    match exec (.receiveByte b true) s with
    | .next t => receiveAll bs t
    | .fault r => .fault r
    | .refused r => .refused r

/-! ## Invariants -/

/-- Bindings are consistent (R21): a leg has a bound position exactly when it is CONNECTING or TALKING, a
position has a bound leg exactly when it is ENGAGED, the two name each other, and the present flag is set
exactly outside ABSENT (Table 1-2). -/
def Units.bindingsConsistent (u : Units) : Prop :=
  (∀ n : LegIx, (look u.legs n).bound.isSome =
    (decide ((look u.legs n).state = .connecting) || decide ((look u.legs n).state = .talking))) ∧
  (∀ p : PosIx, (look u.pos p).bound.isSome = decide ((look u.pos p).state = .engaged)) ∧
  (∀ p : PosIx, (look u.pos p).present = decide ((look u.pos p).state ≠ .absent)) ∧
  ∀ (n : LegIx) (p : PosIx), (look u.legs n).bound = some p ↔ (look u.pos p).bound = some n

/-- The notice queue holds at most 64 records (R168). -/
def Router.bounded (r : Router) : Prop := r.notices.length ≤ noticeLimit

/-- Segments held by legs do not exceed 384 minus the reserve (R74). -/
def Pool.withinLimit (p : Pool) : Prop := p.legHeld ≤ p.legLimit

/-- The request queue holds at most four requests (R180). -/
def Link.bounded (l : Link) : Prop := l.requests.length ≤ requestLimit

/-- Group memberships are consistent (R21, R104): a leg stands in the one group that its record names and in
no other, once, and in one exactly when it is PARKED or CONNECTING. -/
def Units.membersConsistent (u : Units) : Prop :=
  (∀ (n : LegIx) (g : GroupIx), (look u.legs n).group = some g ↔ n ∈ (look u.groups g).members) ∧
  (∀ g : GroupIx, (look u.groups g).members.Nodup) ∧
  ∀ n : LegIx, (look u.legs n).group.isSome =
    (decide ((look u.legs n).state = .parked) || decide ((look u.legs n).state = .connecting))

/-- A whisper state within the bounds of R114: at most eight entries waiting, none of them and none stacked
where nothing plays, and on the stack levels that rise strictly to below the playing entry's, the coach's
standing above both. -/
def Whisper.sound (w : Whisper) : Prop :=
  w.queue.length ≤ 8 ∧ (w.playing = .none → w.queue = [] ∧ w.stack = []) ∧
    (w.stack = [] ∨
      (∃ a, w.stack = [a] ∧
        (w.playing = .coach ∨
          a.level = .routine ∧ ∃ e, w.playing = .prompt e ∧ e.level = .urgent)) ∨
      ∃ a b, w.stack = [b, a] ∧ a.level = .routine ∧ b.level = .urgent ∧ w.playing = .coach)

/-- Reference counts are right (R100, R101): a clip's is the number of cursors whose reference names it, none
for a clip without an entry, and a STOPPED cursor holds none. -/
def Media.refsCounted (m : Media) : Prop :=
  (∀ id : ClipIx, (m.store.clip id).elim 0 Clip.refs =
    (List.finRange 56).countP fun c => decide ((look m.cursors c).clip = some id)) ∧
  ∀ c : CurIx, (look m.cursors c).state = .stopped → (look m.cursors c).clip = none

/-- The erase queue is right (R149): the QUEUED sectors, each once, and not empty while a run is open. -/
def Store.queueSound (st : Store) : Prop :=
  st.eraseQueue.Nodup ∧ (∀ k : SectorIx, k ∈ st.eraseQueue ↔ look st.sectors k = some .queued) ∧
    (st.runOpen = true → st.eraseQueue ≠ [])

/-- The sectors of a clip stand as its state has them (R137–R140, R150, R153): RESERVED while it is WRITING,
CLIP while it is VALID or referenced, and in order in the erase queue otherwise until the first is erased. -/
def Store.clipSound (st : Store) (c : Clip) : Prop :=
  c.sectors = sectorsFor c.samples ∧ c.first.val + c.sectors ≤ 256 ∧
    match c.state with
    | .writing => c.refs = 0 ∧ ∀ k ∈ c.run, look st.sectors k = some .reserved
    | .valid => ∀ k ∈ c.run, look st.sectors k = some .clip
    | .retiring =>
      if c.refs = 0 then c.run.Sublist st.eraseQueue else ∀ k ∈ c.run, look st.sectors k = some .clip
    | .erasing => c.refs = 0

/-- The directory is right: every clip, at most one WRITING, and no sector in two clips that are not
ERASING (R137, R140). -/
def Store.directorySound (st : Store) : Prop :=
  (∀ id c, st.clip id = some c → st.clipSound c) ∧
  ∀ i j a b, i ≠ j → st.clip i = some a → st.clip j = some b →
    (a.state = .writing → b.state ≠ .writing) ∧
    (a.state ≠ .erasing → b.state ≠ .erasing → ∀ k ∈ a.run, k ∉ b.run)

/-- The page buffers are right (R141, R143): one that is EMPTY holds no byte and one that is FILLING some, and
the bytes programmed, those FILLING and those to come are no more than the clip has. -/
def Store.buffersSound (st : Store) : Prop :=
  (∀ b : Fin 2, ((look st.buffers b).state = .empty → (look st.buffers b).data = []) ∧
    ((look st.buffers b).state = .filling → (look st.buffers b).data ≠ [])) ∧
  ∀ id c, st.clip id = some c → c.state = .writing →
    (c.finishing = true → c.remaining = 0) ∧
    (c.finishing = false →
      256 * c.nextPage + c.remaining +
        ((List.finRange 2).map fun b =>
          if (look st.buffers b).state = .filling then (look st.buffers b).data.length else 0).sum ≤
        2 * c.samples)

/-- The program list and the program under way are right (R142–R145): data pages and the one header are of
the clip that is WRITING, the header last; one under way lies in a sector of that clip in which a program
has begun, or, where the clip was dropped, in a QUEUED sector of no clip. -/
def Store.programsSound (st : Store) : Prop :=
  (∀ id k b, Program.data id k b ∈ st.programs →
    ∃ c, st.clip id = some c ∧ c.state = .writing ∧ 256 * k < 2 * c.samples) ∧
  (∀ id, Program.header id ∈ st.programs →
    (∃ c, st.clip id = some c ∧ c.state = .writing ∧ c.finishing = true) ∧
      (∀ x ∈ st.programs, x.isData id = false) ∧ st.programs.count (.header id) = 1 ∧
      ∀ p, st.op = .program p → p.dropped = false → p.prog.writes id = false) ∧
  ∀ p, st.op = .program p → st.erase = none ∧
    ∀ id, p.prog.writes id = true →
      ∃ k, sectorOf p.addr = some k ∧
        (p.dropped = false →
          (∃ c, st.clip id = some c ∧ c.state = .writing ∧ k ∈ c.run ∧
            (p.prog = .header id → c.finishing = true)) ∧
          look st.begun k = true ∧ (p.prog = .header id → ∀ x ∈ st.programs, x.writes id = false)) ∧
        (p.dropped = true → look st.sectors k = some .queued ∧
          ∀ j c, st.clip j = some c → c.state ≠ .erasing → k ∉ c.run)

/-- The start-up scan is right (R157, R158): nothing but it runs, the clips found are VALID, and what it has
not read has no state. -/
def Store.scanSound (st : Store) : Prop :=
  (st.scan ≠ .none → st.state = .scanning) ∧
  (st.state = .scanning → st.op = .none ∧ st.erase = none ∧ st.programs = [] ∧
    ∀ id c, st.clip id = some c → c.state = .valid) ∧
  (st.scan = .awaitDevice → ∀ k : SectorIx, look st.sectors k = none) ∧
  (∀ x, st.scan = .readPage x → st.eraseQueue = [] ∧ ∀ k : SectorIx, x ≤ k → look st.sectors k = none) ∧
  ∀ x, st.scan = .blankCheck x → look st.sectors x = none

/-- The clip store is consistent, and its reference counts are those the cursors hold. -/
def State.storeConsistent (s : State) : Prop :=
  s.refsCounted ∧ s.store.queueSound ∧ s.store.directorySound ∧ s.store.buffersSound ∧
    s.store.programsSound ∧ s.store.scanSound ∧
    ∀ e, s.store.erase = some e → look s.store.sectors e.sector = some .erasing

/-- A sound state: every invariant above, the flash in its canonical form, and no routed posting left. -/
def State.sound (s : State) : Prop :=
  s.bindingsConsistent ∧ s.membersConsistent ∧ (∀ p : PosIx, (look s.whisper p).sound) ∧
    s.storeConsistent ∧ s.router.bounded ∧ s.pool.withinLimit ∧ s.link.bounded ∧
    Memory.wf s.flash = true ∧ s.postings = []

/-! ## After a reset -/

/-- The values the reset columns give every block but store, router and link (Tables 1-1, 2-1, 3-1, 4-1,
6-3, 7-1; R72, R87, R114, R126, R132). -/
def State.blocksAtReset (t : State) : Prop :=
  (∀ p : PosIx, look t.pos p =
    { role := .agent, state := .absent, present := false, linkValid := false, keyHeld := false,
      hostMute := false, presentChanged := false, muteChanged := false, floors := 0, defaultGroup := 0,
      nesting := true, gain := 0, coachDuck := 6, bound := none, coach := none, linkTimer := none,
      debounce := none }) ∧
  (∀ n : LegIx, look t.legs n =
    { state := .free, bound := none, owner := none, group := none, parkTime := none, fired := false,
      timer := none, connectRef := false, mode := .on, tail := 4 }) ∧
  (∀ n : LegIx, (look t.can n).state = .idle ∧ (look t.can n).held = [] ∧ (look t.can n).tail = 4 ∧
    (look t.can n).working = .converging ∧ (look t.can n).reclaimed = false ∧
    (look t.can n).doubleTalk = false ∧ (look t.can n).erle = 0 ∧ (look t.can n).timer = 0 ∧
    (look t.can n).history = []) ∧
  (∀ p : PosIx, (look t.sup p).level = 2 ∧ (look t.sup p).threshold = -35 ∧
    (look t.sup p).bands = List.replicate 16 (-960) ∧ (look t.sup p).learned = 0 ∧
    (look t.sup p).floor = -96 ∧ (look t.sup p).speech = false ∧ (look t.sup p).hangover = 0 ∧
    (look t.sup p).alarm = .normal ∧ (look t.sup p).highTimer = 0 ∧ (look t.sup p).lowTimer = 0 ∧
    (look t.sup p).generator = none) ∧
  ((∀ i : SegIx, look t.pool.owner i = .free) ∧ t.pool.wait = [] ∧ t.pool.reserve = 16) ∧
  (∀ q : CueIx, look t.cues q = { items := [], duck := 0 }) ∧
  (∀ c : CurIx, (look t.cursors c).state = .stopped ∧ (look t.cursors c).snapshot = none ∧
    (look t.cursors c).index = 0 ∧ (look t.cursors c).place = 0 ∧ (look t.cursors c).ring = none ∧
    (look t.cursors c).clip = none ∧ (look t.cursors c).requested = 0 ∧
    (look t.cursors c).refill = none ∧ (look t.cursors c).underrun = false ∧
    (look t.cursors c).played = false) ∧
  (∀ g : GroupIx, look t.groups g =
    { source := none, resume := false, alarm := 0, members := [], point := none,
      pendingChange := false }) ∧
  (∀ p : PosIx, look t.whisper p = { queue := [], playing := .none, stack := [] }) ∧
  t.pairs = [] ∧ ∀ k : SlotIx, look t.slots k = none

/-- The router as R163 gives it after a reset, with STARTED carrying a code. -/
def State.routerAtReset (t : State) (kind : BitVec 16) : Prop :=
  (∀ k : Fin 24, look t.router.routes k = { notify := true, cue := none }) ∧
  t.router.notices = [{ kind := .started, subject := .none, detail := kind, stamp := 0 }] ∧
  t.router.overflow = false ∧ t.router.mode = .poll ∧ t.router.stamp = 0

end Sys2Proof.Machine
end

