-- ==== Sys2Proof/Certificates/Slice0/Obligations.lean ====
section
/-! DEFINITION. The statements about the model, for the provers. In each, `s.takes` says that the link takes a
request at once: every queued request has its reply, none is a restart, a place is free, and no routed
posting is left over. -/

open Sys2Proof Sys2Proof.Machine

/-! ## The step and every command -/

/-- A step takes the command at the front of the queue and runs it with the queue's rest (log 1). -/
def Obligations.StepTakesFrontCommand : Prop :=
  ∀ (s : State) (c : Instr) (rest : List Instr), s.pending = c :: rest →
    step s = exec c { s with pending := rest }

/-- No command is refused, and only the ends of four flash operations can stop the model, with one fault
(log 44). -/
def Obligations.OnlyFlashEndsCanStop : Prop :=
  ∀ (c : Instr) (s : State),
    (∃ t, exec c s = .next t) ∨
      (exec c s = .fault .flashAddress ∧
        (c = .refillComplete ∨ c = .pageProgramComplete ∨ c = .headerProgramComplete ∨
          c = .programTimeout))

/-- A request command taken at once always completes and is answered; it reaches neither the flash nor the
highway samples nor the commands waiting; and one whose result is not OK has changed nothing else (R180). -/
def Obligations.RefusedRequestChangesNothing : Prop :=
  ∀ (c : Instr) (s : State) (r : Request), requestOf c = some r → s.takes → r.payload.length ≤ 240 →
    ∃ (t : State) (rep : Reply), exec c s = .next t ∧
      t.link = s.link.answered r.tag r.name r.payload rep ∧ t.flash = s.flash ∧
      t.earpiece = s.earpiece ∧ t.outbound = s.outbound ∧ t.pending = s.pending ∧
      (rep.result ≠ .ok → rep.payload = [] ∧ t = s.replied r.tag r.name r.payload rep)

/-- A request whose payload has one fixed length and comes with another is answered LENGTH by the port, and
nothing else changes (R180). -/
def Obligations.PortAnswersWrongLength : Prop :=
  ∀ (c : Instr) (s : State) (r : Request) (n : Nat), requestOf c = some r → s.takes →
    (r.name, some n) ∈ requestNames → r.payload.length ≠ n → r.payload.length ≤ 240 →
    exec c s = .next (s.replied r.tag r.name r.payload { result := .length, payload := [] })

/-! ## Invariants -/

/-- Reset leaves a sound state (R2, R20, R72, R163, R186; the blank flash is log 18). -/
def Obligations.ResetStateIsSound : Prop := State.reset.sound

/-- Every step keeps the flash contents in their one canonical form. -/
def Obligations.FlashStaysCanonical : Prop :=
  ∀ s t : State, Memory.wf s.flash = true → step s = .next t → Memory.wf t.flash = true

/-- Every step keeps the bindings of legs and positions consistent, and the memberships of legs in hold groups:
each in the one group its record names, once, and in one exactly while PARKED or CONNECTING (R21, R104). -/
def Obligations.BindingsAndMembersStayConsistent : Prop :=
  (∀ s t : State, s.bindingsConsistent → step s = .next t → t.bindingsConsistent) ∧
  ∀ s t : State, s.membersConsistent → step s = .next t → t.membersConsistent

/-- Every step keeps the notice queue at 64 records or fewer (R168), the request queue at four requests or fewer
(R180), and every whisper state within its bounds: a waiting queue of eight, and a stack of two whose levels
rise to below the playing entry's, the coach's above both (R114). -/
def Obligations.QueuesStayBounded : Prop :=
  (∀ s t : State, s.router.bounded → step s = .next t → t.router.bounded) ∧
  (∀ s t : State, s.link.bounded → step s = .next t → t.link.bounded) ∧
  ∀ s t : State, (∀ p : PosIx, (look s.whisper p).sound) → step s = .next t →
    ∀ p : PosIx, (look t.whisper p).sound

/-- Every step keeps the segments held by legs within 384 minus the reserve (R74). -/
def Obligations.LegSegmentsStayWithinLimit : Prop :=
  ∀ s t : State, s.pool.withinLimit → step s = .next t → t.pool.withinLimit

/-- Every step keeps the clip store consistent: each clip's reference count that of the cursors holding it
(R101), the erase queue the QUEUED sectors, each once (R149), the sectors of every clip as its state has them
and in no other clip (R137, R140), the buffers and programs those of the clip being written (R141–R145), and a
scan that finds what it has not read without a state (R157). -/
def Obligations.StoreStaysConsistent : Prop :=
  ∀ s t : State, s.storeConsistent → step s = .next t → t.storeConsistent

/-- No step leaves a routed posting waiting. That a command's postings are made before it ends is the model's
order, log 20; that none arises while they are made is R166, log 55; and no bound cuts them short, log 38. -/
def Obligations.NoPostingIsLeft : Prop :=
  ∀ s t : State, s.postings = [] → step s = .next t → t.postings = []

/-! ## Resets -/

/-- Power-on and pin reset: the reset values in every block, STARTED with their code alone in the queue, the
link at 115,200 bit/s and empty, the store scanning from nothing, with empty page buffers, no operation or
erase under way on the flash and no quiet window; the commands waiting stay (log 1)
(R163, R179, R186). The flash keeps its bytes but for those a reset cuts short, which are free (log 19): an
erase so cut leaves its sector without a valid header, a zeroing too, and a header program makes none (R157). -/
def Obligations.PowerOnAndPinResetGiveResetState : Prop :=
  ∀ s : State, ∀ x ∈ [(Instr.powerOn, (0 : BitVec 16)), (.pinReset, 1)],
    ∃ t : State, exec x.1 s = .next t ∧ t.blocksAtReset ∧ t.routerAtReset x.2 ∧
      t.link.rate = 115200 ∧ t.link.assembler = .hunting ∧ t.link.requests = [] ∧ t.link.tx = none ∧
      (∀ i : Fin 6, look t.link.counters i = 0) ∧ t.link.latch = false ∧
      t.store.state = .scanning ∧ (∀ k : SectorIx, look t.store.sectors k = none) ∧
      (∀ id : ClipIx, t.store.clip id = none) ∧ t.store.programs = [] ∧ t.store.refills = [] ∧
      t.store.eraseQueue = [] ∧ t.store.runOpen = false ∧ t.store.scan = .awaitDevice ∧
      (∀ b : Fin 2, look t.store.buffers b = { state := .empty, data := [] }) ∧
      (∀ k : SectorIx, look t.store.begun k = false) ∧ t.store.op = .none ∧ t.store.erase = none ∧
      t.store.quiet = none ∧ t.pending = s.pending ∧
      ((∀ p, s.store.op ≠ .program p) → s.store.erase = none → t.flash = s.flash) ∧
      (∀ e, (∀ p, s.store.op ≠ .program p) → s.store.erase = some e → Memory.wf s.flash = true →
        headerReads t.flash e.sector = false ∧
        ∀ a, flashRead t.flash a &&& flashRead s.flash a = flashRead s.flash a ∧
          (a / 65536 ≠ e.sector.val → flashRead t.flash a = flashRead s.flash a)) ∧
      ∀ p (k : SectorIx), s.store.op = .program p → p.addr / 65536 = k.val →
        p.addr + p.bytes.length ≤ 16777216 → Memory.wf s.flash = true →
        ((∃ id, p.prog = .header id) → headerReads s.flash k = false → headerReads t.flash k = false) ∧
        ((∃ j, p.prog = .zero j) → p.addr = 65536 * k.val → p.bytes = List.replicate 256 0 →
          headerReads t.flash k = false) ∧
        ∀ a, flashRead t.flash a &&& flashRead s.flash a = flashRead t.flash a ∧
          (a < p.addr ∨ p.addr + p.bytes.length ≤ a → flashRead t.flash a = flashRead s.flash a)

/-- The restart, taken at the end of the RSTR reply: the reset values in every block, the link emptied with
its rate kept, STARTED with its code, and the flash untouched; without that reply nothing happens (log 7). A
store that was SCANNING begins its scan again. Any other keeps its state, sector map, erase queue, run and
quiet window, its erase and the programs of other clips: the clip being written is dropped, its sectors with
a program begun queued and the others ERASED; the refills go, and a read under way reaches no cursor; every
reference is dropped, and the RETIRING clips not yet queued are, in ascending order of first sector
(R91, R144, R149, R153, R159, R185). -/
def Obligations.RestartFollowsRstrReply : Prop :=
  ∀ s : State,
    (s.link.restarting = false → exec .restart s = .next s) ∧
    (s.link.restarting = true →
      ∃ t : State, exec .restart s = .next t ∧ t.blocksAtReset ∧ t.routerAtReset 2 ∧
        t.link.rate = s.link.rate ∧ t.link.assembler = .hunting ∧ t.link.requests = [] ∧
        t.link.tx = none ∧ (∀ i : Fin 6, look t.link.counters i = 0) ∧ t.link.latch = false ∧
        t.store.state = s.store.state ∧ t.store.refills = [] ∧
        (∀ id c, t.store.clip id = some c → c.refs = 0) ∧
        (∀ id, s.store.writing = some id → t.store.clip id = none) ∧
        (s.store.state = .scanning → t.store = State.reset.store) ∧
        (s.store.state ≠ .scanning → s.storeConsistent →
          ∃ (st : Store) (own gone added : List SectorIx) (order : List ClipIx), t.store = st.kick ∧
            own = s.store.writing.elim [] (fun id => (s.store.clip id).elim [] Clip.run) ∧
            gone = own.filter (fun k => look s.store.begun k) ∧ s.store.awaitErase order ∧
            added = gone ++ order.flatMap (fun id => (s.store.clip id).elim [] Clip.run) ∧
            st =
              { s.store with
                dir := st.dir, sectors := st.sectors, refills := []
                programs := s.store.programs.filter fun x => s.store.writing.all fun id => !x.writes id
                op :=
                  match s.store.op with
                  | .read r _ => .read r true
                  | .program p =>
                    .program { p with
                      dropped := p.dropped || s.store.writing.any fun id => p.prog.writes id }
                  | .none => .none
                buffers :=
                  if s.store.writing = none then s.store.buffers
                  else Vector.replicate 2 { state := .empty, data := [] }
                eraseQueue := s.store.eraseQueue ++ added
                quiet := if added = [] ∨ s.store.runOpen = true then s.store.quiet else some 1600 } ∧
            (∀ id, st.clip id =
              if s.store.writing = some id then none
              else (s.store.clip id).map fun c =>
                { c with
                  refs := 0
                  eraseLeft := if id ∈ order then c.sectors else c.eraseLeft
                  goneBad := if id ∈ order then 0 else c.goneBad }) ∧
            ∀ k, look st.sectors k =
              if k ∈ added then some .queued
              else if k ∈ own then some .erased else look s.store.sectors k) ∧
        t.flash = s.flash ∧ t.pending = s.pending)

/-! ## The link -/

/-- The bytes of a good request frame, received one after another while the assembler hunts and a place of the
queue is free, enter that request into the queue, clear the latch and change nothing else. Behind requests
that are answered, none of them an RSTR, the port answers what is its own, a name that is no request's with
UNKNOWN; behind one an owner has still to take, or an RSTR taken, all wait (log 5). The row of a request
takes it where it stands so in the queue, as it takes one that arrives with the row (log 4). Otherwise the
row is an arrival: discarded with cause FULL where four places are taken, with cause LEN for more bytes than
a frame carries, and left waiting behind an RSTR that was taken (R177, R178, R179, R180). -/
def Obligations.RequestsAreAcceptedAndTaken : Prop :=
  (∀ (s : State) (tag : BitVec 16) (n0 n1 n2 n3 : Byte) (payload : List Byte), payload.length ≤ 240 →
    s.link.assembler = .hunting → s.link.requests.length < 4 →
    receiveAll (frameBytes 0x51 tag [n0, n1, n2, n3] payload) s =
      .next
        { s with
          link :=
            { s.link with
              gap := 0
              requests := answerOwn (s.link.requests ++
                [{ tag := tag, name := [n0, n1, n2, n3], payload := payload, reply := none }])
              latch := false } }) ∧
  (∀ (rs later : List Request) (r : Request), r.reply = none →
    (∀ x ∈ rs, ∃ rep, x.reply = some rep ∧ (x.name = ascii4 'R' 'S' 'T' 'R' → rep.result ≠ .ok)) →
    ((∀ c q, requestOf c = some q → q.name ≠ r.name) → portAnswer r = some .unknown) ∧
    (∀ res, portAnswer r = some res →
      answerOwn (rs ++ r :: later) =
        rs ++ { r with reply := some { result := res, payload := [] } } :: answerOwn later) ∧
    (portAnswer r = none → answerOwn (rs ++ r :: later) = rs ++ r :: later)) ∧
  (∀ (rs later : List Request) (x : Request) (rep : Reply), (∀ y ∈ rs, y.reply.isSome = true) →
    x.name = ascii4 'R' 'S' 'T' 'R' → x.reply = some rep → rep.result = .ok →
    answerOwn (rs ++ x :: later) = rs ++ x :: later) ∧
  ∀ (c : Instr) (s : State) (r : Request), requestOf c = some r →
    (∀ rs, s.link.requests = rs ++ [r] → s.link.latch = false → portAnswer r = none →
      r.payload.length ≤ 240 → { s with link := { s.link with requests := rs } }.takes →
      exec c s = exec c { s with link := { s.link with requests := rs } }) ∧
    (s.link.next ≠ some r → 240 < r.payload.length ∨ 4 ≤ s.link.requests.length →
      ∀ cause : Fin 6, cause = (if 240 < r.payload.length then 2 else 5) →
      exec c s =
        .next
          { s with
            link :=
              { (s.afterDiscard cause).link with assembler := s.link.assembler, gap := s.link.gap }
            router := (s.afterDiscard cause).router }) ∧
    (∀ rs later x rep, s.link.requests = rs ++ x :: later → (∀ y ∈ rs, y.reply.isSome = true) →
      x.name = ascii4 'R' 'S' 'T' 'R' → x.reply = some rep → rep.result = .ok →
      s.link.requests.length < 4 → r.payload.length ≤ 240 →
      exec c s =
        .next { s with
          link := { s.link with requests := s.link.requests ++ [r], latch := false } })

/-- What one byte does: SYNC with a good stop bit begins a frame and any other byte is passed over while
HUNTING; while ASSEMBLING, a byte without a stop bit discards with FRAMING, a LEN outside 7–247 with LEN, and
a byte that does not complete the frame is taken. One that completes it discards with CHECK where the
CRC-16 over LEN and body is not the frame's, then with KIND where the kind is not 'Q', then with FULL where
four places are taken. A break while ASSEMBLING discards the frame with FRAMING, and 5 ms without a byte
with GAP; while HUNTING, and before the 5 ms have passed, nothing happens (R178, R179). -/
def Obligations.AssemblerTakesBytes : Prop :=
  (∀ (s : State) (b : Byte) (stop : Bool),
     (s.link.assembler = .hunting →
       exec (.receiveByte b stop) s =
         .next (if b = 0xC5 ∧ stop = true then
           { s with link := { s.link with assembler := .assembling [], gap := 0 } } else s)) ∧
     (∀ bytes, s.link.assembler = .assembling bytes → stop = false →
       exec (.receiveByte b stop) s = .next (s.afterDiscard 0)) ∧
     (s.link.assembler = .assembling [] → stop = true →
       exec (.receiveByte b stop) s =
         .next (if b.toNat < 7 ∨ 247 < b.toNat then s.afterDiscard 2
           else { s with link := { s.link with assembler := .assembling [b], gap := 0 } })) ∧
     (∀ len bytes, s.link.assembler = .assembling (len :: bytes) → stop = true →
       7 ≤ len.toNat → len.toNat ≤ 247 →
       (bytes.length + 2 < len.toNat + 3 →
         exec (.receiveByte b stop) s =
           .next { s with
             link := { s.link with assembler := .assembling (len :: bytes ++ [b]), gap := 0 } }) ∧
       ∀ covered check : List Byte, bytes ++ [b] = covered ++ check → covered.length = len.toNat →
         check.length = 2 →
         (check ≠ le2 (crc16 (len :: covered)).toNat →
           exec (.receiveByte b stop) s = .next (s.afterDiscard 3)) ∧
         (check = le2 (crc16 (len :: covered)).toNat →
           (covered.head? ≠ some 0x51 →
             exec (.receiveByte b stop) s = .next (s.afterDiscard 4)) ∧
           (covered.head? = some 0x51 → 4 ≤ s.link.requests.length →
             exec (.receiveByte b stop) s = .next (s.afterDiscard 5))))) ∧
  (∀ s : State,
     (s.link.assembler = .hunting → exec .lineBreak s = .next s ∧ exec .gapTimeout s = .next s) ∧
     (∀ bytes, s.link.assembler = .assembling bytes →
       exec .lineBreak s = .next (s.afterDiscard 0) ∧
       exec .gapTimeout s = .next (if 40 ≤ s.link.gap then s.afterDiscard 1 else s)))

/-- With TXD free, the reply of the head of the queue, if ready, begins: its frame carries KIND 'A', the tag and
name of its request, the result and the payload; otherwise nothing begins (R177, R180, R181). In PUSH mode,
with TXD free and no reply ready, the head record leaves the queue and its notice frame begins, with KIND
'N', TAG 0, its event tag and its 8 bytes; in POLL mode, with a reply ready, or with TXD taken, none begins
(R171, R181). -/
def Obligations.ReplyAndNoticeFramesBegin : Prop :=
  (∀ (s : State) (r : Request) (rs : List Request), s.link.requests = r :: rs →
     (∀ rep, s.link.tx = none → r.reply = some rep →
       ∃ body : List Byte,
         body = 0x41 :: le2 r.tag.toNat ++ r.name ++ rep.result.code :: rep.payload ∧
         exec .replyFrameStart s =
           .next { s with
             link := { s.link with
               tx := some (.reply (0xC5 :: byte body.length :: body ++
                 le2 (crc16 (byte body.length :: body)).toNat)) } }) ∧
     (s.link.tx ≠ none ∨ r.reply = none → exec .replyFrameStart s = .next s)) ∧
  (∀ s : State,
     (∀ n ns, s.link.tx = none → s.link.ready = none → s.router.mode = .push →
       s.router.notices = n :: ns →
       ∃ body : List Byte,
         body = 0x4E :: 0 :: 0 :: n.kind.tag ++ n.subject.bytes ++ le2 n.detail.toNat ++
           le4 n.stamp.toNat ∧
         exec .noticeFrameStart s =
           .next { s with
             router := { s.router with notices := ns }
             link := { s.link with
               tx := some (.notice (0xC5 :: byte body.length :: body ++
                 le2 (crc16 (byte body.length :: body)).toNat)) } }) ∧
     (s.link.tx ≠ none ∨ s.link.ready ≠ none ∨ s.router.mode = .poll ∨ s.router.notices = [] →
       exec .noticeFrameStart s = .next s))

/-- The end of a notice frame frees TXD; the end of a reply that asks for no rate switch and no restart also
takes its request out of the queue, whose next requests the port then looks at; that of an RSTR's reply is
the restart; with TXD idle nothing happens (R180, R181). LRAT naming one of the six rates and RSTR are
answered OK and change nothing at once; at the end of an LRAT reply that names another rate, the new rate
applies, and a frame being received is abandoned without a count; with no such reply in transmission nothing
happens (log 7) (R176, R182, R185). That the rate asked for is compared with the one in force at the end of
the reply is the model's choice, log 57. FRAME_TRANSMIT_END of such a reply is the switch itself. -/
def Obligations.FrameEndFreesLine : Prop :=
  (∀ s : State,
     (s.link.tx = none → exec .frameTransmitEnd s = .next s) ∧
     (∀ bytes, s.link.tx = some (.notice bytes) →
       exec .frameTransmitEnd s = .next { s with link := { s.link with tx := none } }) ∧
     (∀ bytes r rs, s.link.tx = some (.reply bytes) → s.link.requests = r :: rs →
       ((∀ rep, r.reply = some rep → rep.result = .ok →
           r.name ≠ ascii4 'R' 'S' 'T' 'R' ∧
           (r.name = ascii4 'L' 'R' 'A' 'T' → leNat r.payload = s.link.rate)) →
         exec .frameTransmitEnd s =
           .next { s with link := { s.link with tx := none, requests := answerOwn rs } }) ∧
       (∀ rep, r.reply = some rep → rep.result = .ok → r.name = ascii4 'R' 'S' 'T' 'R' →
         exec .frameTransmitEnd s = exec .restart s))) ∧
  (∀ (s : State) (tag : BitVec 16) (rate : Nat),
     rate ∈ [115200, 230400, 460800, 921600, 1500000, 3000000] →
     (s.takes →
       exec (.lrat tag (le4 rate)) s =
         .next (s.replied tag (ascii4 'L' 'R' 'A' 'T') (le4 rate)
           { result := .ok, payload := le4 rate }) ∧
       exec (.rstr tag []) s =
         .next (s.replied tag (ascii4 'R' 'S' 'T' 'R') [] { result := .ok, payload := [] })) ∧
     (s.link.rateAsked = none → exec .linkRateSwitch s = .next s) ∧
     (∀ bytes pl rs, s.link.tx = some (.reply bytes) → rate ≠ s.link.rate →
       s.link.requests =
         { tag := tag, name := ascii4 'L' 'R' 'A' 'T', payload := le4 rate,
           reply := some { result := .ok, payload := pl } } :: rs →
       ∀ c ∈ [Instr.linkRateSwitch, .frameTransmitEnd],
         exec c s =
           .next { s with
             link := { s.link with
               rate := rate, assembler := .hunting, gap := 0, tx := none, requests := answerOwn rs } }))

/-- IDNT answers with the fixed identity and capacities of the part, in every state, and changes nothing
(R183). -/
def Obligations.IdntReportsIdentity : Prop :=
  ∀ (s : State) (tag : BitVec 16), s.takes →
    exec (.idnt tag []) s =
      .next (s.replied tag (ascii4 'I' 'D' 'N' 'T') []
        { result := .ok
          payload := [0x17, 0x2A, 0x48, 0x00, 1, 48, 64, 8, 8, 32, 127, 4, 0x80, 0x01, 56, 64, 4] })

/-- STAT reports store state, pool counts, notice count, overflow flag, delivery mode, link rate, the six
counters, the fault latch, which its own acceptance has cleared, and the places taken, itself included, and
changes nothing; the three counts sum to 384 (R184). -/
def Obligations.StatReportsStatus : Prop :=
  ∀ (s : State) (tag : BitVec 16), s.takes →
    s.pool.free + s.pool.legHeld + s.pool.cursorHeld = 384 ∧
    exec (.stat tag []) s =
      .next (s.replied tag (ascii4 'S' 'T' 'A' 'T') []
        { result := .ok
          payload := s.store.state.code ::
            (le2 s.pool.free ++ le2 s.pool.legHeld ++ le2 s.pool.cursorHeld) ++
            [byte s.router.notices.length, flagByte s.router.overflow, s.router.mode.code] ++
            le4 s.link.rate ++
            ((List.finRange 6).flatMap fun i => le2 (look s.link.counters i).toNat) ++
            [0, byte (s.link.requests.length + 1)] })

/-! ## Positions -/

/-- PCFG with every value in its range stores all the settings, unless it asks for another role of a position
that is neither ABSENT nor IDLE or holds a coach link, which is answered STATE; a changed alarm threshold
sets both alarm timers to 0 (R14, R70). -/
def Obligations.PcfgStoresSettings : Prop :=
  ∀ (s : State) (tag : BitVec 16) (p : PosIx) (role : Role) (floors : Byte) (g : GroupIx) (nesting : Bool)
    (gain threshold : Int) (duck level : Nat), s.takes → -24 ≤ gain → gain ≤ 12 → -60 ≤ threshold →
    threshold ≤ -20 → duck ≤ 30 → level ≤ 3 →
    ∃ payload : List Byte,
      payload = [byte p, role.code, floors, byte g, flagByte nesting, sbyte gain, byte duck, byte level,
        sbyte threshold] ∧
      exec (.pcfg tag payload) s =
        .next
          (if role = (look s.pos p).role ∨
              (((look s.pos p).state = .absent ∨ (look s.pos p).state = .idle) ∧
                (look s.pos p).coach = none) then
            { s with
              pos := upd s.pos p fun x =>
                { x with
                  role := role, floors := floors, defaultGroup := g, nesting := nesting, gain := gain,
                  coachDuck := duck }
              sup := upd s.sup p fun c =>
                { c with
                  level := level, threshold := threshold
                  highTimer := if threshold = c.threshold then c.highTimer else 0
                  lowTimer := if threshold = c.threshold then c.lowTimer else 0 } }.replied
              tag (ascii4 'P' 'C' 'F' 'G') payload (.ok [])
          else s.replied tag (ascii4 'P' 'C' 'F' 'G') payload (.refuse .state))

/-- PQRY answers with the record as it stood, in 20 bytes, and clears both deltas; with no coach link partner
and side are none, and the flag is 0 (R15, R188, R189). -/
def Obligations.PqryReportsAndClearsDeltas : Prop :=
  ∀ (s : State) (tag : BitVec 16) (p : PosIx), s.takes →
    exec (.pqry tag [byte p]) s =
      .next
        ({ s with
          pos := upd s.pos p fun x => { x with presentChanged := false, muteChanged := false } }.replied
          tag (ascii4 'P' 'Q' 'R' 'Y') [byte p]
          (.ok
            ([(look s.pos p).role.code, (look s.pos p).state.code, flagByte (look s.pos p).present,
                flagByte (look s.pos p).linkValid, flagByte (look s.pos p).keyHeld,
                flagByte (look s.pos p).hostMute,
                flagByte ((look s.pos p).present &&
                  ((look s.pos p).keyHeld || (look s.pos p).hostMute)),
                flagByte (look s.pos p).presentChanged, flagByte (look s.pos p).muteChanged,
                (look s.pos p).floors, byte (look s.pos p).defaultGroup, flagByte (look s.pos p).nesting,
                sbyte (look s.pos p).gain, byte (look s.pos p).coachDuck, byte (look s.sup p).level,
                sbyte (look s.sup p).threshold, ixByte (look s.pos p).bound] ++
              ((look s.pos p).coach.elim [0xFF, 0xFF, 0]
                fun l => [byte l.partner, l.side.code, flagByte l.active]))))

/-- PMUT stores the host mute flag in every position state. A change of effective mute sets MUTE_CHANGED, or
has its record entered, and starts or stops comfort noise; with no cue route nothing else changes (R6, R17,
R66). -/
def Obligations.PmutSetsHostMute : Prop :=
  ∀ (s : State) (tag : BitVec 16) (p : PosIx) (mute : Bool) (x : Position) (k : EventKind), s.takes →
    x = { look s.pos p with hostMute := mute } → k = (if x.muted then .muteOn else .muteOff) →
    ∃ (t : State) (gen : Option Generator) (n : Nat),
      exec (.pmut tag [byte p, flagByte mute]) s = .next t ∧
      gen.isSome = x.muted ∧
      ((look s.sup p).generator.isSome = x.muted → gen = (look s.sup p).generator) ∧
      t.sup = (upd s.sup p fun c => { c with generator := gen }) ∧
      t.pos = put s.pos p
        { x with
          muteChanged := if x.muted = (look s.pos p).muted then x.muteChanged else !s.router.enters k } ∧
      (x.muted = (look s.pos p).muted ∨ s.noCueRoutes →
        t =
          { s with
            pos := t.pos, sup := t.sup, nonce := n
            router :=
              if x.muted = (look s.pos p).muted then s.router
              else s.router.record k (.position p) (detail2 (flagByte x.keyHeld) (flagByte mute)) }.replied
            tag (ascii4 'P' 'M' 'U' 'T') [byte p, flagByte mute] (.ok []))

/-- PLPB on moves an IDLE position without a whisper entry to LOOPBACK, PLPB off moves a position out of
LOOPBACK to IDLE, and both are otherwise answered STATE (R18, R19). -/
def Obligations.PlpbMovesLoopback : Prop :=
  ∀ (s : State) (tag : BitVec 16) (p : PosIx), s.takes →
    exec (.plpb tag [byte p, 1]) s =
      .next
        (if (look s.pos p).state = .idle ∧ (look s.whisper p).queue = [] ∧
            (look s.whisper p).stack = [] ∧
            ((look s.whisper p).playing = .none ∨ (look s.whisper p).playing = .coach) then
          { s with pos := upd s.pos p fun x => { x with state := .loopback } }.replied tag
            (ascii4 'P' 'L' 'P' 'B') [byte p, 1] (.ok [])
        else s.replied tag (ascii4 'P' 'L' 'P' 'B') [byte p, 1] (.refuse .state)) ∧
    exec (.plpb tag [byte p, 0]) s =
      .next
        (if (look s.pos p).state = .loopback then
          { s with pos := upd s.pos p fun x => { x with state := .idle } }.replied tag
            (ascii4 'P' 'L' 'P' 'B') [byte p, 0] (.ok [])
        else s.replied tag (ascii4 'P' 'L' 'P' 'B') [byte p, 0] (.refuse .state))

/-- A valid subframe that completes no debounce sets the link-valid flag, restarts the link timer at 20 ms,
takes the mute key while the present flag is set, and starts, keeps or abandons the debounce; an invalid
one changes nothing (R4, R5, R6). -/
def Obligations.SubframeUpdatesRecord : Prop :=
  ∀ (s : State) (p : PosIx) (present key : Bool) (x : Position) (k : EventKind), s.postings = [] →
    x =
      { look s.pos p with
        linkValid := true
        linkTimer := some 160
        keyHeld := if (look s.pos p).present then key else (look s.pos p).keyHeld
        debounce :=
          if present = (look s.pos p).present then none
          else ((look s.pos p).debounce <|> some { toPresent := present, run := 0 }) } →
    k = (if x.muted then .muteOn else .muteOff) →
    exec (.statusSubframe p present key false) s = .next s ∧
    (present = (look s.pos p).present ∨ (∀ d, (look s.pos p).debounce = some d → d.run < 400) →
      ∃ (t : State) (gen : Option Generator) (n : Nat),
        exec (.statusSubframe p present key true) s = .next t ∧
        (x.present = true → gen.isSome = x.muted) ∧
        (x.present = false ∨ (look s.sup p).generator.isSome = x.muted →
          gen = (look s.sup p).generator) ∧
        t.sup = (upd s.sup p fun c => { c with generator := gen }) ∧
        t.pos = put s.pos p
          { x with
            muteChanged := if x.muted = (look s.pos p).muted then x.muteChanged else !s.router.enters k } ∧
        (x.muted = (look s.pos p).muted ∨ s.noCueRoutes →
          t =
            { s with
              pos := t.pos, sup := t.sup, nonce := n
              router :=
                if x.muted = (look s.pos p).muted then s.router
                else s.router.record k (.position p)
                  (detail2 (flagByte x.keyHeld) (flagByte x.hostMute)) }))

/-- A valid subframe that shows a headset for 50 ms or more makes the position present and IDLE: it takes the
key, raises HEADSET_ON and, if effective mute is set by it, MUTE_ON, and resets the noise profile (R5, R8,
R63). -/
def Obligations.HeadsetArrives : Prop :=
  ∀ (s : State) (p : PosIx) (key : Bool) (d : Debounce) (r : Router), s.postings = [] →
    (look s.pos p).present = false → (look s.pos p).debounce = some d → 400 ≤ d.run →
    r = s.router.record .headsetOn (.position p) (detail1 (look s.pos p).role.code) →
    ∃ (t : State) (gen : Option Generator) (n : Nat),
      exec (.statusSubframe p true key true) s = .next t ∧
      gen.isSome = (key || (look s.pos p).hostMute) ∧
      t.sup = (upd s.sup p fun c =>
        { c with
          bands := List.replicate 16 (-960), learned := 0, floor := -96, speech := false, hangover := 0,
          early := [], gather := [], deliver := [], generator := gen }) ∧
      t.pos = (upd s.pos p fun x =>
        { x with
          present := true, linkValid := true, linkTimer := some 160, keyHeld := key, state := .idle,
          debounce := none
          presentChanged := !s.router.enters .headsetOn
          muteChanged := if key || x.hostMute then !r.enters .muteOn else x.muteChanged }) ∧
      (s.noCueRoutes →
        t =
          { s with
            pos := t.pos, sup := t.sup, nonce := n
            router :=
              if key || (look s.pos p).hostMute then
                r.record .muteOn (.position p)
                  (detail2 (flagByte key) (flagByte (look s.pos p).hostMute))
              else r })

/-- A headset loss, by a completed debounce or at the link timer's expiry: the position is ABSENT with its key
released and its settings kept, no whisper entry is left, the suppressor's alarm and comfort noise end and its
profile stays, and the bound leg stands at the tail of the position's default group, not connecting and owned as
before (R4, R10, R32, R63, R125). A pair the position takes part in ends, its links cleared and a supervisor
left IDLE (R9, R131). PRESENT_CHANGED is set unless the record of HEADSET_OFF enters the queue, and MUTE_CHANGED
follows each change of effective mute so (R6, R168). Where the loss starts no cursor, prompt or reclaim, its
records are, in order: MUTE_ON or MUTE_OFF for the subframe's key, HEADSET_OFF, MUTE_OFF, LEG_AUTO_PARKED and
COACH_ENDED. That the subframe which completes a loss takes its key first, with a record of its own ahead of
HEADSET_OFF, is the model's choice, log 25. An expiry with no headset clears the link-valid flag, and one that
is not due does nothing (log 3). -/
def Obligations.HeadsetLossParksLeg : Prop :=
  ∀ (s : State) (p : PosIx), s.bindingsConsistent → s.postings = [] →
    ((look s.pos p).linkTimer ≠ some 0 → exec (.linkTimerExpiry p) s = .next s) ∧
    ((look s.pos p).linkTimer = some 0 → (look s.pos p).present = false →
      exec (.linkTimerExpiry p) s =
        .next { s with
          pos := upd s.pos p fun x =>
            { x with linkValid := false, linkTimer := none, debounce := none } }) ∧
    ∀ c : Instr,
      (c = .linkTimerExpiry p ∧ (look s.pos p).linkTimer = some 0) ∨
        (∃ key d, c = .statusSubframe p false key true ∧ (look s.pos p).debounce = some d ∧
          400 ≤ d.run) →
      (look s.pos p).present = true →
      ∀ (key was now : Bool) (pair : Option Pair) (r0 r1 r2 r3 : Router),
      key = (match c with
        | .statusSubframe _ _ k _ => k
        | _ => (look s.pos p).keyHeld) →
      was = ((look s.pos p).keyHeld || (look s.pos p).hostMute) → now = (key || (look s.pos p).hostMute) →
      pair = s.pairOf p →
      r0 = (if now = was then s.router
        else s.router.record (if now then .muteOn else .muteOff) (.position p)
          (detail2 (flagByte key) (flagByte (look s.pos p).hostMute))) →
      r1 = r0.record .headsetOff (.position p)
        (detail2 (if c = .linkTimerExpiry p then 1 else 0) (look s.pos p).state.code) →
      r2 = (if now then r1.record .muteOff (.position p) (detail2 0 (flagByte (look s.pos p).hostMute))
        else r1) →
      r3 = (match (look s.pos p).bound with
        | some n => r2.record .legAutoParked (.leg n)
          (detail2 (ixByte (look s.legs n).owner) (byte (look s.pos p).defaultGroup))
        | none => r2) →
      ∃ t : State,
        exec c s = .next t ∧
        look t.pos p =
          { look s.pos p with
            state := .absent, present := false, keyHeld := false, bound := none, debounce := none
            presentChanged := !r0.enters .headsetOff
            muteChanged :=
              if now then !r1.enters .muteOff
              else if was then !s.router.enters .muteOff else (look s.pos p).muteChanged
            coach := if pair.isSome then none else (look s.pos p).coach
            linkValid := decide (c ≠ .linkTimerExpiry p)
            linkTimer := if c = .linkTimerExpiry p then none else some 160 } ∧
        t.pairs = s.pairs.filter (fun x => some x ≠ pair) ∧
        (∀ x q, pair = some x → q ≠ p → q = x.supervisor ∨ q = x.agent →
          look t.pos q =
            { look s.pos q with
              coach := none
              state :=
                if q = x.supervisor ∧ (look s.pos q).state = .coaching then .idle
                else (look s.pos q).state }) ∧
        (s.noCueRoutes → s.pool.wait = [] →
          (∀ n, (look s.pos p).bound = some n → (look s.legs n).state = .talking) →
          ((look s.cursors (groupCursor (look s.pos p).defaultGroup)).state ≠ .stopped ∨
            (look s.groups (look s.pos p).defaultGroup).source = none) →
          (∀ x, pair = some x → x.agent ≠ p → x.active = true →
            (look s.whisper x.agent).queue = [] ∧ (look s.whisper x.agent).stack = []) →
          t.router =
            (match pair with
            | some x => r3.record .coachEnded (.position x.agent)
              (detail2 (byte x.supervisor) EndReason.headsetLost.code)
            | none => r3)) ∧
        look t.whisper p = { queue := [], playing := .none, stack := [] } ∧
        t.sup = (upd s.sup p fun x =>
          { x with
            speech := false, hangover := 0, alarm := .normal, highTimer := 0, lowTimer := 0,
            generator := none, gather := [], deliver := [] }) ∧
        ∀ n, (look s.pos p).bound = some n →
          look t.legs n =
            { look s.legs n with
              state := .parked, bound := none, group := some (look s.pos p).defaultGroup
              parkTime := some s.router.stamp, fired := false
              timer := if (look s.legs n).state = .connecting then none else (look s.legs n).timer
              connectRef :=
                if (look s.legs n).state = .connecting then false else (look s.legs n).connectRef } ∧
          (look t.groups (look s.pos p).defaultGroup).members.getLast? = some n

/-! ## Queries -/

/-- NQRY, LQRY and GQRY answer with the learned state of a suppressor, a Leg Record with its canceller, and a
hold group with its members, and change nothing (R41, R71, R112; the rounding of a connect time that is no
whole millisecond is log 22). -/
def Obligations.CallQueriesReportRecords : Prop :=
  ∀ (s : State) (tag : BitVec 16) (p : PosIx) (n : LegIx) (g : GroupIx), s.takes →
    exec (.nqry tag [byte p]) s =
      .next (s.replied tag (ascii4 'N' 'Q' 'R' 'Y') [byte p]
        (.ok ([sbyte (look s.sup p).floor, (look s.sup p).alarm.code] ++ le2 (look s.sup p).learned ++
          flagByte (look s.sup p).speech :: (look s.sup p).bands.flatMap tenths2))) ∧
    exec (.lqry tag [byte n]) s =
      .next (s.replied tag (ascii4 'L' 'Q' 'R' 'Y') [byte n]
        (.ok ([(look s.legs n).state.code, ixByte (look s.legs n).bound, ixByte (look s.legs n).owner,
            ixByte (look s.legs n).group] ++
          le4None (if (look s.legs n).group.isSome then
            (look s.legs n).parkTime.map fun t => (s.router.stamp - t).toNat else none) ++
          flagByte (look s.legs n).fired :: le2None ((look s.legs n).timer.map msLeft) ++
          [flagByte (look s.legs n).connectRef, (look s.legs n).mode.code, byte (look s.legs n).tail,
            (look s.can n).state.code, byte (look s.can n).held.length,
            flagByte (look s.can n).reclaimed, flagByte (look s.can n).doubleTalk,
            byte (look s.can n).erle]))) ∧
    exec (.gqry tag [byte g]) s =
      .next (s.replied tag (ascii4 'G' 'Q' 'R' 'Y') [byte g]
        (.ok ([ixByte (look s.groups g).source,
            flagByte ((look s.groups g).source.any fun q => !(look s.cues q).items.isEmpty),
            flagByte (look s.groups g).resume] ++ le2 (look s.groups g).alarm ++
          flagByte (look s.groups g).pendingChange ::
          ((look s.groups g).point.elim [0xFF, 0xFF, 0xFF, 0xFF, 0xFF]
            fun x => byte x.index :: le4 x.shown) ++
          [(look s.cursors (groupCursor g)).state.code,
            ixByte ((look s.cursors (groupCursor g)).snapshot.map Snapshot.cue),
            byte (look s.groups g).members.length] ++
          (look s.groups g).members.map fun m => byte m.val)))

/-- SPQY answers with the counts of the pool and up to 64 entries of its wait list, CQRY with a cue list or a
cursor, LIST with up to 16 entries of the directory from an id on, or BUSY while SCANNING, and STOR with
the store's state, sector counts, queues and flash operation; none changes anything (R86, R89, R160, R161;
the item count of a cursor with no snapshot and what STOR reports with no current erase are log 31, the
rounding of a running time log 22). -/
def Obligations.PlaybackAndStoreQueriesReport : Prop :=
  (∀ (s : State) (tag : BitVec 16) (i : Nat) (q : CueIx) (c : CurIx), s.takes → i ≤ 119 →
     exec (.spqy tag [byte i]) s =
       .next (s.replied tag (ascii4 'S' 'P' 'Q' 'Y') [byte i]
         (.ok (le2 s.pool.free ++ le2 s.pool.legHeld ++ le2 s.pool.cursorHeld ++ [byte s.pool.reserve] ++
           le2 (384 - s.pool.reserve) ++
           [byte s.pool.wait.length, byte i, byte ((s.pool.wait.drop i).take 64).length] ++
           ((s.pool.wait.drop i).take 64).flatMap WaitEntry.bytes))) ∧
     exec (.cqry tag [0, byte q]) s =
       .next (s.replied tag (ascii4 'C' 'Q' 'R' 'Y') [0, byte q]
         (.ok ([byte (look s.cues q).duck, byte (look s.cues q).items.length] ++
           (look s.cues q).items.flatMap Item.bytes))) ∧
     exec (.cqry tag [1, byte c]) s =
       .next (s.replied tag (ascii4 'C' 'Q' 'R' 'Y') [1, byte c]
         (.ok ([(look s.cursors c).state.code, if c.val < 8 then byte c.val else byte (c.val - 8),
             ixByte ((look s.cursors c).snapshot.map Snapshot.cue),
             byte ((look s.cursors c).snapshot.elim 0 fun x => x.items.length),
             byte (look s.cursors c).index] ++
           le4 (look s.cursors c).place ++ flagByte (decide (c.val < 8)) ::
           ((look s.cursors c).ring.elim [0xFF, 0xFF, 0xFF, 0xFF, 0xFF, 0xFF] fun r =>
             le2 (look r 0).num ++ (look r 0).state.code :: le2 (look r 1).num ++
               [(look r 1).state.code]) ++
           [ixByte (look s.cursors c).clip, flagByte (look s.cursors c).refill.isSome,
             flagByte (look s.cursors c).underrun])))) ∧
  (∀ (s : State) (tag : BitVec 16) (id : ClipIx), s.takes → id ≠ 0 →
     ∃ page : List (List Byte),
       page = ((List.finRange 128).filterMap fun i =>
         if id ≤ i then (s.store.clip i).map fun c =>
           [byte i, c.state.code, byte c.first] ++ le2 c.sectors ++ le3 c.samples ++
             [byte ((if c.prot then 1 else 0) + (if c.finishing then 2 else 0)), byte c.refs] ++
             le3 (if c.state = .writing then c.remaining else 0)
         else none).take 16 ∧
       exec (.listClips tag [byte id]) s =
         .next (s.replied tag (ascii4 'L' 'I' 'S' 'T') [byte id]
           (if s.store.state = .scanning then .refuse .busy
           else .ok ([byte s.store.clipCount, byte page.length] ++ page.flatten))) ∧
       exec (.stor tag []) s =
         .next (s.replied tag (ascii4 'S' 'T' 'O' 'R') []
           (.ok (s.store.state.code ::
             ([some .erased, some .reserved, some .clip, some .queued, some .erasing, some .bad,
               none].flatMap fun x => le2 (s.store.countSectors x)) ++
             le2 s.store.eraseQueue.length ++
             [flagByte s.store.runOpen, byte s.store.refills.length, s.store.opCode] ++
             le2None (s.store.erase.map fun e => e.sector.val) ++
             le2None (s.store.erase.map fun e => e.suspends) ++
             le2None (s.store.erase.map fun e => msLeft e.run)))))

/-! ## The highway frame -/

/-- What one highway frame puts on the slots. Outbound: silence of a FREE leg; the group cursor's sample, one
for all, of legs that stand in a group; of a TALKING leg its position's suppressed microphone, or comfort noise
while that is muted, with the supervisor's microphone in BARGE. Earpiece, under the position's gain and limited:
silence of an ABSENT position; in LOOPBACK its own microphone; while IDLE the prompt; while ENGAGED the trunk of
a TALKING leg, ducked by the playing prompt's duck or by the coach duck, the prompt, and an active supervisor's
microphone; while COACHING the listen mix, ducked by the supervisor's own prompt alone, and the prompt. The
trunk is heard after echo cancellation (R11, R12, R13, R37, R38, R39, R40, R44, R60, R67, R96, R108; what a tap
contributes to the echo estimate is free, log 12; how a product, a tone and the noise are rounded is left open,
log 11, log 15 and log 16; the level of a tone is log 58; a microphone before its first block is log 52; a slot
the frame does not give is silence, log 36; the order within the frame is log 37). -/
def Obligations.HighwayFrameMixesSamples : Prop :=
  ∀ (s : State) (mic trunk : List Sample),
    ∃ (t : State) (clean : LegIx → Int) (heard : Option LegIx → Nat → Int),
      exec (.highwayFrame mic trunk) s = .next t ∧
      (∀ n, clean n =
        if (look s.can n).state ∈ [.held, .converging, .converged] then
          (limit16 ((trunk.getD n.val 0).toInt -
            echoEstimate (look s.can n).taps
              ((look t.outbound n :: (look s.can n).history).take 1024))).toInt
        else (trunk.getD n.val 0).toInt) ∧
      (∀ duck, heard none duck = 0) ∧
      (∀ n duck, heard (some n) duck =
        if (look s.legs n).state = .talking then gainDb (-duck) (clean n) else 0) ∧
      (∀ n, (look s.legs n).state = .free → look t.outbound n = 0) ∧
      (∀ n g, (look s.legs n).state = .parked ∨ (look s.legs n).state = .connecting →
        (look s.legs n).group = some g → look t.outbound n = s.sampleOf (groupCursor g)) ∧
      (∀ n p, (look s.legs n).state = .talking → (look s.legs n).bound = some p →
        look t.outbound n =
          limit16
            ((if (look s.pos p).present ∧ ((look s.pos p).keyHeld ∨ (look s.pos p).hostMute) then
                s.noiseOf p
              else s.micOf p) +
            (s.pairs.find? fun x => x.agent = p).elim 0 fun x =>
              if x.active ∧ x.mode = .barge then s.openMicOf x.supervisor else 0)) ∧
      (∀ (p : PosIx) (pos : Position) (prompt : Sample) (cue : Nat), pos = look s.pos p →
        prompt = s.sampleOf (posCursor p) →
        cue = (if (look s.whisper p).playing = .none ∨ (look s.whisper p).playing = .coach then 0
          else (look s.cursors (posCursor p)).snapshot.elim 0 Snapshot.duck) →
        look t.earpiece p =
          limit16 (gainDb pos.gain
            (match pos.state with
            | .absent => 0
            | .idle => prompt.toInt
            | .loopback => s.micOf p
            | .engaged =>
              heard pos.bound (if (look s.whisper p).playing = .coach then pos.coachDuck else cue) +
                prompt.toInt +
                pos.coach.elim 0 fun l =>
                  if l.side = .agent ∧ l.active then s.openMicOf l.partner else 0
            | .coaching =>
              (pos.coach.elim 0 fun l =>
                if l.side = .supervisor ∧ l.active then
                  heard (look s.pos l.partner).bound cue + s.openMicOf l.partner
                else 0) + prompt.toInt)))

/-- One highway frame is 0.125 ms in every counter: link timers, debounces, connect timers, announcement
delays, the quiet window, a program and a running erase, the timestamp counter at every eighth, and the
gap of a frame being received. A PLAYING cursor moves one frame on in its item: the time left of SILENCE,
TONE and the second after an empty pass falls by one, a tone's phase runs on (log 15), and a CLIP item's
offset rises by one with the sample read; any other cursor, and one at its item's end, stands still. A segment
read out becomes EMPTY, and the other plays if it is FULL; then the next refill is asked for (R94). With no
segment to play and samples left the underrun mark is set, with CURSOR_UNDERRUN where it was clear; while no
segment is PLAYING, in an underrun or before the first refill, offset and segments stand as they are (R97).
Cancellers keep their state and take the outbound into their history; suppressors of present positions
gather the microphone. Whisper states, groups, pairs, pool, flash, link, routes and delivery mode are as
before; so are queue and overflow flag, and the flash's operation but for its time, while no cursor plays
(R4, R5, R28, R44, R60, R96, R132, R149, R164; log 2). The model's own choice is that a slot the frame does
not give is silence (log 36), that the timestamp counter steps at every eighth frame from reset (log 43), and
that a block and a window whose end has not been commanded gather and count on (log 30). -/
def Obligations.HighwayFrameCountsTime : Prop :=
  ∀ (s : State) (mic trunk : List Sample),
    ∃ t : State, exec (.highwayFrame mic trunk) s = .next t ∧
      (∀ p, look t.pos p =
        { look s.pos p with
          linkTimer := (look s.pos p).linkTimer.map (· - 1)
          debounce := (look s.pos p).debounce.map fun d => { d with run := d.run + 1 } }) ∧
      (∀ n, look t.legs n =
        { look s.legs n with timer := (look s.legs n).timer.map (· - 1) }) ∧
      (∀ k, look t.slots k = (look s.slots k).map fun a => { a with left := a.left - 1 }) ∧
      (∀ n, (look t.can n).state = (look s.can n).state ∧
        (look t.can n).history = (look t.outbound n :: (look s.can n).history).take 1024 ∧
        (look t.can n).held.map HeldSeg.num = (look s.can n).held.map HeldSeg.num ∧
        (look t.can n).window.count = (look s.can n).window.count +
          (if (look s.can n).state = .converging ∨ (look s.can n).state = .converged then 1 else 0)) ∧
      (∀ p, (look t.sup p).gather = (look s.sup p).gather ++
          (if (look s.pos p).present then [mic.getD p.val 0] else []) ∧
        (look t.sup p).deliver = (look s.sup p).deliver.drop (if (look s.pos p).present then 1 else 0)) ∧
      (∀ (c : CurIx) (cur : Cursor), cur = look s.cursors c →
        (cur.state ≠ .playing ∨ cur.atEnd s.store = true → look t.cursors c = cur) ∧
        (cur.state = .playing → cur.atEnd s.store = false →
          (∀ k ms, cur.item = some (.tone k ms) →
            look t.cursors c = { cur with place := cur.place - 1, phase := cur.phase + 50 * toneHz k }) ∧
          ((cur.item = none ∨ ∃ ms, cur.item = some (.silence ms)) →
            look t.cursors c = { cur with place := cur.place - 1 }) ∧
          (∀ id gain, cur.item = some (.clip id gain) →
            (∀ r, cur.ring = some r → ∀ b, (look r b).state ≠ .playing) →
            look t.cursors c = cur ∧
            ((∀ d, d ≠ c → (look s.cursors d).state ≠ .playing) →
              t.router.notices = s.router.notices ∧ t.store.refills = s.store.refills)) ∧
          (∀ id gain r b x xs, cur.item = some (.clip id gain) → cur.ring = some r →
            playingSeg r = some b → (look r b).data = x :: xs →
            (look t.cursors c).place = cur.place + 1 ∧ (look t.cursors c).index = cur.index ∧
            (look t.cursors c).state = .playing ∧ (look t.cursors c).snapshot = cur.snapshot ∧
            (look t.cursors c).clip = cur.clip ∧
            ∀ (o : Fin 2) (ring : Vector RingSeg 2) (starved : Bool), cur.clip = some id → o ≠ b →
              look ring b =
                { look r b with state := if xs = [] then .empty else .playing, data := xs } →
              look ring o =
                { look r o with
                  state := if xs = [] ∧ (look r o).state = .full then .playing else (look r o).state } →
              starved = (decide (cur.place + 1 < s.store.samplesOf id) &&
                decide (∀ x, (look ring x).state ≠ .playing)) →
              t.asksFor c cur ring id ∧ (look t.cursors c).underrun = (cur.underrun || starved) ∧
              ((∀ d, d ≠ c → (look s.cursors d).state ≠ .playing) →
                t.router.notices =
                  (if starved && !cur.underrun then
                    s.router.record .cursorUnderrun (ownerSubject c) (detail1 (byte id))
                  else s.router).notices)))) ∧
      t.whisper = s.whisper ∧ t.groups = s.groups ∧ t.pairs = s.pairs ∧ t.cues = s.cues ∧
      t.pool = s.pool ∧ t.flash = s.flash ∧ t.pending = s.pending ∧ t.postings = s.postings ∧
      t.link =
        { s.link with gap := if s.link.assembler = .hunting then 0 else s.link.gap + 1 } ∧
      t.store.quiet = s.store.quiet.map (· - 1) ∧
      t.router =
        { s.router with
          phase := if 7 ≤ s.router.phase then 0 else s.router.phase + 1
          stamp := if 7 ≤ s.router.phase then s.router.stamp + 1 else s.router.stamp
          notices := t.router.notices, overflow := t.router.overflow } ∧
      ((∀ c, (look s.cursors c).state ≠ .playing) →
        t.cursors = s.cursors ∧ t.router.notices = s.router.notices ∧
        t.router.overflow = s.router.overflow ∧
        (∀ p, s.store.op = .program p → t.store.op = .program { p with run := p.run + 1 }) ∧
        (∀ e, s.store.erase = some e →
          t.store.erase =
            some (if e.phase = .running then { e with run := e.run + 1, since := e.since + 1 } else e)))

/-! ## Legs -/

/-- BIND without a cue of a FREE or PARKED leg to an IDLE position: the leg talks, bound to the position and
owned by it, out of its group, and the position is ENGAGED; its canceller's reclaimed mark is clear. Of a
leg in a call, or to a position that is not IDLE, BIND is answered STATE (R25, R26, R45). -/
def Obligations.BindWithoutCueTalks : Prop :=
  ∀ (s : State) (tag : BitVec 16) (n : LegIx) (p : PosIx) (wait : Nat) (payload : List Byte), s.takes →
    wait ≤ 30 → payload = [byte n, byte p, 0xFF, byte wait] →
    ((look s.legs n).state = .free ∨ (look s.legs n).state = .parked → (look s.pos p).state = .idle →
      ∃ t : State, exec (.bind tag payload) s = .next t ∧
        t.link = s.link.answered tag (ascii4 'B' 'I' 'N' 'D') payload (.ok []) ∧
        look t.legs n =
          { look s.legs n with
            state := .talking, bound := some p, owner := some p, group := none, parkTime := none } ∧
        look t.pos p =
          { look s.pos p with state := .engaged, bound := some n, coach := (look t.pos p).coach } ∧
        ((∀ x ∈ s.pairs, x.agent ≠ p) →
          t.pos = upd s.pos p fun x => { x with state := .engaged, bound := some n }) ∧
        (look t.can n).reclaimed = false ∧
        (s.noCueRoutes → ∀ g, (look s.legs n).group = some g →
          (look t.groups g).members = (look s.groups g).members.filter (· ≠ n))) ∧
    ((look s.legs n).state = .connecting ∨ (look s.legs n).state = .talking ∨
        (look s.pos p).state ≠ .idle →
      exec (.bind tag payload) s =
        .next (s.replied tag (ascii4 'B' 'I' 'N' 'D') payload (.refuse .state)))

/-- BIND with a cue: the leg is CONNECTING with its timer at the time asked for, 8 s for 0, standing in its
group, or in the position's default group if it was FREE, unless its connect entry completed as it started
and it talks already. A list that begins with SILENCE, TONE or a VALID clip, at a position with nothing to
play, leaves the leg CONNECTING with the connect entry playing: its cursor is started at item 0, and STARTING
with a reference in a clip (R27, R28, R92, R93, R116). -/
def Obligations.BindWithCueConnects : Prop :=
  ∀ (s : State) (tag : BitVec 16) (n : LegIx) (p : PosIx) (q : CueIx) (wait : Nat) (payload : List Byte),
    s.takes → s.bindingsConsistent → wait ≤ 30 → payload = [byte n, byte p, byte q, byte wait] →
    (look s.legs n).state = .free ∨ (look s.legs n).state = .parked → (look s.pos p).state = .idle →
    (look s.cues q).items ≠ [] → (look s.whisper p).queue.length < 8 →
    ∃ (t : State) (l : Leg), exec (.bind tag payload) s = .next t ∧
      t.link = s.link.answered tag (ascii4 'B' 'I' 'N' 'D') payload (.ok []) ∧
      look t.pos p =
        { look s.pos p with state := .engaged, bound := some n, coach := (look t.pos p).coach } ∧
      l =
        { look s.legs n with
          bound := some p, owner := some p
          fired := if (look s.legs n).state = .free then false else (look s.legs n).fired } ∧
      (look t.legs n =
          { l with
            state := .connecting, connectRef := true
            timer := some (8000 * if wait = 0 then 8 else wait)
            group := if l.state = .free then some (look s.pos p).defaultGroup else l.group
            parkTime := if l.state = .free then some s.router.stamp else l.parkTime } ∨
        look t.legs n =
          { l with
            state := .talking, group := none, parkTime := none, timer := none, connectRef := false }) ∧
      (s.canEnter (look s.cues q).items →
        look s.whisper p = { queue := [], playing := .none, stack := [] } →
        (∀ x ∈ s.pairs, x.agent ≠ p) → s.noCueRoutes →
        (look t.legs n).state = .connecting ∧
        ((look s.cursors (posCursor p)).state = .stopped → t.startedAt (posCursor p) q 0 0) ∧
        look t.whisper p =
          { queue := [], stack := []
            playing := .prompt
              { cue := q, level := .urgent, origin := .connect, resume := .resume, connect := true,
                saved := none, holdsCursor := false } })

/-- PARK of a leg in any state: it is PARKED at the tail of the group, owned as before, its park time set anew
and its alarm flag clear; a leg in a call has left its position, which is IDLE, and a connecting one its
timer and its connect entry reference (R22, R23, R24). RELS of a leg that is not FREE: the leg is FREE and
in no group, with its echo mode and tail kept, its position is IDLE, and its canceller has the reset values
but for the tail; of a FREE leg it is answered STATE (R33, R49). By either an active pair of the position is
pending again, with both links, and the coach leaves the agent's playing place (R129). -/
def Obligations.ParkAndRelsEndCall : Prop :=
  (∀ (s : State) (tag : BitVec 16) (n : LegIx) (g : GroupIx), s.takes → s.bindingsConsistent →
     ∃ t : State, exec (.park tag [byte n, byte g]) s = .next t ∧
       t.link = s.link.answered tag (ascii4 'P' 'A' 'R' 'K') [byte n, byte g] (.ok []) ∧
       look t.legs n =
         { look s.legs n with
           state := .parked, bound := none, group := some g, parkTime := some s.router.stamp, fired := false
           timer := if (look s.legs n).state = .connecting then none else (look s.legs n).timer
           connectRef :=
             if (look s.legs n).state = .connecting then false else (look s.legs n).connectRef } ∧
       (look t.groups g).members.getLast? = some n ∧
       (∀ o, (look s.legs n).group = some o → o ≠ g → n ∉ (look t.groups o).members) ∧
       (∀ p, look t.pos p =
         if (look s.legs n).bound = some p then
           { look s.pos p with state := .idle, bound := none, coach := (look t.pos p).coach }
         else { look s.pos p with coach := (look t.pos p).coach }) ∧
       ∀ p, (look s.legs n).bound = some p → s.pairSuspended t p) ∧
  (∀ (s : State) (tag : BitVec 16) (n : LegIx), s.takes → s.bindingsConsistent →
     ((look s.legs n).state = .free →
       exec (.rels tag [byte n]) s =
         .next (s.replied tag (ascii4 'R' 'E' 'L' 'S') [byte n] (.refuse .state))) ∧
     ((look s.legs n).state ≠ .free →
       ∃ t : State, exec (.rels tag [byte n]) s = .next t ∧
         t.link = s.link.answered tag (ascii4 'R' 'E' 'L' 'S') [byte n] (.ok []) ∧
         look t.legs n =
           { look s.legs n with
             state := .free, bound := none, owner := none, group := none, parkTime := none, fired := false
             timer := if (look s.legs n).state = .connecting then none else (look s.legs n).timer
             connectRef :=
               if (look s.legs n).state = .connecting then false else (look s.legs n).connectRef } ∧
         look t.can n = { Canceller.reset with tail := (look s.can n).tail } ∧
         t.pool.waits (.leg n) = false ∧
         (∀ g, (look s.legs n).group = some g → n ∉ (look t.groups g).members) ∧
         (∀ p, look t.pos p =
           if (look s.legs n).bound = some p then
             { look s.pos p with state := .idle, bound := none, coach := (look t.pos p).coach }
           else { look s.pos p with coach := (look t.pos p).coach }) ∧
         ∀ p, (look s.legs n).bound = some p → s.pairSuspended t p))

/-- A connect timer at zero: the leg talks, out of its group, no connect entry is left at its position, and
CUT_THROUGH with cause TIMEOUT is in the queue. A park alarm due: the fired flag is set and PARK_ALARM
raised. Where they are not due nothing happens (R30, R31, R35; log 3). -/
def Obligations.LegTimersExpire : Prop :=
  ∀ (s : State) (n : LegIx), s.bindingsConsistent → s.postings = [] →
    (¬((look s.legs n).state = .connecting ∧ (look s.legs n).timer = some 0) →
      exec (.connectTimerExpiry n) s = .next s) ∧
    ((look s.legs n).state = .connecting → (look s.legs n).timer = some 0 →
      ∃ t : State, exec (.connectTimerExpiry n) s = .next t ∧
        look t.legs n =
          { look s.legs n with
            state := .talking, group := none, parkTime := none, timer := none, connectRef := false } ∧
        t.pos = s.pos ∧
        (∀ p, (look s.legs n).bound = some p →
          (look t.whisper p).hasConnect = false ∧
          (s.noCueRoutes → (s.router.route .cutThrough).notify = true →
            t.router.overflow = true ∨
              t.router.notices.getLast? =
                some
                  { kind := .cutThrough, subject := .leg n, stamp := s.router.stamp
                    detail := detail2 2 (ixByte (look s.legs n).owner) }))) ∧
    ((look s.legs n).state ≠ .parked ∨ (look s.legs n).fired = true →
      exec (.parkAlarmExpiry n) s = .next s) ∧
    (∀ g t0, (look s.legs n).state = .parked → (look s.legs n).fired = false →
      (look s.legs n).group = some g → (look s.legs n).parkTime = some t0 →
      if 0 < (look s.groups g).alarm ∧ 1000 * (look s.groups g).alarm ≤ (s.router.stamp - t0).toNat then
        ∃ t : State, exec (.parkAlarmExpiry n) s = .next t ∧ (look t.legs n).fired = true ∧
          (s.noCueRoutes →
            t =
              { s with
                legs := upd s.legs n fun l => { l with fired := true }
                router := s.router.record .parkAlarm (.leg n)
                  (detail2 (ixByte (look s.legs n).owner) (byte g)) })
      else exec (.parkAlarmExpiry n) s = .next s)

/-! ## Cancellers -/

/-- ECHO stores mode and tail in Leg Record and canceller and answers with what the canceller then is and holds.
OFF from another mode leaves it IDLE, holding nothing and waiting for nothing. From OFF a leg in a call acquires
its tail, zero taps at once or a wait entry for it, and any other leg nothing. Between the other modes segments
and taps stay, BYPASS sets the working state to CONVERGING, and the state follows from leg and mode; entry into
CONVERGING or CONVERGED begins a window that adapts as the last 32 frames of the reference history were loud. A
smaller tail gives back the last segments and withdraws a wait entry; a larger one is granted where it fits, or
waits, an entry in the list keeping its place with the new need; outside a call it is only stored. The reset
option alone leaves its segments with zero taps and a fresh start: of a window under way the rest does not
adapt, a choice of the model (log 29), and one about to begin adapts by the reference alone. A request that
changes nothing only answers (R43, R45, R51, R54, R55, R56, R57, R74, R83; that levels are compared exactly is
log 10). -/
def Obligations.EchoStoresSettings : Prop :=
  ∀ (s : State) (tag : BitVec 16) (n : LegIx) (mode : EchoMode) (tail : Nat) (reset : Bool)
    (payload : List Byte), s.takes → 2 ≤ tail → tail ≤ 8 →
    payload = [byte n, mode.code, byte tail, flagByte reset] →
    (∃ (t : State) (out : List Byte), exec (.echo tag payload) s = .next t ∧
      t.link = s.link.answered tag (ascii4 'E' 'C' 'H' 'O') payload (.ok out) ∧ out.length = 2 ∧
      (look t.legs n).mode = mode ∧ (look t.legs n).tail = tail ∧ (look t.can n).tail = tail ∧
      (s.noCueRoutes →
        out = [(look t.can n).state.code, byte (look t.can n).held.length] ∧
        t.legs = upd s.legs n fun l => { l with mode := mode, tail := tail }) ∧
      (mode = .off → (look s.legs n).mode ≠ .off →
        (look t.can n).held = [] ∧ (look t.can n).state = .idle ∧ t.pool.waits (.leg n) = false) ∧
      (mode = (look s.legs n).mode → tail = (look s.legs n).tail → reset = true →
        (look s.can n).held ≠ [] →
        (look t.can n).held =
          (look s.can n).held.map (fun h => { h with taps := List.replicate 128 0 }) ∧
        (look t.can n).working = .converging ∧ (look t.can n).erle = 0 ∧ (look t.can n).timer = 0 ∧
        (look t.can n).doubleTalk = false ∧
        ((look s.legs n).state = .talking → mode = .on →
          (look s.can n).state = .converging ∨ (look s.can n).state = .converged →
          (look t.can n).state = .converging ∧
          (look t.can n).window =
            if (look s.can n).window.count = 0 then
              { count := 0, ref := 0, rx := 0, est := 0, res := 0
                adapts := levelAtLeast (sumSquares ((look s.can n).history.take 32)) 32 (-450) }
            else { (look s.can n).window with adapts := false })) ∧
      ∀ (l : Leg) (c c' : Canceller) (work : Working) (need : Nat) (wait : List WaitEntry),
        l = look s.legs n → c = look s.can n → c' = look t.can n → mode ≠ .off →
        work = (if mode = .bypass then .converging else c.working) → need = tail - c.held.length →
        wait = (if s.pool.waits (.leg n) then
          s.pool.wait.map fun e => if e.who = .leg n then { e with need := need } else e
          else s.pool.wait ++ [{ who := .leg n, need := need }]) →
        (l.mode = .off → c.held = [] → s.pool.waits (.leg n) = false →
          (l.state = .connecting ∨ l.state = .talking →
            (c'.held.length = tail ∧ (∀ h ∈ c'.held, h.taps = List.replicate 128 0) ∧
              t.pool.waits (.leg n) = false) ∨
            (c'.held = [] ∧ ∃ e ∈ t.pool.wait, e.who = .leg n ∧ e.need = tail)) ∧
          (l.state = .free ∨ l.state = .parked → t.pool = s.pool ∧ c'.held = [])) ∧
        (l.mode ≠ .off → mode ≠ l.mode → tail = l.tail → reset = false →
          t.pool = s.pool ∧ c'.held = c.held ∧ c'.working = work ∧ c'.erle = c.erle ∧
          (c.held ≠ [] →
            (l.state = .parked ∨ l.state = .connecting → c'.state = .held) ∧
            (l.state = .talking →
              c'.state =
                (match mode with
                | .freeze => .held
                | .bypass => .bypassed
                | _ => if work = .converging then .converging else .converged) ∧
              (mode = .on → c.state = .held ∨ c.state = .bypassed →
                c'.timer = 0 ∧
                c'.window =
                  { count := 0, ref := 0, rx := 0, est := 0, res := 0
                    adapts := levelAtLeast (sumSquares (c.history.take 32)) 32 (-450) &&
                      !c.doubleTalk })))) ∧
        (mode = l.mode → tail ≠ l.tail → reset = false → s.noCueRoutes →
          (tail ≤ c.held.length → l.state ≠ .parked ∨ s.pool.wait = [] →
            c'.held = c.held.take tail ∧ t.pool.waits (.leg n) = false ∧
            (c.state = canTable true (s.pool.waits (.leg n)) l.state mode c.working →
              c'.state = c.state) ∧
            (s.pool.wait = [] →
              t.pool.wait = [] ∧ ∀ h ∈ c.held.drop tail, look t.pool.owner h.num = .free)) ∧
          (c.held.length < tail →
            (l.state = .free ∨ l.state = .parked → t.pool = s.pool ∧ c'.held = c.held) ∧
            (l.state = .connecting ∨ l.state = .talking →
              (s.pool.wait = [] → need + (s.pool.reserve - s.pool.cursorHeld) ≤ s.pool.free →
                s.pool.legHeld + need ≤ 384 - s.pool.reserve →
                t.pool.wait = [] ∧
                c'.held =
                  c.held ++ (s.pool.lowestFree need).map fun k =>
                    { num := k, taps := List.replicate 128 0 }) ∧
              ∀ e rest, wait = e :: rest → s.pool.fits e.who e.need = false →
                (∀ m, ¬s.reclaimable m) → c'.held = c.held ∧ t.pool = { s.pool with wait := wait })))) ∧
    (mode = (look s.legs n).mode → tail = (look s.legs n).tail → tail = (look s.can n).tail →
      reset = false →
      exec (.echo tag payload) s =
        .next (s.replied tag (ascii4 'E' 'C' 'H' 'O') payload
          (.ok [(look s.can n).state.code, byte (look s.can n).held.length])))

/-- The end of a window of 32 frames in CONVERGING or CONVERGED: the double-talk flag, and where the canceller
adapted the ERLE estimate and the convergence timer; at 500 ms the working state of a TALKING leg's
canceller and its state turn, with ECHO_CONVERGED on entry to CONVERGED. The next window adapts if the
reference was loud enough and there is no double talk. Before 32 frames nothing happens
(R51, R52, R53). That powers are compared exactly is the model's choice, log 10, and so is the ERLE of a window
of digital silence, log 17. The end of a window includes the timer's expiry, and CONVERGENCE_TIMER_EXPIRY of
a timer that stands at its limit is that turn alone: the model's reading of the row, log 6. The first window
after entry into CONVERGING or CONVERGED is left out. -/
def Obligations.EchoWindowEndMeasures : Prop :=
  (∀ (s : State) (n : LegIx) (c m : Canceller), s.postings = [] → c = look s.can n →
     m =
       { c with
         doubleTalk := !ratioAtLeast c.window.est c.window.rx (-60)
         erle := if c.window.adapts then erleOf s.nonce c.window else c.erle
         timer :=
           if c.window.adapts then
             (if convergenceMet c.working (erleOf s.nonce c.window) then c.timer + 4 else 0)
           else c.timer
         window :=
           { count := 0, ref := 0, rx := 0, est := 0, res := 0
             adapts := levelAtLeast c.window.ref 32 (-450) &&
               ratioAtLeast c.window.est c.window.rx (-60) } } →
     ((c.state ≠ .converging ∧ c.state ≠ .converged) ∨ c.window.count < 32 →
       exec (.echoWindowEnd n) s = .next s) ∧
     (c.state = .converging ∨ c.state = .converged → 32 ≤ c.window.count →
       (m.timer < 500 →
         exec (.echoWindowEnd n) s = .next { s with can := put s.can n m, nonce := s.nonce + 1 }) ∧
       (500 ≤ m.timer → (look s.legs n).state = .talking → (look s.legs n).mode = .on → c.held ≠ [] →
         ∃ t : State, exec (.echoWindowEnd n) s = .next t ∧
           (c.timer < 500 → exec (.convergenceTimerExpiry n) s = .next t) ∧
           (s.noCueRoutes →
             t =
               { s with
                 nonce := s.nonce + 1
                 can := put s.can n
                   { m with
                     timer := 0
                     working := if c.working = .converging then .converged else .converging
                     state := if c.working = .converging then .converged else .converging }
                 router :=
                   if c.working = .converging then
                     s.router.record .echoConverged (.leg n) (detail1 (byte c.held.length))
                   else s.router }))) ∧
     (c.timer < 500 →
       (c.state ≠ .converging ∧ c.state ≠ .converged) ∨ c.window.count < 32 ∨ m.timer < 500 →
       exec (.convergenceTimerExpiry n) s = .next s)) ∧
  (∀ (s : State) (n : LegIx), s.postings = [] → 500 ≤ (look s.can n).timer →
     ∃ t : State, exec (.convergenceTimerExpiry n) s = .next t ∧
       (s.noCueRoutes → t.legs = s.legs ∧ t.pos = s.pos ∧ t.pool = s.pool ∧ t.cursors = s.cursors ∧
         (look t.can n).timer = 0 ∧ (look t.can n).held = (look s.can n).held ∧
         (look t.can n).working =
           (if (look s.can n).working = .converging then .converged else .converging) ∧
         ((look s.legs n).state = .talking → (look s.legs n).mode = .on → (look s.can n).held ≠ [] →
           (look t.can n).state =
             (if (look s.can n).working = .converging then .converged else .converging))))

/-! ## Suppressors -/

/-- The end of a block of 64 frames of a present position, up to a change of alarm: the speech decision with
its hangover, learning, the alarm timers, and suppression, which delivers the block unchanged at level 0
and below 500 ms of learned time; without such a block nothing happens (R60, R61, R62, R64, R68, R69).
HANGOVER_EXPIRY is that block end where it brings the hangover to its limit, or the clearing alone: log 6. That
levels are compared exactly, log 10, that band levels are free whole tenths of a dB, log 13, and how they
sum to the floor, log 14, are the model's choice. The attenuation at level 1 and above (log 13) is left out. -/
def Obligations.AnalysisBlockEndDecides : Prop :=
  ∀ (s : State) (p : PosIx) (c : Suppressor) (block : List Sample) (loud : Bool), s.postings = [] →
    c = look s.sup p → block = c.gather.take 64 →
    loud = levelExceeds (sumSquares block) 64 (10 * (c.floor + 9)) →
    ((look s.pos p).present = false ∨ c.gather.length < 64 →
      exec (.analysisBlockEnd p) s = .next s) ∧
    (c.hangover < 200 →
      (look s.pos p).present = false ∨ c.gather.length < 64 ∨ c.learned < 500 ∨ c.speech = false ∨
        loud = true ∨ c.hangover + 8 < 200 →
      exec (.hangoverExpiry p) s = .next s) ∧
    (200 ≤ c.hangover →
      exec (.hangoverExpiry p) s =
        .next { s with sup := upd s.sup p fun c => { c with speech := false, hangover := 0 } }) ∧
    ((look s.pos p).present = true → 64 ≤ c.gather.length → c.highTimer + 8 < 2000 →
      c.lowTimer + 8 < 2000 →
      ∃ (c' : Suppressor) (out : List Sample),
        exec (.analysisBlockEnd p) s = .next { s with sup := put s.sup p c' } ∧
        c'.speech =
          (if c.learned < 500 then levelAtLeast (sumSquares block) 64 (-300)
          else loud || (c.speech && decide (c.hangover + 8 < 200))) ∧
        c'.hangover =
          (if c.learned < 500 then c.hangover
          else if loud = true then 0
          else if c.speech = false then c.hangover
          else if c.hangover + 8 < 200 then c.hangover + 8 else 0) ∧
        c'.learned = (if c'.speech then c.learned else min 60000 (c.learned + 8)) ∧
        (c'.speech = true → c'.bands = c.bands ∧ c'.floor = c.floor) ∧
        (c'.speech = false → c'.floor = sumDb c'.bands ∧
          (500 ≤ c.learned →
            c'.bands = List.zipWith
              (fun est lvl => if lvl < est then max lvl (est - 10) else min lvl (est + 1))
              c.bands (bandLevels block))) ∧
        (c.alarm = .normal → c'.lowTimer = c.lowTimer ∧
          c'.highTimer =
            (if 500 ≤ c'.learned ∧ c.threshold < c'.floor then c.highTimer + 8 else 0)) ∧
        (c.alarm = .high → c'.highTimer = c.highTimer ∧
          c'.lowTimer = (if c'.floor < c.threshold - 3 then c.lowTimer + 8 else 0)) ∧
        c'.gather = c.gather.drop 64 ∧ c'.deliver = c.deliver ++ out ∧ out.length = 64 ∧
        (c.level = 0 ∨ c'.learned < 500 → out = block) ∧
        c'.alarm = c.alarm ∧ c'.level = c.level ∧ c'.threshold = c.threshold ∧
        c'.generator = c.generator ∧
        (500 ≤ c.learned → c.speech = true → loud = false → c.hangover < 200 → 200 ≤ c.hangover + 8 →
          exec (.hangoverExpiry p) s = exec (.analysisBlockEnd p) s))

/-- NORMAL to HIGH: a high timer that stands at 2,000 ms, and the end of a block that brings it there, with
500 ms learned and the floor above the threshold, change the alarm state, set both timers to 0 and raise
NOISE_HIGH with floor and threshold; the block end does so as either command (log 6). HIGH to NORMAL in the
same way, by the low timer, a floor more than 3 dB below the threshold, and NOISE_NORMAL. With the timer
short of it and no such block nothing happens (R68, R69). -/
def Obligations.AlarmTimersTurnAlarm : Prop :=
  ∀ (s : State) (p : PosIx) (c d : Suppressor) (block : List Sample) (raised : EventKind → Int → Router),
    s.postings = [] → c = look s.sup p → block = c.gather.take 64 →
    d = (c.decideSpeech block).learn (bandLevels block) →
    raised = (fun k floor => s.router.record k (.position p) (detail2 (sbyte floor) (sbyte c.threshold))) →
    (c.alarm = .normal → 2000 ≤ c.highTimer →
      ∃ t : State, exec (.highTimerExpiry p) s = .next t ∧
        t.sup = (upd s.sup p fun c => { c with alarm := .high, highTimer := 0, lowTimer := 0 }) ∧
        (s.noCueRoutes → t = { s with sup := t.sup, router := raised .noiseHigh c.floor })) ∧
    (c.alarm = .high → 2000 ≤ c.lowTimer →
      ∃ t : State, exec (.lowTimerExpiry p) s = .next t ∧
        t.sup = (upd s.sup p fun c => { c with alarm := .normal, highTimer := 0, lowTimer := 0 }) ∧
        (s.noCueRoutes → t = { s with sup := t.sup, router := raised .noiseNormal c.floor })) ∧
    ((look s.pos p).present = true → 64 ≤ c.gather.length → c.alarm = .normal → c.highTimer < 2000 →
      2000 ≤ c.highTimer + 8 → 500 ≤ d.learned → c.threshold < d.floor →
      ∃ t : State, exec (.analysisBlockEnd p) s = .next t ∧ exec (.highTimerExpiry p) s = .next t ∧
        (look t.sup p).alarm = .high ∧ (look t.sup p).highTimer = 0 ∧ (look t.sup p).lowTimer = 0 ∧
        (look t.sup p).gather = c.gather.drop 64 ∧ (look t.sup p).floor = d.floor ∧
        (s.noCueRoutes → t = { s with sup := t.sup, router := raised .noiseHigh d.floor })) ∧
    ((look s.pos p).present = true → 64 ≤ c.gather.length → c.alarm = .high → c.lowTimer < 2000 →
      2000 ≤ c.lowTimer + 8 → d.floor < c.threshold - 3 →
      ∃ t : State, exec (.analysisBlockEnd p) s = .next t ∧ exec (.lowTimerExpiry p) s = .next t ∧
        (look t.sup p).alarm = .normal ∧ (look t.sup p).highTimer = 0 ∧ (look t.sup p).lowTimer = 0 ∧
        (look t.sup p).gather = c.gather.drop 64 ∧ (look t.sup p).floor = d.floor ∧
        (s.noCueRoutes → t = { s with sup := t.sup, router := raised .noiseNormal d.floor })) ∧
    (c.alarm = .high ∨ (c.highTimer < 2000 ∧
        ((look s.pos p).present = false ∨ c.gather.length < 64 ∨ c.highTimer + 8 < 2000 ∨
          d.learned < 500 ∨ d.floor ≤ c.threshold)) →
      exec (.highTimerExpiry p) s = .next s) ∧
    (c.alarm = .normal ∨ (c.lowTimer < 2000 ∧
        ((look s.pos p).present = false ∨ c.gather.length < 64 ∨ c.lowTimer + 8 < 2000 ∨
          c.threshold - 3 ≤ d.floor)) →
      exec (.lowTimerExpiry p) s = .next s)

/-! ## Pool, cue lists, hold groups and cursors -/

/-- SPRS within range and not below what legs hold stores the reserve; it is otherwise answered BADARG or STATE.
It then runs a grant pass. A head that fits gets the lowest-numbered FREE segments; one that does not has
the candidate reclaimed whose park time is oldest, the lower leg number among equals, which loses all it
holds, stays PARKED and raises ECHO_RECLAIMED before the grant; with no candidate the head waits, and no
entry behind it is served. A new LEG entry goes to the tail of the list, a new CURSOR entry behind the last
CURSOR entry, and a change of need leaves the entry where it stands (R74, R75, R76, R77, R78, R79, R80,
R83, R85). -/
def Obligations.SprsStoresReserve : Prop :=
  (∀ (s : State) (tag : BitVec 16) (r : Nat), s.takes → r ≤ 255 →
    (112 < r →
      exec (.sprs tag [byte r]) s =
        .next (s.replied tag (ascii4 'S' 'P' 'R' 'S') [byte r] (.refuse .badarg))) ∧
    (r ≤ 112 → 384 - r < s.pool.legHeld →
      exec (.sprs tag [byte r]) s =
        .next (s.replied tag (ascii4 'S' 'P' 'R' 'S') [byte r] (.refuse .state))) ∧
    (r ≤ 112 → s.pool.legHeld ≤ 384 - r →
      ∃ (t : State) (out : List Byte), exec (.sprs tag [byte r]) s = .next t ∧
        t.link = s.link.answered tag (ascii4 'S' 'P' 'R' 'S') [byte r] (.ok out) ∧
        t.pool.reserve = r ∧
        (s.noCueRoutes →
          out = byte r :: (le2 t.pool.free ++ le2 t.pool.legHeld ++ le2 t.pool.cursorHeld)) ∧
        (s.pool.wait = [] →
          t = { s with pool := { s.pool with reserve := r } }.replied tag (ascii4 'S' 'P' 'R' 'S')
            [byte r] (.ok out)))) ∧
  (∀ (s : State) (tag : BitVec 16) (r : Nat) (p : Pool) (e : WaitEntry) (ws : List WaitEntry), s.takes →
    s.noCueRoutes → r ≤ 112 → s.pool.legHeld ≤ 384 - r → p = { s.pool with reserve := r } →
    p.wait = e :: ws →
    (∀ n, e.who = .leg n →
      p.fits e.who e.need =
        decide (e.need + (r - p.cursorHeld) ≤ p.free ∧ p.legHeld + e.need ≤ 384 - r)) ∧
    (∀ c, e.who = .cursor c → p.fits e.who e.need = decide (e.need ≤ p.free)) ∧
    (p.fits e.who e.need = false → (∀ n, ¬s.reclaimable n) →
      ∃ out, exec (.sprs tag [byte r]) s =
        .next ({ s with pool := p }.replied tag (ascii4 'S' 'P' 'R' 'S') [byte r] (.ok out))) ∧
    (∀ (n : LegIx) (freed : Pool), p.fits e.who e.need = false → s.reclaimable n →
      (∀ m, m ≠ n → s.reclaimable m →
        s.parkAge m < s.parkAge n ∨ (s.parkAge m = s.parkAge n ∧ n < m)) →
      e.who ≠ .leg n → freed = p.mark ((look s.can n).held.map HeldSeg.num) .free →
      (freed.fits e.who e.need = true ∧ ws = []) ∨
        (freed.fits e.who e.need = false ∧ ∀ m, m ≠ n → ¬s.reclaimable m) →
      ∃ t : State, exec (.sprs tag [byte r]) s = .next t ∧ t.legs = s.legs ∧ t.groups = s.groups ∧
        t.router =
          s.router.record .echoReclaimed (.leg n) (detail1 (byte (look s.can n).held.length)) ∧
        (look t.can n).held = [] ∧ (look t.can n).reclaimed = true ∧ (look t.can n).state = .idle ∧
        (freed.fits e.who e.need = false → t.pool = freed) ∧
        (freed.fits e.who e.need = true →
          t.pool = { freed.mark (freed.lowestFree e.need) e.who.owner with wait := [] })) ∧
    (∀ segs : List SegIx, p.fits e.who e.need = true → ws = [] →
      segs = ((List.finRange 384).filter fun i => look s.pool.owner i = .free).take e.need →
      ∃ t : State, exec (.sprs tag [byte r]) s = .next t ∧ t.router = s.router ∧ t.pool.wait = [] ∧
        (∀ i, look t.pool.owner i = if i ∈ segs then e.who.owner else look s.pool.owner i) ∧
        (∀ n, e.who = .leg n →
          (look t.can n).held =
            (look s.can n).held ++ segs.map fun i => { num := i, taps := List.replicate 128 0 }) ∧
        (∀ c, e.who = .cursor c → e.need = 2 →
          (look t.cursors c).ring.map (fun x => [(look x 0).num, (look x 1).num]) = some segs))) ∧
  (∀ (s : State) (tag : BitVec 16) (n : LegIx) (tail : Nat) (wait : List WaitEntry), s.takes →
    s.noCueRoutes → 2 ≤ tail → tail ≤ 8 → (look s.legs n).mode ≠ .off → tail ≠ (look s.legs n).tail →
    (look s.legs n).state = .connecting ∨ (look s.legs n).state = .talking →
    (look s.can n).held.length < tail → s.pool.wait ≠ [] → (∀ m, ¬s.reclaimable m) →
    wait =
      (if s.pool.waits (.leg n) then
        s.pool.wait.map fun e =>
          if e.who = .leg n then { e with need := tail - (look s.can n).held.length } else e
      else s.pool.wait ++ [{ who := .leg n, need := tail - (look s.can n).held.length }]) →
    (∀ e, wait.head? = some e → s.pool.fits e.who e.need = false) →
    ∃ t : State,
      exec (.echo tag [byte n, (look s.legs n).mode.code, byte tail, 0]) s = .next t ∧
      t.pool = { s.pool with wait := wait }) ∧
  (∀ (s : State) (tag : BitVec 16) (p : PosIx) (q : CueIx) (ms : Nat) (rest : List Item)
      (cursors legs : List WaitEntry), s.takes → s.noCueRoutes →
    (look s.cues q).items = .silence ms :: rest → (look s.pos p).state = .idle →
    look s.whisper p = { queue := [], playing := .none, stack := [] } →
    (look s.cursors (posCursor p)).state = .stopped → s.pool.wait = cursors ++ legs →
    (∀ e ∈ cursors, ∃ c, e.who = .cursor c ∧ c ≠ posCursor p) → (∀ e ∈ legs, ∃ n, e.who = .leg n) →
    s.pool.free < 2 → (∀ e, s.pool.wait.head? = some e → s.pool.fits e.who e.need = false) →
    (∀ n, ¬s.reclaimable n) →
    ∃ t : State, exec (.wpst tag [byte p, byte q, 2, 0]) s = .next t ∧
      t.pool = { s.pool with wait := cursors ++ { who := .cursor (posCursor p), need := 2 } :: legs })

/-- CDEF with every field in its range replaces the whole cue list, and nothing else where the list is no
group's source; a payload that is not 3 bytes and 4 for each item it counts is answered LENGTH (R87, R88,
R105). -/
def Obligations.CdefReplacesCueList : Prop :=
  (∀ (s : State) (tag : BitVec 16) (q : CueIx) (duck : Nat) (items : List Item) (payload : List Byte),
    s.takes → duck ≤ 30 → items.length ≤ 8 → (∀ i ∈ items, i.inRange) →
    payload = byte q :: byte duck :: byte items.length :: items.flatMap Item.bytes →
    ∃ t : State, exec (.cdef tag payload) s = .next t ∧
      t.link = s.link.answered tag (ascii4 'C' 'D' 'E' 'F') payload (.ok []) ∧
      t.cues = put s.cues q { items := items, duck := duck } ∧
      ((∀ g, (look s.groups g).source ≠ some q) →
        t = { s with cues := put s.cues q { items := items, duck := duck } }.replied tag
          (ascii4 'C' 'D' 'E' 'F') payload (.ok []))) ∧
  (∀ (s : State) (tag : BitVec 16) (payload : List Byte), s.takes → payload.length ≤ 240 →
    payload.length ≠ 3 + 4 * (payload.getD 2 0).toNat →
    exec (.cdef tag payload) s =
      .next (s.replied tag (ascii4 'C' 'D' 'E' 'F') payload (.refuse .length)))

/-- GSRC stores source, resume flag and alarm time. With the cursor STOPPED and no member that is all, but for
the resume point, which a clear flag or another source ends; with members a playable source starts the
cursor, at the stored point if the flag is set. A STARTING cursor changes to another playable source at
once and stops at another that is not playable, and with the cursor PLAYING the source change is pending
exactly when the source is not the list being played (R109, R110, R111). A first member starts a STOPPED
cursor on a playable source, at the resume point if the flag is set, which is then none; the point is taken
as R92 gives, and a clip that is not VALID is skipped with CLIP_MISSING (R92, R93, R105, R107). The last
member to leave stops the cursor, and its place is the resume point if the flag is set and no source change
is pending: a STARTING cursor's the place it was started at, item 0 at its start in the silence after an
empty pass; a member that leaves others changes neither (R106). That the stopped cursor keeps its item index
and position is the model's choice, log 48; so are the form of a place, log 21, and what a start sets and
leaves where R92 names no place, log 50. -/
def Obligations.GsrcStoresSource : Prop :=
  (∀ (s : State) (tag : BitVec 16) (g : GroupIx) (source : Option CueIx) (resume : Bool) (alarm : Nat)
    (payload : List Byte) (gr : Group) (cur : Cursor), s.takes → alarm = 0 ∨ (5 ≤ alarm ∧ alarm ≤ 600) →
    payload = [byte g, ixByte source, flagByte resume] ++ le2 alarm → gr = look s.groups g →
    cur = look s.cursors (groupCursor g) →
    ∃ (t : State) (out : List Byte), exec (.gsrc tag payload) s = .next t ∧
      t.link = s.link.answered tag (ascii4 'G' 'S' 'R' 'C') payload (.ok out) ∧
      (look t.groups g).source = source ∧ (look t.groups g).resume = resume ∧
      (look t.groups g).alarm = alarm ∧ (resume = false → (look t.groups g).point = none) ∧
      (cur.state = .stopped → gr.members = [] →
        t =
          { s with
            groups := upd s.groups g fun gr =>
              { gr with
                source := source, resume := resume, alarm := alarm
                point := if resume = true ∧ gr.source = source then gr.point else none } }.replied
            tag (ascii4 'G' 'S' 'R' 'C') payload (.ok [0, flagByte gr.pendingChange])) ∧
      (cur.state = .stopped → gr.members ≠ [] → s.noCueRoutes →
        (∀ q, source = some q → (look s.cues q).items ≠ [] →
          (look t.groups g).point = none ∧
          ∀ i elapsed it,
            s.resolvesTo (look s.cues q).items
              (if resume = true ∧ gr.source = source then gr.point else none) i elapsed →
            (look s.cues q).items[i]? = some it → (∀ id gain, it = .clip id gain → s.store.valid id) →
            t.startedAt (groupCursor g) q i elapsed ∧ out = [(look t.cursors (groupCursor g)).state.code,
              flagByte gr.pendingChange]) ∧
        ((∀ q, source = some q → (look s.cues q).items = []) →
          t.cursors = s.cursors ∧ out = [0, flagByte gr.pendingChange])) ∧
      (cur.state = .starting → s.noCueRoutes →
        (cur.snapshot.map Snapshot.cue = source →
          t.cursors = s.cursors ∧ (look t.groups g).pendingChange = false ∧ out = [1, 0]) ∧
        (∀ q it rest, cur.snapshot.map Snapshot.cue ≠ source → source = some q →
          (look s.cues q).items = it :: rest → (∀ id gain, it = .clip id gain → s.store.valid id) →
          s.pool.waits (.cursor (groupCursor g)) = cur.ring.isNone →
          t.startedAt (groupCursor g) q 0 0 ∧ t.pool = s.pool ∧
          t.startPlaceIs (groupCursor g) 0 0 ∧
          (look t.cursors (groupCursor g)).ring.isSome = cur.ring.isSome) ∧
        (cur.snapshot.map Snapshot.cue ≠ source →
          (∀ q, source = some q → (look s.cues q).items = []) →
          s.pool.waits (.cursor (groupCursor g)) = cur.ring.isNone →
          (look t.cursors (groupCursor g)).state = .stopped ∧
          (look t.cursors (groupCursor g)).ring = none ∧
          (look t.cursors (groupCursor g)).clip = none ∧ (look t.groups g).point = none)) ∧
      (cur.state = .playing → s.noCueRoutes →
        t.cursors = s.cursors ∧ (look t.groups g).members = gr.members ∧
        (look t.groups g).pendingChange = decide (cur.snapshot.map Snapshot.cue ≠ source) ∧
        out = [2, flagByte (look t.groups g).pendingChange])) ∧
  (∀ (s : State) (tag : BitVec 16) (n : LegIx) (g : GroupIx) (gr : Group) (q : CueIx) (i elapsed : Nat)
    (it : Item), s.takes → s.noCueRoutes → (look s.legs n).state = .free →
    (look s.legs n).group = none → gr = look s.groups g → gr.members = [] → gr.source = some q →
    (look s.cursors (groupCursor g)).state = .stopped → (look s.cues q).items[i]? = some it →
    s.resolvesTo (look s.cues q).items (if gr.resume then gr.point else none) i elapsed →
    ∃ t : State, exec (.park tag [byte n, byte g]) s = .next t ∧
      look t.groups g = { gr with members := [n], point := none } ∧
      t.startPlaceIs (groupCursor g) i elapsed ∧
      ((∀ id gain, it = .clip id gain → s.store.valid id) → t.startedAt (groupCursor g) q i elapsed) ∧
      (∀ id gain ms, it = .clip id gain → ¬s.store.valid id →
        (look s.cues q).items[i + 1]? = some (.silence ms) → s.pool.wait = [] → 2 ≤ s.pool.free →
        t.startedAt (groupCursor g) q (i + 1) 0 ∧
        t.router = s.router.record .clipMissing (.group g) (detail1 (byte id)))) ∧
  (∀ (s : State) (tag : BitVec 16) (n : LegIx) (g : GroupIx) (gr : Group) (cur : Cursor), s.takes →
    s.bindingsConsistent → (look s.legs n).state = .parked → (look s.legs n).group = some g →
    gr = look s.groups g → n ∈ gr.members → cur = look s.cursors (groupCursor g) → s.pool.wait = [] →
    ∃ t : State, exec (.rels tag [byte n]) s = .next t ∧
      (look t.groups g).members = gr.members.filter (· ≠ n) ∧
      ((∃ m ∈ gr.members, m ≠ n) →
        t.cursors = s.cursors ∧ (look t.groups g).point = gr.point ∧
        (look t.groups g).pendingChange = gr.pendingChange) ∧
      ((∀ m ∈ gr.members, m = n) → cur.state ≠ .stopped →
        look t.cursors (groupCursor g) =
          { cur with
            state := .stopped, snapshot := none, ring := none, clip := none, refill := none
            underrun := false, played := false, gap := false } ∧
        (∀ r, cur.ring = some r → ∀ b, look t.pool.owner (look r b).num = .free) ∧
        (look t.groups g).pendingChange = false ∧
        (gr.resume = false ∨ gr.pendingChange = true → (look t.groups g).point = none) ∧
        (gr.resume = true → gr.pendingChange = false →
          (cur.state = .starting → (look t.groups g).point = some cur.begun) ∧
          (cur.state ≠ .starting →
            (cur.gap = true → ∃ x, (look t.groups g).point = some x ∧ x.index = 0 ∧ x.elapsed = 0) ∧
            (∀ id gain, cur.item = some (.clip id gain) →
              (look t.groups g).point =
                some { index := cur.index, elapsed := cur.place, shown := cur.place }) ∧
            ∀ ms, cur.item = some (.silence ms) ∨ (∃ k, cur.item = some (.tone k ms)) →
              (look t.groups g).point =
                some { index := cur.index, elapsed := 8 * ms - cur.place, shown := cur.place }))))

/-- The end of an item. It comes only for a PLAYING cursor whose item is played to its end (log 3). The
reference of a CLIP item is dropped, and with the last one of a RETIRING clip its sectors are queued. A position
cursor enters the next SILENCE or TONE at its start, or the next VALID clip with a reference on it, and skips a
clip that is not VALID with CLIP_MISSING; after the last item it stops, its entry is done, and WHISPER_DONE is
raised, or for a connect entry the leg cuts through with CUT_THROUGH cause COMPLETED. A group cursor goes on in
the same way within its pass. At the pass end it takes the list as it now stands, and enters a SILENCE item or a
VALID clip at its start, asking for the clip's first refill (R94); where every item of that is skipped it plays
1,000 ms of silence, and then makes the next pass start. A pending source change is met at any item end: the
cursor begins the new source at item 0, or stops with no resume point where it is not playable (R29, R93, R98,
R111, R118, R153). -/
def Obligations.ItemEndGoesOn : Prop :=
  ∀ (s : State) (c : CurIx) (cur left : Cursor), s.postings = [] → cur = look s.cursors c →
    left = { cur with ring := cur.ring.map emptyRing, gap := false } →
    (cur.state ≠ .playing ∨ cur.atEnd s.store = false → exec (.itemEnd c) s = .next s) ∧
    (cur.state = .playing → cur.atEnd s.store = true →
      (∀ p sn, c = posCursor p → cur.snapshot = some sn →
        (cur.clip = none →
          (∀ ms, sn.items[cur.index + 1]? = some (.silence ms) →
            exec (.itemEnd c) s =
              .next { s with
                cursors := put s.cursors c { left with index := cur.index + 1, place := 8 * ms } }) ∧
          (∀ k ms, sn.items[cur.index + 1]? = some (.tone k ms) →
            exec (.itemEnd c) s =
              .next { s with
                cursors := put s.cursors c
                  { left with index := cur.index + 1, place := 8 * ms, phase := 0 } }) ∧
          (∀ id gain ms, sn.items[cur.index + 1]? = some (.clip id gain) → ¬s.store.valid id →
            sn.items[cur.index + 2]? = some (.silence ms) →
            exec (.itemEnd c) s =
              .next { s with
                router := s.router.record .clipMissing (.position p) (detail1 (byte id))
                cursors := put s.cursors c { left with index := cur.index + 2, place := 8 * ms } }) ∧
          ∀ id gain k, sn.items[cur.index + 1]? = some (.clip id gain) → s.store.clip id = some k →
            k.state = .valid →
            ∃ t : State, exec (.itemEnd c) s = .next t ∧ (look t.cursors c).clip = some id ∧
              (look t.cursors c).index = cur.index + 1 ∧ (look t.cursors c).place = 0 ∧
              (t.store.clip id).map Clip.refs = some (k.refs + 1) ∧
              ∀ r, cur.ring = some r → t.asksFor c { cur with requested := 0 } (emptyRing r) id) ∧
        ∀ id k ms, cur.clip = some id → s.store.clip id = some k →
          sn.items[cur.index + 1]? = some (.silence ms) →
          ∃ t : State, exec (.itemEnd c) s = .next t ∧
            t.cursors = put s.cursors c
              { left with clip := none, index := cur.index + 1, place := 8 * ms } ∧
            s.referenceDropped t id k) ∧
      (∀ p e, c = posCursor p → cur.items.length ≤ cur.index + 1 →
        look s.whisper p = { queue := [], playing := .prompt e, stack := [] } → s.noCueRoutes →
        s.pool.waits (.cursor c) = false →
        ∃ t : State, exec (.itemEnd c) s = .next t ∧ (look t.cursors c).state = .stopped ∧
          (look t.cursors c).snapshot = none ∧ (look t.cursors c).ring = none ∧
          (look t.cursors c).clip = none ∧
          look t.whisper p = { queue := [], playing := .none, stack := [] } ∧
          (e.connect = false → (s.router.route .whisperDone).notify = true →
            t.router.overflow = true ∨
              t.router.notices.getLast? =
                some
                  { kind := .whisperDone, subject := .position p, stamp := s.router.stamp
                    detail := detail2 (byte e.cue) e.origin.code }) ∧
          (∀ n, e.connect = true → (look s.pos p).bound = some n →
            (look s.legs n).state = .connecting → (look s.legs n).connectRef = true →
            look t.legs n =
              { look s.legs n with
                state := .talking, group := none, parkTime := none, timer := none
                connectRef := false } ∧
            ((s.router.route .cutThrough).notify = true →
              t.router.overflow = true ∨
                t.router.notices.getLast? =
                  some
                    { kind := .cutThrough, subject := .leg n, stamp := s.router.stamp
                      detail := detail2 0 (ixByte (look s.legs n).owner) }))) ∧
      (∀ g ms, c = groupCursor g → cur.clip = none → cur.gap = false →
        (look s.groups g).pendingChange = false → cur.items[cur.index + 1]? = some (.silence ms) →
        exec (.itemEnd c) s =
          .next { s with
            cursors := put s.cursors c
              { left with index := cur.index + 1, place := 8 * ms, played := true } }) ∧
      (∀ g id k ms, c = groupCursor g → cur.clip = some id → s.store.clip id = some k → cur.gap = false →
        (look s.groups g).pendingChange = false → cur.items[cur.index + 1]? = some (.silence ms) →
        ∃ t : State, exec (.itemEnd c) s = .next t ∧
          t.cursors = put s.cursors c
            { left with clip := none, index := cur.index + 1, place := 8 * ms, played := true } ∧
          t.groups = s.groups ∧ s.referenceDropped t id k) ∧
      (∀ g q l id gain rest k, c = groupCursor g →
        (look s.groups g).pendingChange = true ∨ cur.gap = true ∨ cur.items.length ≤ cur.index + 1 →
        (look s.groups g).source = some q → l = look s.cues q → l.items = .clip id gain :: rest →
        s.store.clip id = some k → k.state = .valid → (cur.clip = some id → 0 < k.refs) →
        ∃ t : State, exec (.itemEnd c) s = .next t ∧
          t.groups = (upd s.groups g fun gr => { gr with pendingChange := false }) ∧
          look t.cursors c =
            { left with
              index := 0, place := 0, played := false, clip := some id
              snapshot := some { cue := q, items := l.items, duck := l.duck }
              ring := (look t.cursors c).ring
              requested := (look t.cursors c).requested, refill := (look t.cursors c).refill } ∧
          (t.store.clip id).map Clip.refs =
            some (if cur.clip = some id then k.refs else k.refs + 1) ∧
          ∀ r, cur.ring = some r → t.asksFor c { cur with requested := 0 } (emptyRing r) id) ∧
      (∀ g q l, c = groupCursor g → cur.clip = none →
        (look s.groups g).pendingChange = true ∨ cur.gap = true ∨ cur.items.length ≤ cur.index + 1 →
        (look s.groups g).source = some q → l = look s.cues q →
        (∀ ms rest, l.items = .silence ms :: rest →
          exec (.itemEnd c) s =
            .next { s with
              groups := upd s.groups g fun gr => { gr with pendingChange := false }
              cursors := put s.cursors c
                { left with
                  index := 0, place := 8 * ms, played := false
                  snapshot := some { cue := q, items := l.items, duck := l.duck } } }) ∧
        (∀ id gain, l.items = [.clip id gain] → ¬s.store.valid id →
          exec (.itemEnd c) s =
            .next { s with
              groups := upd s.groups g fun gr => { gr with pendingChange := false }
              router := s.router.record .clipMissing (.group g) (detail1 (byte id))
              cursors := put s.cursors c
                { left with
                  index := 0, place := 8000, played := false
                  gap := true
                  snapshot := some { cue := q, items := l.items, duck := l.duck } } })) ∧
      (∀ g, c = groupCursor g →
        (look s.groups g).pendingChange = true ∨ cur.gap = true ∨ cur.items.length ≤ cur.index + 1 →
        (∀ q, (look s.groups g).source = some q → (look s.cues q).items = []) → s.noCueRoutes →
        s.pool.waits (.cursor c) = false →
        ∃ t : State, exec (.itemEnd c) s = .next t ∧ (look t.cursors c).state = .stopped ∧
          (look t.cursors c).snapshot = none ∧ (look t.cursors c).ring = none ∧
          (look t.cursors c).clip = none ∧
          t.groups = upd s.groups g fun gr => { gr with pendingChange := false, point := none }))

/-- The end of a refill read puts the clip's samples as they stand in the flash into the segment: a STARTING
cursor then plays, and the segment is read out at once where the other is EMPTY and the cursor is not
PAUSED; it waits FULL where the other is being read out. The next refill is then asked for (R94). A read
whose refill was withdrawn reaches no cursor, one beyond the flash or of a clip without an entry stops the
model (log 44), and with no read under way nothing happens (log 3) (R95, R147). -/
def Obligations.RefillCompleteFillsSegment : Prop :=
  ∀ s : State,
    ((∀ r w, s.store.op ≠ .read r w) → exec .refillComplete s = .next s) ∧
    (∀ r, s.store.op = .read r true →
      exec .refillComplete s =
        .next { s with store := Store.kick { s.store with op := .none } }) ∧
    (∀ r, s.store.op = .read r false → s.store.clip r.clip = none →
      exec .refillComplete s = .fault .flashAddress) ∧
    (∀ r k, s.store.op = .read r false → s.store.clip r.clip = some k →
      16777216 < 65536 * k.first.val + 256 + 2 * r.first + 2 * r.count →
      exec .refillComplete s = .fault .flashAddress) ∧
    (∀ r k ring o, s.store.op = .read r false → s.store.clip r.clip = some k →
      65536 * k.first.val + 256 + 2 * r.first + 2 * r.count ≤ 16777216 →
      (look s.cursors r.cursor).state ≠ .stopped → (look s.cursors r.cursor).ring = some ring →
      o ≠ r.seg → (look ring o).state = .empty →
      ∃ (t : State) (ring' : Vector RingSeg 2), exec .refillComplete s = .next t ∧ t.flash = s.flash ∧
        t.whisper = s.whisper ∧ t.groups = s.groups ∧ t.router = s.router ∧
        (look t.cursors r.cursor).ring = some ring' ∧ (look t.cursors r.cursor).underrun = false ∧
        (look t.cursors r.cursor).state =
          (if (look s.cursors r.cursor).state = .paused then .paused else .playing) ∧
        look ring' r.seg =
          { look ring r.seg with
            state := if (look s.cursors r.cursor).state = .paused then .full else .playing
            data := samplesOfBytes
              (flashBytes s.flash (65536 * k.first.val + 256 + 2 * r.first) (2 * r.count)) }) ∧
    (∀ r k cur ring ring' o, s.store.op = .read r false → s.store.clip r.clip = some k →
      65536 * k.first.val + 256 + 2 * r.first + 2 * r.count ≤ 16777216 → cur = look s.cursors r.cursor →
      cur.state ≠ .stopped → cur.ring = some ring → cur.clip = some r.clip → cur.inClip = true →
      o ≠ r.seg → (look ring o).state = .empty ∨ (look ring o).state = .playing →
      look ring' o = look ring o →
      look ring' r.seg =
        { look ring r.seg with
          state := if cur.state = .paused ∨ (look ring o).state = .playing then .full else .playing
          data := samplesOfBytes
            (flashBytes s.flash (65536 * k.first.val + 256 + 2 * r.first) (2 * r.count)) } →
      ∃ t : State, exec .refillComplete s = .next t ∧
        t.asksFor r.cursor { cur with refill := none } ring' r.clip)

/-! ## Whisper prompts, coaching and announcements -/

/-- WPST. Its refusals: STATE, BADARG for an empty list, NOROOM. Behind the coach, or behind a prompt it does
not preempt, the entry waits in service order and nothing else changes. With nothing playing or waiting it
plays: its cursor starts at item 0, with a reference where that is a clip, and a list whose one clip is not
VALID is done as it starts, with CLIP_MISSING and WHISPER_DONE. An URGENT entry preempts a ROUTINE one that
plays with nesting on, which goes on the stack, unless its resume mode is RESTART with its place saved: the
cursor's item index and the time elapsed in the item, with the position shown (log 21) (R92, R93, R115, R116,
R117, R118, R120). -/
def Obligations.WpstPlacesEntry : Prop :=
  ∀ (s : State) (tag : BitVec 16) (p : PosIx) (q : CueIx) (level : Level) (res : ResumeMode)
    (w : Whisper) (e : Entry) (payload : List Byte), s.takes → w = look s.whisper p →
    e =
      { cue := q, level := level, origin := .post, resume := res, connect := false, saved := none,
        holdsCursor := false } →
    payload = [byte p, byte q, level.code, if res = .resume then 0 else 1] →
    ((look s.pos p).state = .absent ∨ (look s.pos p).state = .loopback →
      exec (.wpst tag payload) s =
        .next (s.replied tag (ascii4 'W' 'P' 'S' 'T') payload (.refuse .state))) ∧
    ((look s.pos p).state ≠ .absent → (look s.pos p).state ≠ .loopback →
      ((look s.cues q).items = [] →
        exec (.wpst tag payload) s =
          .next (s.replied tag (ascii4 'W' 'P' 'S' 'T') payload (.refuse .badarg))) ∧
      ((look s.cues q).items ≠ [] → 8 ≤ w.queue.length →
        exec (.wpst tag payload) s =
          .next (s.replied tag (ascii4 'W' 'P' 'S' 'T') payload (.refuse .noroom))) ∧
      ((look s.cues q).items ≠ [] → w.queue.length < 8 →
        w.keepsPlaying (look s.pos p).nesting level →
        exec (.wpst tag payload) s =
          .next
            ({ s with
              whisper := put s.whisper p { w with queue := serviceOrder w.queue e } }.replied
              tag (ascii4 'W' 'P' 'S' 'T') payload
              (.ok (0 :: Whisper.summary { w with queue := serviceOrder w.queue e })))) ∧
      (∀ id gain, w.playing = .none → w.queue = [] → w.stack = [] →
        (look s.cues q).items = [.clip id gain] → ¬s.store.valid id →
        (look s.cursors (posCursor p)).state = .stopped →
        ∃ t : State, exec (.wpst tag payload) s = .next t ∧ look t.whisper p = w ∧
          (look t.cursors (posCursor p)).state = .stopped ∧
          t.link = s.link.answered tag (ascii4 'W' 'P' 'S' 'T') payload (.ok (1 :: w.summary)) ∧
          t.router =
            (s.router.record .clipMissing (.position p) (detail1 (byte id))).record .whisperDone
              (.position p) (detail2 (byte q) 0)) ∧
      ((look s.cues q).items ≠ [] → s.canEnter (look s.cues q).items → w.queue = [] →
        s.noCueRoutes →
        (w.playing = .none →
          ∃ t : State, exec (.wpst tag payload) s = .next t ∧
            look t.whisper p = { w with playing := .prompt e } ∧
            t.link = s.link.answered tag (ascii4 'W' 'P' 'S' 'T') payload
              (.ok (1 :: Whisper.summary { w with playing := .prompt e })) ∧
            ((look s.cursors (posCursor p)).state = .stopped →
              t.startedAt (posCursor p) q 0 0 ∧
              ∀ id gain rest k, (look s.cues q).items = .clip id gain :: rest →
                s.store.clip id = some k → (t.store.clip id).map Clip.refs = some (k.refs + 1))) ∧
        (∀ f, w.playing = .prompt f → f.level = .routine → level = .urgent →
          (look s.pos p).nesting = true →
          ∃ (t : State) (saved : Option Place), exec (.wpst tag payload) s = .next t ∧
            look t.whisper p =
              { queue := [], playing := .prompt e, stack := { f with saved := saved } :: w.stack } ∧
            (f.resume = .resume → saved.isSome = true ∧
              ∀ cur : Cursor, cur = look s.cursors (posCursor p) →
                (∀ id gain, cur.item = some (.clip id gain) →
                  saved = some { index := cur.index, elapsed := cur.place, shown := cur.place }) ∧
                ∀ ms, cur.item = some (.silence ms) ∨ (∃ k, cur.item = some (.tone k ms)) →
                  saved =
                    some { index := cur.index, elapsed := 8 * ms - cur.place, shown := cur.place }) ∧
            (f.resume = .restart → saved = f.saved) ∧
            (∃ out, t.link = s.link.answered tag (ascii4 'W' 'P' 'S' 'T') payload
              (.ok (1 :: out))))))

/-- WFLS removes the waiting, stacked and playing prompts whose level is in its set and answers with their
number. Where the playing entry stays and no removed entry has the connect mark or holds the paused cursor,
nothing else changes. With the playing prompt removed its cursor is stopped, and the next is taken from what
remains, the top of the stack at its saved place unless the queue's head preempts it, then the head of the
queue. A removed connect entry cuts its leg through with cause FLUSHED; a set of both levels leaves no prompt
and keeps a coach (R29, R31, R119, R123). -/
def Obligations.WflsRemovesEntries : Prop :=
  ∀ (s : State) (tag : BitVec 16) (p : PosIx) (set : Fin 4) (w : Whisper) (f : Entry → Bool), s.takes →
    w = look s.whisper p →
    f = (fun e => if e.level = .urgent then decide (set.val % 2 = 1) else decide (2 ≤ set.val)) →
    ((∀ e, w.playing = .prompt e → f e = false) →
      (∀ e ∈ w.queue ++ w.stack, f e = true → e.connect = false ∧ e.holdsCursor = false) →
      ∃ w' : Whisper,
        w' = { w with queue := w.queue.filter (!f ·), stack := w.stack.filter (!f ·) } ∧
        exec (.wfls tag [byte p, byte set]) s =
          .next
            ({ s with whisper := put s.whisper p w' }.replied tag (ascii4 'W' 'F' 'L' 'S')
              [byte p, byte set]
              (.ok (byte ((w.queue.filter f).length + (w.stack.filter f).length) :: w'.summary)))) ∧
    (set = 3 → s.noCueRoutes →
      ∃ (t : State) (w' : Whisper), exec (.wfls tag [byte p, byte set]) s = .next t ∧
        w' =
          { queue := [], stack := [], playing := if w.playing = .coach then .coach else .none } ∧
        look t.whisper p = w' ∧
        t.link = s.link.answered tag (ascii4 'W' 'F' 'L' 'S') [byte p, byte set]
          (.ok (byte (w.queue.length + w.stack.length +
            (if w.playing = .none ∨ w.playing = .coach then 0 else 1)) :: w'.summary)) ∧
        (∀ n, w.hasConnect = true → (look s.pos p).bound = some n →
          (look s.legs n).state = .connecting → (look s.legs n).connectRef = true →
          (look t.legs n).state = .talking ∧ (look t.legs n).timer = none)) ∧
    (∀ (e : Entry) (queue stack : List Entry) (count : Nat), w.playing = .prompt e → f e = true →
      s.noCueRoutes → queue = w.queue.filter (!f ·) → stack = w.stack.filter (!f ·) →
      count = w.queue.length + w.stack.length + 1 - queue.length - stack.length →
      ∃ (t : State) (w' : Whisper), exec (.wfls tag [byte p, byte set]) s = .next t ∧
        look t.whisper p = w' ∧
        t.link = s.link.answered tag (ascii4 'W' 'F' 'L' 'S') [byte p, byte set]
          (.ok (byte count :: w'.summary)) ∧
        (queue = [] → stack = [] →
          w' = { queue := [], playing := .none, stack := [] } ∧
          (look t.cursors (posCursor p)).state = .stopped) ∧
        ∀ (x : Entry) (xs : List Entry) (it : Item) (i elapsed : Nat),
          (stack = x :: xs ∧ x.holdsCursor = false ∧
            (x.level = .urgent ∨ (look s.pos p).nesting = false ∨ ∀ h ∈ queue, h.level = .routine)) ∨
          (stack = [] ∧ queue = x :: xs) →
          s.resolvesTo (look s.cues x.cue).items x.saved i elapsed →
          (look s.cues x.cue).items[i]? = some it → (∀ id gain, it = .clip id gain → s.store.valid id) →
          w' =
            { queue := if stack = [] then xs else queue
              playing := .prompt { x with saved := none, holdsCursor := false }
              stack := if stack = [] then [] else xs } ∧
          t.startedAt (posCursor p) x.cue i elapsed) ∧
    ∀ n, s.noCueRoutes → (look s.pos p).bound = some n → (look s.legs n).state = .connecting →
      (look s.legs n).connectRef = true →
      (∃ e, (e ∈ w.queue ∨ e ∈ w.stack ∨ w.playing = .prompt e) ∧ f e = true ∧ e.connect = true) →
      ∃ t : State, exec (.wfls tag [byte p, byte set]) s = .next t ∧
        look t.legs n =
          { look s.legs n with
            state := .talking, group := none, parkTime := none, timer := none, connectRef := false } ∧
        ((s.router.route .cutThrough).notify = true →
          t.router.overflow = true ∨
            { kind := .cutThrough, subject := .leg n, stamp := s.router.stamp
              detail := detail2 1 (ixByte (look s.legs n).owner) } ∈ t.router.notices)

/-- CATT of an IDLE supervisor without a link and an agent that is neither ABSENT nor COACHING makes a pair:
pending, or with the agent ENGAGED active, the coach taking the agent's playing place and pausing a RESUME
prompt there, with COACH_STARTED; a pending pair of the agent is replaced. Otherwise STATE, or BUSY where
the agent's pair is active (R127, R128). -/
def Obligations.CattMakesPair : Prop :=
  ∀ (s : State) (tag : BitVec 16) (sp a : PosIx) (mode : CoachMode) (payload : List Byte)
    (made : Bool → Pair) (links : Bool → Vector Position 48), s.takes → sp ≠ a →
    payload = [byte sp, byte a, mode.code] →
    made = (fun act => { supervisor := sp, agent := a, mode := mode, active := act }) →
    links = (fun act =>
      put
        (put s.pos sp
          { look s.pos sp with
            state := .coaching, coach := some { partner := a, side := .supervisor, active := act } })
        a
        { look s.pos a with coach := some { partner := sp, side := .agent, active := act } }) →
    ((look s.pos sp).role ≠ .supervisor ∨ (look s.pos sp).state ≠ .idle ∨
        (look s.pos sp).coach ≠ none ∨ (look s.pos a).state = .absent ∨
        (look s.pos a).state = .coaching →
      exec (.catt tag payload) s =
        .next (s.replied tag (ascii4 'C' 'A' 'T' 'T') payload (.refuse .state))) ∧
    ((look s.pos sp).role = .supervisor → (look s.pos sp).state = .idle →
      (look s.pos sp).coach = none → (look s.pos a).state ≠ .absent →
      (look s.pos a).state ≠ .coaching →
      (∀ x, s.pairs.find? (fun x => x.agent = a) = some x → x.active = true →
        exec (.catt tag payload) s =
          .next (s.replied tag (ascii4 'C' 'A' 'T' 'T') payload (.refuse .busy))) ∧
      (∀ x, s.pairs.find? (fun x => x.agent = a) = some x → x.active = false →
        (look s.pos a).state ≠ .engaged →
        ∃ t : State, exec (.catt tag payload) s = .next t ∧
          t.link = s.link.answered tag (ascii4 'C' 'A' 'T' 'T') payload
            (.ok [0, byte x.supervisor]) ∧
          t.pairs = s.pairs.filter (fun y => y ≠ x) ++
            [made false]) ∧
      ((∀ x ∈ s.pairs, x.agent ≠ a) →
        ((look s.pos a).state ≠ .engaged →
          exec (.catt tag payload) s =
            .next
              ({ s with
                pairs := s.pairs ++ [made false]
                pos := links false }.replied tag (ascii4 'C' 'A' 'T' 'T') payload
                (.ok [0, 0xFF]))) ∧
        ((look s.pos a).state = .engaged → s.noCueRoutes →
          ((look s.whisper a).playing = .none ∨ (look s.whisper a).playing = .coach →
            exec (.catt tag payload) s =
              .next
                ({ s with
                  pairs := s.pairs ++ [made true]
                  pos := links true
                  whisper := upd s.whisper a fun w => { w with playing := .coach }
                  router := s.router.record .coachStarted (.position a)
                    (detail2 (byte sp) mode.code) }.replied tag (ascii4 'C' 'A' 'T' 'T') payload
                  (.ok [1, 0xFF]))) ∧
          (∀ e, (look s.whisper a).playing = .prompt e → e.resume = .resume →
            exec (.catt tag payload) s =
              .next
                ({ s with
                  pairs := s.pairs ++ [made true]
                  pos := links true
                  whisper := upd s.whisper a fun w =>
                    { w with playing := .coach, stack := { e with holdsCursor := true } :: w.stack }
                  cursors := upd s.cursors (posCursor a) fun c =>
                    { c with state := if c.state = CurState.stopped then CurState.stopped else .paused }
                  router := s.router.record .coachStarted (.position a)
                    (detail2 (byte sp) mode.code) }.replied tag (ascii4 'C' 'A' 'T' 'T') payload
                  (.ok [1, 0xFF]))))))

/-- CDET ends the pair a position takes part in: both links are cleared, a COACHING supervisor is IDLE,
COACH_ENDED with reason DETACHED is raised, and the coach of an active pair has left the agent's playing
place; with no pair it is answered NOTFOUND (R130, R131). -/
def Obligations.CdetEndsPair : Prop :=
  ∀ (s : State) (tag : BitVec 16) (p : PosIx), s.takes →
    ((∀ x ∈ s.pairs, x.supervisor ≠ p ∧ x.agent ≠ p) →
      exec (.cdet tag [byte p]) s =
        .next (s.replied tag (ascii4 'C' 'D' 'E' 'T') [byte p] (.refuse .notfound))) ∧
    (∀ x, s.pairs.find? (fun y => y.supervisor = p || y.agent = p) = some x →
      ∃ t : State, exec (.cdet tag [byte p]) s = .next t ∧
        t.link = s.link.answered tag (ascii4 'C' 'D' 'E' 'T') [byte p]
          (.ok [byte (if x.supervisor = p then x.agent else x.supervisor)]) ∧
        t.pairs = s.pairs.filter (fun y => y ≠ x) ∧
        t.pos =
          (upd (upd s.pos x.agent fun y => { y with coach := none }) x.supervisor fun y =>
            { y with coach := none, state := if y.state = .coaching then .idle else y.state }) ∧
        (x.active = true → (look s.pos x.agent).state ≠ .absent →
          (look t.whisper x.agent).playing ≠ .coach) ∧
        (s.noCueRoutes → (s.router.route .coachEnded).notify = true →
          t.router.overflow = true ∨
            t.router.notices.getLast? =
              some
                { kind := .coachEnded, subject := .position x.agent, stamp := s.router.stamp
                  detail := detail2 (byte x.supervisor) 0 }) ∧
        (x.active = false → s.noCueRoutes →
          t =
            { s with
              pairs := t.pairs, pos := t.pos
              router := s.router.record .coachEnded (.position x.agent)
                (detail2 (byte x.supervisor) 0) }.replied tag (ascii4 'C' 'D' 'E' 'T') [byte p]
              (.ok [byte (if x.supervisor = p then x.agent else x.supervisor)])))

/-- ANNC with a delay puts the lowest IDLE slot to COUNTING, with none is NOROOM, and with delay 0 fires at
once, its reply carrying the number of entries. A slot whose delay has run out falls IDLE and posts to each
position reached: the entry waits in service order behind what keeps playing, or plays where nothing does; a
position that cannot take it keeps its whisper state, with WHISPER_DROPPED for STATE, EMPTY or FULL, and one
not reached keeps its own. ANNOUNCE_FIRED comes last and carries the number of entries placed. Before that
nothing happens (R115, R116, R121, R132, R133; log 3). -/
def Obligations.AnnouncementsCountAndFire : Prop :=
  ∀ (s : State) (tag : BitVec 16) (k : SlotIx) (a : Counting), s.postings = [] → a.mask ≠ 0 →
    (s.takes → ∀ ms payload, ms ≤ 60000 →
      payload = [a.mask, byte a.cue, a.level.code] ++ le2 ms →
      ((∀ j, look s.slots j ≠ none) →
        exec (.annc tag payload) s =
          .next (s.replied tag (ascii4 'A' 'N' 'N' 'C') payload (.refuse .noroom))) ∧
      (look s.slots k = none → (∀ j < k, look s.slots j ≠ none) →
        (0 < ms → a.left = 8 * ms →
          exec (.annc tag payload) s =
            .next ({ s with slots := put s.slots k (some a) }.replied tag (ascii4 'A' 'N' 'N' 'C')
              payload (.ok [byte k, 0xFF]))) ∧
        (ms = 0 → (∀ p, ¬s.reached a.mask p) →
          exec (.annc tag payload) s =
            .next ({ s with
              router := s.router.record .announceFired (.slot k) 0 }.replied tag
                (ascii4 'A' 'N' 'N' 'C') payload (.ok [byte k, 0]))))) ∧
    (look s.slots k = none ∨ (look s.slots k = some a ∧ a.left ≠ 0) →
      exec (.announcementExpiry k) s = .next s) ∧
    (look s.slots k = some a → a.left = 0 →
      ∃ t : State, exec (.announcementExpiry k) s = .next t ∧ t.slots = put s.slots k none ∧
        t.pos = s.pos ∧
        ((∀ p, ¬s.reached a.mask p) →
          t =
            { s with
              slots := put s.slots k none
              router := s.router.record .announceFired (.slot k) 0 }) ∧
        (s.takes → ∀ payload, payload = [a.mask, byte a.cue, a.level.code, 0, 0] →
          ∀ s', s = { s' with slots := put s'.slots k (some a) } → look s'.slots k = none →
            (∀ j < k, look s'.slots j ≠ none) →
            exec (.annc tag payload) s' =
              .next (t.replied tag (ascii4 'A' 'N' 'N' 'C') payload
                (.ok [byte k, byte (s.takers a.mask a.cue)]))) ∧
        (s.noCueRoutes →
          ((s.router.route .announceFired).notify = true →
            t.router.overflow = true ∨
              t.router.notices.getLast? =
                some
                  { kind := .announceFired, subject := .slot k, stamp := s.router.stamp
                    detail := detail1 (byte (s.takers a.mask a.cue)) }) ∧
          ∀ (p : PosIx) (w : Whisper) (e : Entry) (away empty full : Bool), w = look s.whisper p →
            e = { cue := a.cue, level := a.level, origin := .announce, resume := .restart,
                  connect := false, saved := none, holdsCursor := false } →
            away = decide ((look s.pos p).state = .loopback) →
            empty = (look s.cues a.cue).items.isEmpty → full = decide (8 ≤ w.queue.length) →
            (¬s.reached a.mask p → look t.whisper p = w) ∧
            (s.reached a.mask p → away || empty || full →
              look t.whisper p = w ∧
              ((s.router.route .whisperDropped).notify = true →
                t.router.overflow = true ∨
                  { kind := .whisperDropped, subject := .position p, stamp := s.router.stamp
                    detail := detail2 (byte a.cue) (2 + 16 * if away then 0 else if empty then 1 else 2) } ∈
                    t.router.notices)) ∧
            (s.reached a.mask p → (away || empty || full) = false →
              (w.keepsPlaying (look s.pos p).nesting a.level →
                look t.whisper p = { w with queue := serviceOrder w.queue e }) ∧
              (w.playing = .none → w.queue = [] → s.canEnter (look s.cues a.cue).items →
                look t.whisper p = { w with playing := .prompt e }))))

/-- ACAN of a COUNTING slot makes it IDLE, posts nothing and answers with the remaining delay; an IDLE slot is
answered LATE, and a slot outside 0–3 BADARG (R134; the rounding to whole milliseconds is log 22). -/
def Obligations.AcanCancelsSlot : Prop :=
  ∀ (s : State) (tag : BitVec 16) (k : SlotIx), s.takes →
    (∀ a, look s.slots k = some a →
      exec (.acan tag [byte k]) s =
        .next ({ s with slots := put s.slots k none }.replied tag (ascii4 'A' 'C' 'A' 'N') [byte k]
          (.ok (le2 (msLeft a.left))))) ∧
    (∀ b : Byte, 4 ≤ b.toNat →
      exec (.acan tag [b]) s =
        .next (s.replied tag (ascii4 'A' 'C' 'A' 'N') [b] (.refuse .badarg))) ∧
    (look s.slots k = none →
      exec (.acan tag [byte k]) s =
        .next (s.replied tag (ascii4 'A' 'C' 'A' 'N') [byte k] (.refuse .late)))

/-! ## The clip store: requests -/

/-- OPEN, where the store is READY, no clip is WRITING and the id is free, claims the lowest run of ERASED
sectors long enough: a WRITING entry with all its bytes remaining, the sectors RESERVED, both buffers empty.
Otherwise BUSY, STATE, or NOROOM with no such run (R138, R140). -/
def Obligations.OpenClaimsLowestRun : Prop :=
  ∀ (s : State) (tag : BitVec 16) (id : ClipIx) (samples n : Nat) (prot : Bool) (payload : List Byte),
    s.takes → id ≠ 0 → 1 ≤ samples → samples ≤ 8388480 →
    n = (if 2 * samples ≤ 65280 then 1 else 1 + (2 * samples - 65280 + 65535) / 65536) →
    payload = byte id :: le4 samples ++ [flagByte prot] →
    (s.store.state ≠ .ready ∨ (∃ i c, s.store.clip i = some c ∧ c.state = .writing) →
      exec (.openClip tag payload) s =
        .next (s.replied tag (ascii4 'O' 'P' 'E' 'N') payload (.refuse .busy))) ∧
    (s.store.state = .ready → (∀ i c, s.store.clip i = some c → c.state ≠ .writing) →
      (s.store.clip id ≠ none →
        exec (.openClip tag payload) s =
          .next (s.replied tag (ascii4 'O' 'P' 'E' 'N') payload (.refuse .state))) ∧
      (s.store.clip id = none →
        ((∀ k, ¬s.store.erasedRun k n) →
          exec (.openClip tag payload) s =
            .next (s.replied tag (ascii4 'O' 'P' 'E' 'N') payload (.refuse .noroom))) ∧
        (∀ first : SectorIx, s.store.erasedRun first n → (∀ k < first.val, ¬s.store.erasedRun k n) →
          ∃ st : Store,
            exec (.openClip tag payload) s =
              .next ({ s with store := st }.replied tag (ascii4 'O' 'P' 'E' 'N') payload
                (.ok (byte first :: le2 n ++ le4 (2 * samples)))) ∧
            st =
              { s.store with
                dir := put s.store.dir id
                  (some
                    { first := first, sectors := n, samples := samples, state := .writing, prot := prot,
                      refs := 0, remaining := 2 * samples, finishing := false, nextPage := 0,
                      eraseLeft := 0, goneBad := 0 })
                sectors := st.sectors, begun := st.begun
                buffers := Vector.replicate 2 { state := .empty, data := [] } } ∧
            ∀ k : SectorIx,
              look st.sectors k =
                (if first.val ≤ k.val ∧ k.val < first.val + n then some .reserved
                else look s.store.sectors k) ∧
              look st.begun k =
                (if first.val ≤ k.val ∧ k.val < first.val + n then false
                else look s.store.begun k))))

/-- DATA. Its refusals: BUSY while SCANNING, NOTFOUND with no clip WRITING, LENGTH for no byte or more than
remain, BUSY for more than the buffers have room for. Otherwise the bytes go into the buffer being filled, or
into one that is EMPTY, the other being EMPTY or waiting for its program; one that reaches 256 bytes becomes the
program of the clip's next page and the rest goes into the other (R141; of two EMPTY buffers the model fills the
lower, log 32). FINI. Its refusals: BUSY, NOTFOUND, and STATE with the finishing mark set or bytes remaining.
Otherwise the mark is set, a buffer being filled becomes the last data page, and with no data page left to
program the header is requested (R143). -/
def Obligations.DataAndFiniWriteClip : Prop :=
  (∀ (s : State) (tag : BitVec 16) (bytes : List Byte), s.takes → bytes.length ≤ 240 →
     (s.store.state = .scanning →
       exec (.data tag bytes) s =
         .next (s.replied tag (ascii4 'D' 'A' 'T' 'A') bytes (.refuse .busy))) ∧
     (s.store.state ≠ .scanning →
       (s.store.writing = none →
         exec (.data tag bytes) s =
           .next (s.replied tag (ascii4 'D' 'A' 'T' 'A') bytes (.refuse .notfound))) ∧
       ∀ id c, s.store.writing = some id → s.store.clip id = some c →
         (bytes = [] ∨ c.remaining < bytes.length →
           exec (.data tag bytes) s =
             .next (s.replied tag (ascii4 'D' 'A' 'T' 'A') bytes (.refuse .length))) ∧
         (bytes ≠ [] → bytes.length ≤ c.remaining →
           (512 - (look s.store.buffers 0).data.length - (look s.store.buffers 1).data.length <
               bytes.length →
             exec (.data tag bytes) s =
               .next (s.replied tag (ascii4 'D' 'A' 'T' 'A') bytes (.refuse .busy))) ∧
           (∀ (b o : Fin 2) (b0 b1 : PageBuf), b0 = look s.store.buffers b →
             b1 = look s.store.buffers o → o ≠ b → b0.data.length < 256 →
             b0.state = .filling ∨
               (b0.state = .empty ∧ b0.data = [] ∧ (b1.state = .waiting ∨ b = 0)) →
             b1 = { state := .empty, data := [] } ∨
               (b1.state = .waiting ∧ b1.data.length = 256) →
             bytes.length ≤ 512 - b0.data.length - b1.data.length →
             exec (.data tag bytes) s =
               .next
                 ({ s with
                   store := Store.kick
                     (if b0.data.length + bytes.length < 256 then
                       { s.store with
                         dir := put s.store.dir id
                           (some { c with remaining := c.remaining - bytes.length })
                         buffers := put s.store.buffers b
                           { state := .filling, data := b0.data ++ bytes } }
                     else
                       { s.store with
                         dir := put s.store.dir id
                           (some
                             { c with
                               remaining := c.remaining - bytes.length, nextPage := c.nextPage + 1 })
                         programs := s.store.programs ++ [Program.data id c.nextPage b]
                         buffers :=
                           put
                             (put s.store.buffers b
                               { state := .waiting
                                 data := b0.data ++ bytes.take (256 - b0.data.length) })
                             o
                             (if b0.data.length + bytes.length = 256 then b1
                             else
                               { state := .filling, data := bytes.drop (256 - b0.data.length) }) }) }.replied
                   tag (ascii4 'D' 'A' 'T' 'A') bytes
                   (.ok (le4 (c.remaining - bytes.length)))))))) ∧
  (∀ (s : State) (tag : BitVec 16), s.takes →
     (s.store.state = .scanning →
       exec (.fini tag []) s = .next (s.replied tag (ascii4 'F' 'I' 'N' 'I') [] (.refuse .busy))) ∧
     (s.store.state ≠ .scanning →
       (s.store.writing = none →
         exec (.fini tag []) s =
           .next (s.replied tag (ascii4 'F' 'I' 'N' 'I') [] (.refuse .notfound))) ∧
       ∀ id c, s.store.writing = some id → s.store.clip id = some c →
         (c.finishing = true ∨ 0 < c.remaining →
           exec (.fini tag []) s =
             .next (s.replied tag (ascii4 'F' 'I' 'N' 'I') [] (.refuse .state))) ∧
         (c.finishing = false → c.remaining = 0 →
           ((∀ b, (look s.store.buffers b).state ≠ .filling) → (∀ p, s.store.op ≠ .program p) →
             (∀ x ∈ s.store.programs, x.isData id = false) →
             exec (.fini tag []) s =
               .next
                 ({ s with
                   store := Store.kick
                     { s.store with
                       dir := put s.store.dir id (some { c with finishing := true })
                       programs := s.store.programs ++ [Program.header id] } }.replied
                   tag (ascii4 'F' 'I' 'N' 'I') [] (.ok []))) ∧
           (∀ b, (look s.store.buffers b).state = .filling →
             (∀ o < b, (look s.store.buffers o).state ≠ .filling) →
             exec (.fini tag []) s =
               .next
                 ({ s with
                   store := Store.kick
                     { s.store with
                       dir := put s.store.dir id
                         (some { c with finishing := true, nextPage := c.nextPage + 1 })
                       buffers := upd s.store.buffers b fun x => { x with state := .waiting }
                       programs := s.store.programs ++ [Program.data id c.nextPage b] } }.replied
                   tag (ascii4 'F' 'I' 'N' 'I') [] (.ok []))))))

/-- DROP abandons the clip being written: its entry, both buffers and its pending programs go, its sectors in
which a program has begun are queued for erase and the others are ERASED again. RTIR retires a VALID clip,
and queues its sectors if no reference is held. RSTO returns a RETIRING one to VALID, and its sectors to
CLIP if they were queued. Their refusals, each in its order: BADARG for an id outside 1–127, BUSY while
SCANNING, NOTFOUND for an id without an entry, LOCKED, and STATE or LATE by the entry's state (R144, R149, R152,
R153, R154). -/
def Obligations.DropRtirRstoChangeClip : Prop :=
  (∀ (s : State) (tag : BitVec 16) (b : Byte), s.takes →
    ∀ x ∈ [(Instr.drop tag [b], ascii4 'D' 'R' 'O' 'P'), (.rtir tag [b], ascii4 'R' 'T' 'I' 'R'),
        (.rsto tag [b], ascii4 'R' 'S' 'T' 'O')],
      (b.toNat = 0 ∨ 127 < b.toNat →
        exec x.1 s = .next (s.replied tag x.2 [b] (.refuse .badarg))) ∧
      ∀ id : ClipIx, id ≠ 0 → b = byte id →
        (s.store.state = .scanning → exec x.1 s = .next (s.replied tag x.2 [b] (.refuse .busy))) ∧
        (s.store.state ≠ .scanning → s.store.clip id = none →
          exec x.1 s = .next (s.replied tag x.2 [b] (.refuse .notfound)))) ∧
  ∀ (s : State) (tag : BitVec 16) (id : ClipIx) (c : Clip), s.takes → id ≠ 0 →
    s.store.state ≠ .scanning → s.store.clip id = some c → 1 ≤ c.sectors →
    (c.state ≠ .writing ∨ c.finishing = true →
      exec (.drop tag [byte id]) s =
        .next (s.replied tag (ascii4 'D' 'R' 'O' 'P') [byte id] (.refuse .state))) ∧
    (c.state = .writing → c.finishing = false →
      ∃ (st : Store) (queued : List SectorIx),
        exec (.drop tag [byte id]) s =
          .next ({ s with store := st.kick }.replied tag (ascii4 'D' 'R' 'O' 'P') [byte id] (.ok [])) ∧
        queued = c.run.filter (fun k => look s.store.sectors k = some .reserved && look s.store.begun k) ∧
        st.dir = put s.store.dir id none ∧
        st.buffers = Vector.replicate 2 { state := .empty, data := [] } ∧
        st.programs = s.store.programs.filter (fun x => !x.writes id) ∧
        st.eraseQueue = s.store.eraseQueue ++ queued ∧ st.begun = s.store.begun ∧
        st.quiet = (if queued = [] ∨ s.store.runOpen = true then s.store.quiet else some 1600) ∧
        ∀ k, look st.sectors k =
          if k ∈ c.run ∧ look s.store.sectors k = some .reserved then
            (if look s.store.begun k then some .queued else some .erased)
          else look s.store.sectors k) ∧
    (c.prot = true →
      exec (.rtir tag [byte id]) s =
        .next (s.replied tag (ascii4 'R' 'T' 'I' 'R') [byte id] (.refuse .locked))) ∧
    (c.prot = false → c.state ≠ .valid →
      exec (.rtir tag [byte id]) s =
        .next (s.replied tag (ascii4 'R' 'T' 'I' 'R') [byte id] (.refuse .state))) ∧
    (c.prot = false → c.state = .valid →
      ∃ st : Store,
        exec (.rtir tag [byte id]) s =
          .next ({ s with store := st.kick }.replied tag (ascii4 'R' 'T' 'I' 'R') [byte id]
            (.ok [byte c.refs])) ∧
        st.dir = put s.store.dir id
          (some
            (if c.refs = 0 then { c with state := .retiring, eraseLeft := c.sectors, goneBad := 0 }
            else { c with state := .retiring })) ∧
        st.eraseQueue = s.store.eraseQueue ++ (if c.refs = 0 then c.run else []) ∧
        st.quiet = (if 0 < c.refs ∨ s.store.runOpen = true then s.store.quiet else some 1600) ∧
        st =
          { s.store with
            dir := st.dir, sectors := st.sectors, eraseQueue := st.eraseQueue, quiet := st.quiet } ∧
        ∀ k, look st.sectors k =
          if c.refs = 0 ∧ k ∈ c.run then some .queued else look s.store.sectors k) ∧
    (c.state = .valid ∨ c.state = .writing →
      exec (.rsto tag [byte id]) s =
        .next (s.replied tag (ascii4 'R' 'S' 'T' 'O') [byte id] (.refuse .state))) ∧
    (c.state = .erasing →
      exec (.rsto tag [byte id]) s =
        .next (s.replied tag (ascii4 'R' 'S' 'T' 'O') [byte id] (.refuse .late))) ∧
    (c.state = .retiring →
      ∃ (st : Store) (queued : Bool),
        exec (.rsto tag [byte id]) s =
          .next ({ s with store := st }.replied tag (ascii4 'R' 'S' 'T' 'O') [byte id] (.ok [])) ∧
        queued = s.store.eraseQueue.contains c.first ∧
        st =
          { s.store with
            dir := put s.store.dir id
              (some { c with state := .valid, eraseLeft := 0, goneBad := 0 })
            sectors := st.sectors
            eraseQueue :=
              if queued then s.store.eraseQueue.filter (fun k => !c.run.contains k)
              else s.store.eraseQueue
            runOpen :=
              if queued then s.store.runOpen && !st.eraseQueue.isEmpty else s.store.runOpen } ∧
        ∀ k, look st.sectors k =
          if queued = true ∧ k ∈ c.run then some .clip else look s.store.sectors k)

/-- PROT sets the protected flag, with a protect program for a VALID clip; an entry that is RETIRING or ERASING
gives STATE, and one already protected is not changed (R155). FRMT of a READY store with no clip being
written or in use empties the directory and queues every CLIP sector; the store is FORMATTING, or, with
nothing to erase (log 40), READY at once with STORE_READY; programs that
are pending stay (log 34). Otherwise BUSY, or LOCKED where a clip is
protected and the request does not include it (R149, R156). -/
def Obligations.ProtAndFrmtChangeStore : Prop :=
  (∀ (s : State) (tag : BitVec 16) (id : ClipIx) (c : Clip), s.takes → id ≠ 0 →
     s.store.state ≠ .scanning → s.store.clip id = some c →
     exec (.prot tag [byte id]) s =
       .next
         (match c.state, c.prot with
         | .retiring, _ | .erasing, _ =>
           s.replied tag (ascii4 'P' 'R' 'O' 'T') [byte id] (.refuse .state)
         | _, true => s.replied tag (ascii4 'P' 'R' 'O' 'T') [byte id] (.ok [])
         | .writing, false =>
           { s with
             store := { s.store with dir := put s.store.dir id (some { c with prot := true }) } }.replied
             tag (ascii4 'P' 'R' 'O' 'T') [byte id] (.ok [])
         | .valid, false =>
           { s with
             store := Store.kick
               { s.store with
                 dir := put s.store.dir id (some { c with prot := true })
                 programs := s.store.programs ++ [Program.protect id c.first] } }.replied
             tag (ascii4 'P' 'R' 'O' 'T') [byte id] (.ok []))) ∧
  (∀ (s : State) (tag : BitVec 16) (incl : Bool), s.takes →
     (s.store.state ≠ .ready ∨
         (∃ i c, s.store.clip i = some c ∧ (c.state = .writing ∨ 0 < c.refs)) →
       exec (.frmt tag [flagByte incl]) s =
         .next (s.replied tag (ascii4 'F' 'R' 'M' 'T') [flagByte incl] (.refuse .busy))) ∧
     (s.store.state = .ready →
       (∀ i c, s.store.clip i = some c → c.state ≠ .writing ∧ c.refs = 0) →
       ((∃ i c, s.store.clip i = some c ∧ c.prot = true) → incl = false →
         exec (.frmt tag [flagByte incl]) s =
           .next (s.replied tag (ascii4 'F' 'R' 'M' 'T') [flagByte incl] (.refuse .locked))) ∧
       ((∀ i c, s.store.clip i = some c → c.prot = true → incl = true) →
         ∃ (st : Store) (queued : List SectorIx),
           queued = (List.finRange 256).filter (fun k => look s.store.sectors k = some .clip) ∧
           st =
             { s.store with
               dir := Vector.replicate 128 none
               state := .formatting
               sectors := st.sectors
               eraseQueue := s.store.eraseQueue ++ queued
               quiet := if queued = [] ∨ s.store.runOpen = true then s.store.quiet else some 1600 } ∧
           (∀ k, look st.sectors k =
             if look s.store.sectors k = some .clip then some .queued else look s.store.sectors k) ∧
           ((st.eraseQueue ≠ [] ∨ s.store.erase ≠ none) →
             exec (.frmt tag [flagByte incl]) s =
               .next ({ s with store := st.kick }.replied tag (ascii4 'F' 'R' 'M' 'T') [flagByte incl]
                 (.ok (le2 (st.eraseQueue.length + (if s.store.erase.isSome then 1 else 0)))))) ∧
           (st.eraseQueue = [] → s.store.erase = none →
             exec (.frmt tag [flagByte incl]) s =
               .next ({ s with
                 store := { st.kick with state := .ready }
                 router := s.router.record .storeReady .none 0 }.replied tag (ascii4 'F' 'R' 'M' 'T')
                   [flagByte incl] (.ok [0, 0]))))))

/-! ## The clip store: the flash -/

/-- A program that begins, where the flash is free, no refill waits and no erase is under way, is the oldest
(R142). A data page's bytes are those of its buffer, the unfilled ones 0xFF, at page 256f + 1 + k of the
clip's first sector f, and its sector is then one in which a program has begun; the header's stand at page 0
of f with the protect byte, a protect program's 0x00 at offset 5, a zeroing's 256 at page 0 (R138, R142,
R143, R151, R155). A program that is done has cleared bits of its bytes and of no other: each byte is what
it was, ANDed with what was programmed. A data page's buffer is empty again; the last data page of a sealed
clip lets the header follow; the header makes the clip VALID with its sectors CLIP, raises CLIP_READY, and
is followed by a protect program where the clip was protected meanwhile. The bytes are written as the report
comes (log 19); a report with no program under way, and the report of the other kind, change nothing (log 3)
(R136, R142, R143, R155). -/
def Obligations.ProgramsBeginAndComplete : Prop :=
  (∀ (st : Store) (p : Program) (ps : List Program), st.op = .none → st.erase = none →
    st.refills = [] → st.state ≠ .scanning → st.programs = p :: ps →
    ∃ (addr : Nat) (bytes : List Byte) (begun : Vector Bool 256),
      st.kick =
        { st with
          programs := ps, begun := begun
          op := .program { prog := p, addr := addr, bytes := bytes, run := 0, dropped := false } } ∧
      (∀ (id : ClipIx) (c : Clip) (k : SectorIx), st.clip id = some c → addr / 65536 = k.val →
        (∀ page b, p = .data id page b →
          addr = 256 * (256 * c.first.val + 1 + page) ∧ begun = put st.begun k true ∧
          bytes = (look st.buffers b).data ++ List.replicate (256 - (look st.buffers b).data.length) 0xFF) ∧
        (p = .header id →
          addr = 65536 * c.first.val ∧ begun = put st.begun k true ∧
          ∃ pre post : List Byte, pre = ascii4 'O' 'J' 'C' 'L' ++ [byte id] ∧
            post = le4 c.samples ++ le2 c.sectors ∧
            bytes = pre ++ [if c.prot then 0x00 else 0xFF] ++ post ++ le2 (crc16 (pre ++ post)).toNat)) ∧
      (∀ id (k : SectorIx), p = .protect id k →
        addr = 65536 * k.val + 5 ∧ bytes = [0x00] ∧ begun = st.begun) ∧
      ∀ k : SectorIx, p = .zero k →
        addr = 65536 * k.val ∧ bytes = List.replicate 256 0x00 ∧ begun = st.begun) ∧
  ∀ (s : State) (p : RunningProgram), Memory.wf s.flash = true →
    ((∀ x, s.store.op ≠ .program x) →
      exec .pageProgramComplete s = .next s ∧ exec .headerProgramComplete s = .next s) ∧
    (∀ c d : Instr, s.store.op = .program p → p.addr + p.bytes.length ≤ 16777216 →
      (c = .headerProgramComplete ∧ d = .pageProgramComplete ∧ ∃ id, p.prog = .header id) ∨
        (c = .pageProgramComplete ∧ d = .headerProgramComplete ∧ ∀ id, p.prog ≠ .header id) →
      exec d s = .next s ∧
      ∃ t : State, exec c s = .next t ∧
        (∀ a, flashRead t.flash a =
          if p.addr ≤ a then flashRead s.flash a &&& p.bytes.getD (a - p.addr) 0xFF
          else flashRead s.flash a) ∧
        ((p.dropped = true ∨ (∃ id k, p.prog = .protect id k) ∨ ∃ k, p.prog = .zero k) →
          t = { s with store := Store.kick { s.store with op := .none }, flash := t.flash }) ∧
        (∀ id k b, p.prog = .data id k b → p.dropped = false →
          ∀ c, s.store.clip id = some c → c.state = .writing →
          t =
            { s with
              flash := t.flash
              store := Store.kick
                { s.store with
                  op := .none
                  buffers := put s.store.buffers b { state := .empty, data := [] }
                  programs :=
                    if c.finishing = true ∧ ∀ x ∈ s.store.programs, x.isData id = false then
                      s.store.programs ++ [Program.header id]
                    else s.store.programs } }) ∧
        (∀ id c, p.prog = .header id → p.dropped = false → s.store.clip id = some c →
          ∃ v : Vector (Option SectorState) 256,
            (∀ k, look v k = if k ∈ c.run then some .clip else look s.store.sectors k) ∧
            t =
              { s with
                flash := t.flash
                router := s.router.record .clipReady (.clip id) (detail1 (byte c.first))
                store := Store.kick
                  { s.store with
                    op := .none
                    dir := put s.store.dir id
                      (some { c with state := .valid, remaining := 0, finishing := false })
                    sectors := v
                    programs :=
                      if c.prot = true ∧ p.bytes[5]? ≠ some 0x00 then
                        s.store.programs ++ [Program.protect id c.first]
                      else s.store.programs } }))

/-- A program not reported done in 5 ms has failed; before that nothing happens. It has cleared no bit but
those it was to clear. A data page's or header's clip is lost and its sector BAD, with STORE_FAULT cause
PROGRAM; of a protect program only STORE_FAULT cause PROTECT is raised, and its header is as it was; a
zeroing raises nothing and leaves its sector not blank and without a valid header, and a failed data page or
header makes no header that was not there, so that the next scan queues the sector (R136, R137, R145, R151,
R155; how far else a program came is a free value, log 19). -/
def Obligations.ProgramTimeoutFails : Prop :=
  ∀ (s : State) (p : RunningProgram) (k : SectorIx), Memory.wf s.flash = true →
    ((∀ x, s.store.op ≠ .program x) → exec .programTimeout s = .next s) ∧
    (s.store.op = .program p → p.run < 40 → exec .programTimeout s = .next s) ∧
    (s.store.op = .program p → 40 ≤ p.run → p.addr + p.bytes.length ≤ 16777216 →
      p.addr / 65536 = k.val → s.store.state ≠ .formatting →
      ∃ t : State, exec .programTimeout s = .next t ∧
        (∀ a, flashRead t.flash a &&& flashRead s.flash a = flashRead t.flash a ∧
          (p.addr ≤ a →
            flashRead t.flash a ||| (flashRead s.flash a &&& p.bytes.getD (a - p.addr) 0xFF) =
              flashRead t.flash a) ∧
          (a < p.addr ∨ p.addr + p.bytes.length ≤ a → flashRead t.flash a = flashRead s.flash a)) ∧
        (∀ id, (∃ pg b, p.prog = .data id pg b) ∨ p.prog = .header id →
          look t.store.sectors k = some .bad ∧
          t.router = s.router.record .storeFault (.sector k) (detail2 0 (byte id)) ∧
          (p.dropped = false →
            t.store.clip id = none ∧
            (s.store.clip id ≠ none →
              t.store.buffers = Vector.replicate 2 { state := .empty, data := [] }))) ∧
        (∀ id x, p.prog = .protect id x →
          t =
            { s with
              nonce := s.nonce + 1
              store := Store.kick { s.store with op := .none }
              router := s.router.record .storeFault (.sector k) (detail2 2 (byte id)) }) ∧
        (∀ x, p.prog = .zero x → p.addr = 65536 * k.val → p.bytes = List.replicate 256 0 →
          (∃ a, a / 65536 = k.val ∧ flashRead t.flash a ≠ 0xFF) ∧ headerReads t.flash k = false) ∧
        ((∃ id, (∃ pg b, p.prog = .data id pg b) ∨ p.prog = .header id) →
          headerReads s.flash k = false → headerReads t.flash k = false) ∧
        (∀ x, p.prog = .zero x →
          t =
            { s with
              flash := t.flash, nonce := s.nonce + 1
              store := Store.kick { s.store with op := .none } }))

/-- An erase that is done leaves every byte of its sector 0xFF and the sector ERASED; the last sector of a
clip, erased or failed, takes the entry with it, with CLIP_GONE and the number gone BAD, at most 255, and
the last of a format makes the store READY, with STORE_READY. An erase of 3 s of running time has failed: it
has cleared no bit, no valid header is left, the sector is BAD, its page 0 is to be zeroed, and STORE_FAULT
cause ERASE is raised. A suspended erase, and one short of 3 s, does neither (R136, R137, R150, R151, R156,
R189; log 39, and log 19 for how far a failed erase came). -/
def Obligations.EraseEndsSector : Prop :=
  ∀ (s : State) (e : EraseOp), Memory.wf s.flash = true →
    (s.store.erase = none ∨ (s.store.erase = some e ∧ e.phase = .suspended) →
      exec .eraseComplete s = .next s ∧ exec .eraseTimeout s = .next s) ∧
    (s.store.erase = some e → e.run < 24000 → exec .eraseTimeout s = .next s) ∧
    (s.store.erase = some e → e.phase ≠ .suspended →
      ∃ t : State, exec .eraseComplete s = .next t ∧
        (∀ a, flashRead t.flash a = if a / 65536 = e.sector.val then 0xFF else flashRead s.flash a) ∧
        (s.store.eraseOwner e.sector = none → s.store.state ≠ .formatting →
          t =
            { s with
              flash := t.flash
              store := Store.kick
                { s.store with
                  sectors := put s.store.sectors e.sector (some .erased), erase := none } }) ∧
        (s.store.eraseOwner e.sector = none → s.store.state = .formatting → s.store.eraseQueue = [] →
          t =
            { s with
              flash := t.flash
              router := s.router.record .storeReady .none 0
              store := Store.kick
                { s.store with
                  state := .ready, erase := none
                  sectors := put s.store.sectors e.sector (some .erased) } }) ∧
        (∀ id c, s.store.eraseOwner e.sector = some id → s.store.clip id = some c →
          s.store.state ≠ .formatting →
          t =
            { s with
              flash := t.flash
              router :=
                if c.eraseLeft ≤ 1 then
                  s.router.record .clipGone (.clip id) (detail1 (byte (min 255 c.goneBad)))
                else s.router
              store := Store.kick
                { s.store with
                  sectors := put s.store.sectors e.sector (some .erased), erase := none
                  dir := put s.store.dir id
                    (if c.eraseLeft ≤ 1 then none
                    else some { c with eraseLeft := c.eraseLeft - 1 }) } })) ∧
    (s.store.erase = some e → e.phase ≠ .suspended → 24000 ≤ e.run →
      ∃ t : State, exec .eraseTimeout s = .next t ∧ headerReads t.flash e.sector = false ∧
        (∀ a, flashRead t.flash a &&& flashRead s.flash a = flashRead s.flash a ∧
          (a / 65536 ≠ e.sector.val → flashRead t.flash a = flashRead s.flash a)) ∧
        (s.store.eraseOwner e.sector = none → s.store.state ≠ .formatting →
          t =
            { s with
              flash := t.flash, nonce := s.nonce + 1
              router := s.router.record .storeFault (.sector e.sector) (detail2 1 0xFF)
              store := Store.kick
                { s.store with
                  sectors := put s.store.sectors e.sector (some .bad), erase := none
                  programs := s.store.programs ++ [Program.zero e.sector] } }) ∧
        (∀ id c, s.store.eraseOwner e.sector = some id → s.store.clip id = some c →
          s.store.state ≠ .formatting → 1 < c.eraseLeft →
          t =
            { s with
              flash := t.flash, nonce := s.nonce + 1
              router := s.router.record .storeFault (.sector e.sector) (detail2 1 (byte id))
              store := Store.kick
                { s.store with
                  sectors := put s.store.sectors e.sector (some .bad), erase := none
                  programs := s.store.programs ++ [Program.zero e.sector]
                  dir := put s.store.dir id
                    (some
                      { c with
                        eraseLeft := c.eraseLeft - 1, goneBad := c.goneBad + 1 }) } }) ∧
        (∀ id c, s.store.eraseOwner e.sector = some id → s.store.clip id = some c →
          s.store.state ≠ .formatting → c.eraseLeft ≤ 1 →
          t =
            { s with
              flash := t.flash, nonce := s.nonce + 1
              router :=
                (s.router.record .storeFault (.sector e.sector) (detail2 1 (byte id))).record .clipGone
                  (.clip id) (detail1 (byte (min 255 (c.goneBad + 1))))
              store := Store.kick
                { s.store with
                  sectors := put s.store.sectors e.sector (some .bad), erase := none
                  programs := s.store.programs ++ [Program.zero e.sector]
                  dir := put s.store.dir id none } }))

/-- The flash arbiter. Nothing begins while an operation is under way that is no suspended erase, nor while the
store is SCANNING. Otherwise the oldest refill waiting begins; with none a suspended erase runs again; then the
oldest program begins (O54 says how); then, in an open run, the erase of the head of the queue: the sector
leaves the queue, whose end closes the run, and is ERASING, and a RETIRING clip whose first sector it is becomes
ERASING (R142, R146, R148, R149, R150). That a refill begun stays in its queue until its read is done is the
model's choice, log 47 (R147). The quiet window at 0 opens the erase run if a sector is queued; a running erase
past its resume hold is asked to suspend where refills wait; the suspend that takes effect is counted. None acts
before it is due (R148, R149; log 3). -/
def Obligations.ArbiterAndEraseTimersAct : Prop :=
  (∀ (st : Store) (free : Prop),
    (free ↔ st.state ≠ .scanning ∧ st.op = .none ∧ ∀ e, st.erase = some e → e.phase = .suspended) →
    (¬free → st.kick = st) ∧
    (free →
      (∀ r rs, st.refills = r :: rs → st.kick = { st with op := .read r false }) ∧
      (st.refills = [] →
        (∀ e, st.erase = some e →
          st.kick = { st with erase := some { e with phase := .running, since := 0 } }) ∧
        (st.erase = none →
          (∀ p ps, st.programs = p :: ps →
            ∃ r, st.kick.op = .program r ∧ r.prog = p ∧ r.run = 0 ∧ r.dropped = false ∧
              st.kick.programs = ps) ∧
          (st.programs = [] →
            (st.runOpen = false ∨ st.eraseQueue = [] → st.kick = st) ∧
            ∀ k q, st.runOpen = true → st.eraseQueue = k :: q → k ∉ q →
              ∃ dir, st.kick =
                { st with
                  dir := dir, eraseQueue := q, runOpen := !q.isEmpty
                  sectors := put st.sectors k (some .erasing)
                  erase := some
                    { sector := k, phase := .running, run := 0, since := 0, suspends := 0 } } ∧
                ∀ id, (look st.dir id = none → look dir id = none) ∧
                  ∀ c, look st.dir id = some c →
                    (c.state ≠ .retiring ∨ c.first ≠ k → look dir id = some c) ∧
                    (c.state = .retiring → c.first = k →
                      (∀ j < id, ∀ d, look st.dir j = some d → d.state ≠ .retiring ∨ d.first ≠ k) →
                      look dir id = some { c with state := .erasing })))))) ∧
  ∀ s : State,
    (exec .quietWindowExpiry s =
      .next
        (if s.store.quiet = some 0 then
          { s with
            store := Store.kick
              { s.store with
                quiet := none
                runOpen := s.store.runOpen || !s.store.eraseQueue.isEmpty } }
        else s)) ∧
    (s.store.refills = [] ∨ s.store.erase = none → exec .resumeHoldExpiry s = .next s) ∧
    (∀ e, s.store.refills ≠ [] → s.store.erase = some e →
      exec .resumeHoldExpiry s =
        .next { s with
          store := { s.store with
            erase := some
              { e with
                phase :=
                  if e.phase = .running ∧ 32 ≤ e.since then ErasePhase.suspending else e.phase } } }) ∧
    (s.store.erase = none → exec .eraseSuspendEffect s = .next s) ∧
    (∀ e, s.store.erase = some e →
      exec .eraseSuspendEffect s =
        .next
          (if e.phase = .suspending then
            { s with
              store := Store.kick
                { s.store with
                  erase := some { e with phase := .suspended, suspends := e.suspends + 1 } } }
          else s))

/-- The start-up scan. The device ready, page 0 of sector 0 is read first; a header as the controller writes
it claims its clip's sectors and makes a VALID entry, and the next sector not claimed is read; after the
last, the blank check begins. A sector not claimed is ERASED if all its bytes are 0xFF and otherwise
QUEUED; after the last the store is READY and STORE_READY carries the clips found. Each report is taken
only where the scan waits for it (R157, R158; log 3). -/
def Obligations.StartUpScanFindsClips : Prop :=
  ∀ (s : State) (k : SectorIx), Memory.wf s.flash = true →
    (exec .flashDeviceReady s =
      .next
        (if s.store.scan = .awaitDevice then { s with store := { s.store with scan := .readPage 0 } }
        else s)) ∧
    ((∀ x, s.store.scan ≠ .readPage x) → exec .scanReadComplete s = .next s) ∧
    ((∀ x, s.store.scan ≠ .blankCheck x) → exec .blankCheckComplete s = .next s) ∧
    (s.store.scan = .readPage k →
      (∀ (id : ClipIx) (c : Clip) (j : SectorIx) (v : Vector (Option SectorState) 256), id ≠ 0 →
        s.store.clip id = none → 1 ≤ c.samples → c.samples ≤ 8388480 →
        c.sectors = sectorsFor c.samples → k.val + c.sectors ≤ 256 →
        flashBytes s.flash (65536 * k.val) 14 = headerBytes id c →
        (∀ x, look v x =
          if k.val ≤ x.val ∧ x.val < k.val + c.sectors then some .clip else look s.store.sectors x) →
        k < j → look v j = none → (∀ x, k < x → x < j → look v x ≠ none) →
        exec .scanReadComplete s =
          .next { s with
            store := { s.store with
              scan := .readPage j, sectors := v
              dir := put s.store.dir id
                (some
                  { first := k, sectors := c.sectors, samples := c.samples, state := .valid,
                    prot := c.prot, refs := 0, remaining := 0, finishing := false, nextPage := 0,
                    eraseLeft := 0, goneBad := 0 }) } }) ∧
      (flashBytes s.flash (65536 * k.val) 4 ≠ ascii4 'O' 'J' 'C' 'L' →
        (∀ j, k < j → look s.store.sectors j = none →
          (∀ x, k < x → x < j → look s.store.sectors x ≠ none) →
          exec .scanReadComplete s =
            .next { s with store := { s.store with scan := .readPage j } }) ∧
        (∀ j, look s.store.sectors j = none → (∀ x < j, look s.store.sectors x ≠ none) →
          (∀ x, k < x → look s.store.sectors x ≠ none) →
          exec .scanReadComplete s =
            .next { s with store := { s.store with scan := .blankCheck j } }))) ∧
    (s.store.scan = .blankCheck k → ∀ (blank : Bool) (st : Store),
      (blank = true ↔ ∀ a, a / 65536 = k.val → flashRead s.flash a = 0xFF) →
      st =
        (if blank then { s.store with sectors := put s.store.sectors k (some .erased) }
        else
          { s.store with
            sectors := put s.store.sectors k (some .queued)
            eraseQueue := s.store.eraseQueue ++ [k]
            quiet := if s.store.runOpen then s.store.quiet else some 1600 }) →
      (∀ j, k < j → look s.store.sectors j = none →
        (∀ x, k < x → x < j → look s.store.sectors x ≠ none) →
        exec .blankCheckComplete s =
          .next { s with store := { st with scan := .blankCheck j } }) ∧
      ((∀ x, k < x → look s.store.sectors x ≠ none) →
        exec .blankCheckComplete s =
          .next { s with
            store := Store.kick { st with state := .ready, scan := .none }
            router := s.router.record .storeReady .none (detail1 (byte s.store.clipCount)) }))

/-! ## Events and the notice queue -/

/-- ROUT READ answers with a kind's route whatever its other fields, ROUT SET of a cue route on one of the 13
kinds, or of none, stores notify and route, and of a cue route on any other kind is BADARG; NMOD sets the
delivery mode (R166, R172, R174). NFET in POLL mode answers with up to as many records as asked for from the
head of the queue, oldest first, and takes them out; outside 1–8 it is answered BADARG, in PUSH mode STATE
(R170). A cue route on MUTE_ON, NOISE_HIGH, PARK_ALARM or COACH_ENDED posts its prompt with the event, where the
route resolves: at the subject of MUTE_ON, by PMUT, and of NOISE_HIGH, by the block end that completes the 2,000
ms or by a high timer that stands there; at the bound or else the owner position of PARK_ALARM's leg, and
nowhere with neither; at the agent of a pair that ends. Other kinds are left out. The posting waits in service
order or plays, or is dropped with WHISPER_DROPPED and reason STATE, EMPTY or FULL, its record behind that of
the event (R121, R165, R166; log 20). -/
def Obligations.RoutNmodNfetServeRecords : Prop :=
  (∀ (s : State) (tag : BitVec 16) (k : EventKind) (x y z : Byte) (notify : Bool)
     (route : Option (CueIx × Level)) (mode : Delivery) (payload : List Byte), s.takes →
     payload = k.tag ++ [1, flagByte notify] ++
       route.elim [0xFF, z] (fun r => [byte r.1, r.2.code]) →
     exec (.rout tag (k.tag ++ [0, x, y, z])) s =
       .next (s.replied tag (ascii4 'R' 'O' 'U' 'T') (k.tag ++ [0, x, y, z])
         (.ok (flagByte (look s.router.routes k.index).notify ::
           (look s.router.routes k.index).cue.elim [0xFF, 0xFF] fun r => [byte r.1, r.2.code]))) ∧
     exec (.rout tag payload) s =
       .next
         (if route ≠ none ∧ k ∈ [.started, .whisperDone, .whisperDropped, .cursorUnderrun, .clipMissing,
             .announceFired, .clipReady, .clipGone, .storeFault, .storeReady, .linkFault] then
           s.replied tag (ascii4 'R' 'O' 'U' 'T') payload (.refuse .badarg)
         else
           { s with
             router := { s.router with
               routes := put s.router.routes k.index { notify := notify, cue := route } } }.replied
             tag (ascii4 'R' 'O' 'U' 'T') payload
             (.ok (flagByte notify :: route.elim [0xFF, 0xFF] fun r => [byte r.1, r.2.code]))) ∧
     exec (.nmod tag [mode.code]) s =
       .next
         ({ s with router := { s.router with mode := mode } }.replied tag (ascii4 'N' 'M' 'O' 'D')
           [mode.code] (.ok [mode.code, byte s.router.notices.length]))) ∧
  (∀ (s : State) (tag : BitVec 16) (n : Nat), s.takes → n ≤ 255 →
     exec (.nfet tag [byte n]) s =
       .next
         (if n < 1 ∨ 8 < n then s.replied tag (ascii4 'N' 'F' 'E' 'T') [byte n] (.refuse .badarg)
         else if s.router.mode = .push then
           s.replied tag (ascii4 'N' 'F' 'E' 'T') [byte n] (.refuse .state)
         else
           { s with
             router := { s.router with notices := s.router.notices.drop n } }.replied
             tag (ascii4 'N' 'F' 'E' 'T') [byte n]
             (.ok ([byte (s.router.notices.take n).length, flagByte s.router.overflow,
                 byte (s.router.notices.drop n).length] ++
               (s.router.notices.take n).flatMap fun x : Notice =>
                 x.kind.tag ++ x.subject.bytes ++ le2 x.detail.toNat ++ le4 x.stamp.toNat)))) ∧
  (∀ (s u : State) (q : CueIx) (level : Level), s.postings = [] →
     (∀ p, s.onlyRoute .noiseHigh q level → (look s.sup p).alarm = .normal →
       2000 ≤ (look s.sup p).highTimer →
       u =
         { s with
           sup := upd s.sup p fun c => { c with alarm := .high, highTimer := 0, lowTimer := 0 }
           router := s.router.record .noiseHigh (.position p)
             (detail2 (sbyte (look s.sup p).floor) (sbyte (look s.sup p).threshold)) } →
       ∃ t : State, exec (.highTimerExpiry p) s = .next t ∧ u.routedTo t p q level) ∧
     (∀ p c d, s.onlyRoute .noiseHigh q level → c = look s.sup p →
       d = (c.decideSpeech (c.gather.take 64)).learn (bandLevels (c.gather.take 64)) →
       (look s.pos p).present = true → 64 ≤ c.gather.length → c.alarm = .normal → c.highTimer < 2000 →
       2000 ≤ c.highTimer + 8 → 500 ≤ d.learned → c.threshold < d.floor →
       ∃ t : State, exec (.analysisBlockEnd p) s = .next t ∧ (look t.sup p).alarm = .high ∧
         { s with
           sup := t.sup
           router := s.router.record .noiseHigh (.position p)
             (detail2 (sbyte d.floor) (sbyte c.threshold)) }.routedTo t p q level) ∧
     (∀ tag p x, s.takes → s.onlyRoute .muteOn q level → x = { look s.pos p with hostMute := true } →
       x.muted = true → (look s.pos p).muted = false →
       ∃ t : State,
         exec (.pmut tag [byte p, 1]) s =
           .next (t.replied tag (ascii4 'P' 'M' 'U' 'T') [byte p, 1] (.ok [])) ∧
         { s with
           pos := put s.pos p { x with muteChanged := !s.router.enters .muteOn }
           sup := t.sup, nonce := t.nonce
           router := s.router.record .muteOn (.position p) (detail2 (flagByte x.keyHeld) 1)
           }.routedTo t p q level) ∧
     (∀ n g t0, s.onlyRoute .parkAlarm q level → (look s.legs n).state = .parked →
       (look s.legs n).fired = false → (look s.legs n).group = some g →
       (look s.legs n).parkTime = some t0 → 0 < (look s.groups g).alarm →
       1000 * (look s.groups g).alarm ≤ (s.router.stamp - t0).toNat →
       u =
         { s with
           legs := upd s.legs n fun l => { l with fired := true }
           router := s.router.record .parkAlarm (.leg n)
             (detail2 (ixByte (look s.legs n).owner) (byte g)) } →
       ((look s.legs n).bound = none → (look s.legs n).owner = none →
         exec (.parkAlarmExpiry n) s = .next u) ∧
       ∀ p, (look s.legs n).bound = some p ∨
           ((look s.legs n).bound = none ∧ (look s.legs n).owner = some p) →
         ∃ t : State, exec (.parkAlarmExpiry n) s = .next t ∧ u.routedTo t p q level) ∧
     ∀ tag p x, s.takes → s.onlyRoute .coachEnded q level →
       s.pairs.find? (fun y => y.supervisor = p || y.agent = p) = some x → x.active = false →
       u =
         { s with
           pairs := s.pairs.filter fun y => y ≠ x
           pos :=
             (upd (upd s.pos x.agent fun y => { y with coach := none }) x.supervisor fun y =>
               { y with coach := none, state := if y.state = .coaching then .idle else y.state })
           router := s.router.record .coachEnded (.position x.agent)
             (detail2 (byte x.supervisor) 0) } →
       ∃ t : State,
         exec (.cdet tag [byte p]) s =
           .next (t.replied tag (ascii4 'C' 'D' 'E' 'T') [byte p]
             (.ok [byte (if x.supervisor = p then x.agent else x.supervisor)])) ∧
         u.routedTo t x.agent q level)

/-- NCLR empties the notice queue, clears the overflow flag and answers with the number of records discarded
and the flag as it stood; NOTIFY falls (R173). -/
def Obligations.NclrEmptiesQueue : Prop :=
  ∀ (s : State) (tag : BitVec 16), s.takes →
    ∃ t : State, exec (.nclr tag []) s = .next t ∧ t.router.notifyPin = false ∧
      t =
        { s with router := { s.router with notices := [], overflow := false } }.replied tag
          (ascii4 'N' 'C' 'L' 'R') []
          (.ok [byte s.router.notices.length, flagByte s.router.overflow])
end

