-- ==== Sys2Proof/Laws/State.lean ====
section
/-! SUPPORT. Reading a table after a write, and one lemma for each field of each update of the state. -/

namespace Sys2Proof.Machine

/-! ## Tables -/

section Tables

variable {α β : Type} {n : Nat}

theorem look_ext {v w : Vector α n} (h : ∀ i, look v i = look w i) : v = w :=
  Vector.ext fun i hi => h ⟨i, hi⟩

@[simp] theorem look_put_self (v : Vector α n) (i : Fin n) (x : α) : look (put v i x) i = x := by
  simp [look, put]

theorem look_put (v : Vector α n) (i j : Fin n) (x : α) :
    look (put v i x) j = if i = j then x else look v j := by
  simp [look, put, Vector.getElem_set, Fin.ext_iff]

theorem look_put_of_ne (v : Vector α n) {i j : Fin n} (h : i ≠ j) (x : α) :
    look (put v i x) j = look v j := by simp [look_put, h]

@[simp] theorem look_upd_self (v : Vector α n) (i : Fin n) (f : α → α) :
    look (upd v i f) i = f (look v i) := by simp [upd]

theorem look_upd (v : Vector α n) (i j : Fin n) (f : α → α) :
    look (upd v i f) j = if i = j then f (look v i) else look v j := by simp [upd, look_put]

theorem look_upd_of_ne (v : Vector α n) {i j : Fin n} (h : i ≠ j) (f : α → α) :
    look (upd v i f) j = look v j := by simp [look_upd, h]

@[simp] theorem look_mapIx (v : Vector α n) (f : Fin n → α → α) (i : Fin n) :
    look (mapIx v f) i = f i (look v i) := by simp [look, mapIx]

@[simp] theorem look_replicate (i : Fin n) (x : α) : look (Vector.replicate n x) i = x := by
  simp [look]

@[simp] theorem look_ofFn (f : Fin n → α) (i : Fin n) : look (Vector.ofFn f) i = f i := by
  simp [look]

@[simp] theorem look_map (v : Vector α n) (f : α → β) (i : Fin n) :
    look (v.map f) i = f (look v i) := by simp [look]

/-- Writing back what stands there changes nothing. -/
@[simp] theorem put_look (v : Vector α n) (i : Fin n) : put v i (look v i) = v :=
  look_ext fun j => by rw [look_put]; split <;> simp_all

/-- The later of two writes of one place stands. -/
@[simp] theorem put_put (v : Vector α n) (i : Fin n) (x y : α) : put (put v i x) i y = put v i y :=
  look_ext fun j => by simp only [look_put]; split <;> rfl

/-- Two changes of one place are one. -/
@[simp] theorem upd_upd (v : Vector α n) (i : Fin n) (f g : α → α) :
    upd (upd v i f) i g = upd v i fun x => g (f x) := by simp [upd]

theorem upd_id (v : Vector α n) (i : Fin n) (f : α → α) (h : f (look v i) = look v i) :
    upd v i f = v := by simp [upd, h]

end Tables

/-! ## Updates of `State` -/

section StateUpdates

variable (s : State)

@[simp] theorem State.onUnits_toUnits (f : Units → Units) :
    (s.onUnits f).toUnits = f s.toUnits := rfl
@[simp] theorem State.onUnits_sup (f : Units → Units) :
    (s.onUnits f).sup = s.sup := rfl
@[simp] theorem State.onUnits_slots (f : Units → Units) :
    (s.onUnits f).slots = s.slots := rfl
@[simp] theorem State.onUnits_link (f : Units → Units) :
    (s.onUnits f).link = s.link := rfl
@[simp] theorem State.onUnits_flash (f : Units → Units) :
    (s.onUnits f).flash = s.flash := rfl
@[simp] theorem State.onUnits_earpiece (f : Units → Units) :
    (s.onUnits f).earpiece = s.earpiece := rfl
@[simp] theorem State.onUnits_outbound (f : Units → Units) :
    (s.onUnits f).outbound = s.outbound := rfl
@[simp] theorem State.onUnits_pending (f : Units → Units) :
    (s.onUnits f).pending = s.pending := rfl

@[simp] theorem State.onMedia_toUnits (f : Media → Media) :
    (s.onMedia f).toUnits = s.toUnits.onMedia f := rfl
@[simp] theorem State.onMedia_sup (f : Media → Media) :
    (s.onMedia f).sup = s.sup := rfl
@[simp] theorem State.onMedia_slots (f : Media → Media) :
    (s.onMedia f).slots = s.slots := rfl
@[simp] theorem State.onMedia_link (f : Media → Media) :
    (s.onMedia f).link = s.link := rfl
@[simp] theorem State.onMedia_flash (f : Media → Media) :
    (s.onMedia f).flash = s.flash := rfl
@[simp] theorem State.onMedia_earpiece (f : Media → Media) :
    (s.onMedia f).earpiece = s.earpiece := rfl
@[simp] theorem State.onMedia_outbound (f : Media → Media) :
    (s.onMedia f).outbound = s.outbound := rfl
@[simp] theorem State.onMedia_pending (f : Media → Media) :
    (s.onMedia f).pending = s.pending := rfl

@[simp] theorem State.onSup_toUnits (p : PosIx) (f : Suppressor → Suppressor) :
    (s.onSup p f).toUnits = s.toUnits := rfl
@[simp] theorem State.onSup_sup (p : PosIx) (f : Suppressor → Suppressor) :
    (s.onSup p f).sup = upd s.sup p f := rfl
@[simp] theorem State.onSup_slots (p : PosIx) (f : Suppressor → Suppressor) :
    (s.onSup p f).slots = s.slots := rfl
@[simp] theorem State.onSup_link (p : PosIx) (f : Suppressor → Suppressor) :
    (s.onSup p f).link = s.link := rfl
@[simp] theorem State.onSup_flash (p : PosIx) (f : Suppressor → Suppressor) :
    (s.onSup p f).flash = s.flash := rfl
@[simp] theorem State.onSup_earpiece (p : PosIx) (f : Suppressor → Suppressor) :
    (s.onSup p f).earpiece = s.earpiece := rfl
@[simp] theorem State.onSup_outbound (p : PosIx) (f : Suppressor → Suppressor) :
    (s.onSup p f).outbound = s.outbound := rfl
@[simp] theorem State.onSup_pending (p : PosIx) (f : Suppressor → Suppressor) :
    (s.onSup p f).pending = s.pending := rfl

@[simp] theorem State.setAssembler_toUnits (a : Assembler) :
    (s.setAssembler a).toUnits = s.toUnits := rfl
@[simp] theorem State.setAssembler_sup (a : Assembler) :
    (s.setAssembler a).sup = s.sup := rfl
@[simp] theorem State.setAssembler_slots (a : Assembler) :
    (s.setAssembler a).slots = s.slots := rfl
@[simp] theorem State.setAssembler_link (a : Assembler) :
    (s.setAssembler a).link = { s.link with assembler := a, gap := 0 } := rfl
@[simp] theorem State.setAssembler_flash (a : Assembler) :
    (s.setAssembler a).flash = s.flash := rfl
@[simp] theorem State.setAssembler_earpiece (a : Assembler) :
    (s.setAssembler a).earpiece = s.earpiece := rfl
@[simp] theorem State.setAssembler_outbound (a : Assembler) :
    (s.setAssembler a).outbound = s.outbound := rfl
@[simp] theorem State.setAssembler_pending (a : Assembler) :
    (s.setAssembler a).pending = s.pending := rfl

end StateUpdates

/-! ## Updates of `Units` -/

section UnitsUpdates

variable (u : Units)

@[simp] theorem Units.onMedia_toMedia (f : Media → Media) :
    (u.onMedia f).toMedia = f u.toMedia := rfl
@[simp] theorem Units.onMedia_legs (f : Media → Media) :
    (u.onMedia f).legs = u.legs := rfl
@[simp] theorem Units.onMedia_pos (f : Media → Media) :
    (u.onMedia f).pos = u.pos := rfl
@[simp] theorem Units.onMedia_groups (f : Media → Media) :
    (u.onMedia f).groups = u.groups := rfl
@[simp] theorem Units.onMedia_whisper (f : Media → Media) :
    (u.onMedia f).whisper = u.whisper := rfl
@[simp] theorem Units.onMedia_pairs (f : Media → Media) :
    (u.onMedia f).pairs = u.pairs := rfl

@[simp] theorem Units.onLeg_toMedia (n : LegIx) (f : Leg → Leg) :
    (u.onLeg n f).toMedia = u.toMedia := rfl
@[simp] theorem Units.onLeg_legs (n : LegIx) (f : Leg → Leg) :
    (u.onLeg n f).legs = upd u.legs n f := rfl
@[simp] theorem Units.onLeg_pos (n : LegIx) (f : Leg → Leg) :
    (u.onLeg n f).pos = u.pos := rfl
@[simp] theorem Units.onLeg_groups (n : LegIx) (f : Leg → Leg) :
    (u.onLeg n f).groups = u.groups := rfl
@[simp] theorem Units.onLeg_whisper (n : LegIx) (f : Leg → Leg) :
    (u.onLeg n f).whisper = u.whisper := rfl
@[simp] theorem Units.onLeg_pairs (n : LegIx) (f : Leg → Leg) :
    (u.onLeg n f).pairs = u.pairs := rfl

@[simp] theorem Units.onPos_toMedia (p : PosIx) (f : Position → Position) :
    (u.onPos p f).toMedia = u.toMedia := rfl
@[simp] theorem Units.onPos_legs (p : PosIx) (f : Position → Position) :
    (u.onPos p f).legs = u.legs := rfl
@[simp] theorem Units.onPos_pos (p : PosIx) (f : Position → Position) :
    (u.onPos p f).pos = upd u.pos p f := rfl
@[simp] theorem Units.onPos_groups (p : PosIx) (f : Position → Position) :
    (u.onPos p f).groups = u.groups := rfl
@[simp] theorem Units.onPos_whisper (p : PosIx) (f : Position → Position) :
    (u.onPos p f).whisper = u.whisper := rfl
@[simp] theorem Units.onPos_pairs (p : PosIx) (f : Position → Position) :
    (u.onPos p f).pairs = u.pairs := rfl

@[simp] theorem Units.onGroup_toMedia (g : GroupIx) (f : Group → Group) :
    (u.onGroup g f).toMedia = u.toMedia := rfl
@[simp] theorem Units.onGroup_legs (g : GroupIx) (f : Group → Group) :
    (u.onGroup g f).legs = u.legs := rfl
@[simp] theorem Units.onGroup_pos (g : GroupIx) (f : Group → Group) :
    (u.onGroup g f).pos = u.pos := rfl
@[simp] theorem Units.onGroup_groups (g : GroupIx) (f : Group → Group) :
    (u.onGroup g f).groups = upd u.groups g f := rfl
@[simp] theorem Units.onGroup_whisper (g : GroupIx) (f : Group → Group) :
    (u.onGroup g f).whisper = u.whisper := rfl
@[simp] theorem Units.onGroup_pairs (g : GroupIx) (f : Group → Group) :
    (u.onGroup g f).pairs = u.pairs := rfl

@[simp] theorem Units.onWhisper_toMedia (p : PosIx) (f : Whisper → Whisper) :
    (u.onWhisper p f).toMedia = u.toMedia := rfl
@[simp] theorem Units.onWhisper_legs (p : PosIx) (f : Whisper → Whisper) :
    (u.onWhisper p f).legs = u.legs := rfl
@[simp] theorem Units.onWhisper_pos (p : PosIx) (f : Whisper → Whisper) :
    (u.onWhisper p f).pos = u.pos := rfl
@[simp] theorem Units.onWhisper_groups (p : PosIx) (f : Whisper → Whisper) :
    (u.onWhisper p f).groups = u.groups := rfl
@[simp] theorem Units.onWhisper_whisper (p : PosIx) (f : Whisper → Whisper) :
    (u.onWhisper p f).whisper = upd u.whisper p f := rfl
@[simp] theorem Units.onWhisper_pairs (p : PosIx) (f : Whisper → Whisper) :
    (u.onWhisper p f).pairs = u.pairs := rfl

@[simp] theorem Units.raise_toMedia (k : EventKind) (x : Subject) (d : BitVec 16) (t : Option PosIx) :
    (u.raise k x d t).toMedia = u.toMedia.raise k x d t := rfl
@[simp] theorem Units.raise_legs (k : EventKind) (x : Subject) (d : BitVec 16) (t : Option PosIx) :
    (u.raise k x d t).legs = u.legs := rfl
@[simp] theorem Units.raise_pos (k : EventKind) (x : Subject) (d : BitVec 16) (t : Option PosIx) :
    (u.raise k x d t).pos = u.pos := rfl
@[simp] theorem Units.raise_groups (k : EventKind) (x : Subject) (d : BitVec 16) (t : Option PosIx) :
    (u.raise k x d t).groups = u.groups := rfl
@[simp] theorem Units.raise_whisper (k : EventKind) (x : Subject) (d : BitVec 16) (t : Option PosIx) :
    (u.raise k x d t).whisper = u.whisper := rfl
@[simp] theorem Units.raise_pairs (k : EventKind) (x : Subject) (d : BitVec 16) (t : Option PosIx) :
    (u.raise k x d t).pairs = u.pairs := rfl

end UnitsUpdates

/-! ## Updates of `Media` -/

section MediaUpdates

variable (m : Media)

@[simp] theorem Media.onPool_can (f : Pool → Pool) :
    (m.onPool f).can = m.can := rfl
@[simp] theorem Media.onPool_pool (f : Pool → Pool) :
    (m.onPool f).pool = f m.pool := rfl
@[simp] theorem Media.onPool_cues (f : Pool → Pool) :
    (m.onPool f).cues = m.cues := rfl
@[simp] theorem Media.onPool_cursors (f : Pool → Pool) :
    (m.onPool f).cursors = m.cursors := rfl
@[simp] theorem Media.onPool_store (f : Pool → Pool) :
    (m.onPool f).store = m.store := rfl
@[simp] theorem Media.onPool_router (f : Pool → Pool) :
    (m.onPool f).router = m.router := rfl
@[simp] theorem Media.onPool_postings (f : Pool → Pool) :
    (m.onPool f).postings = m.postings := rfl
@[simp] theorem Media.onPool_nonce (f : Pool → Pool) :
    (m.onPool f).nonce = m.nonce := rfl

@[simp] theorem Media.onCan_can (n : LegIx) (f : Canceller → Canceller) :
    (m.onCan n f).can = upd m.can n f := rfl
@[simp] theorem Media.onCan_pool (n : LegIx) (f : Canceller → Canceller) :
    (m.onCan n f).pool = m.pool := rfl
@[simp] theorem Media.onCan_cues (n : LegIx) (f : Canceller → Canceller) :
    (m.onCan n f).cues = m.cues := rfl
@[simp] theorem Media.onCan_cursors (n : LegIx) (f : Canceller → Canceller) :
    (m.onCan n f).cursors = m.cursors := rfl
@[simp] theorem Media.onCan_store (n : LegIx) (f : Canceller → Canceller) :
    (m.onCan n f).store = m.store := rfl
@[simp] theorem Media.onCan_router (n : LegIx) (f : Canceller → Canceller) :
    (m.onCan n f).router = m.router := rfl
@[simp] theorem Media.onCan_postings (n : LegIx) (f : Canceller → Canceller) :
    (m.onCan n f).postings = m.postings := rfl
@[simp] theorem Media.onCan_nonce (n : LegIx) (f : Canceller → Canceller) :
    (m.onCan n f).nonce = m.nonce := rfl

@[simp] theorem Media.onCur_can (c : CurIx) (f : Cursor → Cursor) :
    (m.onCur c f).can = m.can := rfl
@[simp] theorem Media.onCur_pool (c : CurIx) (f : Cursor → Cursor) :
    (m.onCur c f).pool = m.pool := rfl
@[simp] theorem Media.onCur_cues (c : CurIx) (f : Cursor → Cursor) :
    (m.onCur c f).cues = m.cues := rfl
@[simp] theorem Media.onCur_cursors (c : CurIx) (f : Cursor → Cursor) :
    (m.onCur c f).cursors = upd m.cursors c f := rfl
@[simp] theorem Media.onCur_store (c : CurIx) (f : Cursor → Cursor) :
    (m.onCur c f).store = m.store := rfl
@[simp] theorem Media.onCur_router (c : CurIx) (f : Cursor → Cursor) :
    (m.onCur c f).router = m.router := rfl
@[simp] theorem Media.onCur_postings (c : CurIx) (f : Cursor → Cursor) :
    (m.onCur c f).postings = m.postings := rfl
@[simp] theorem Media.onCur_nonce (c : CurIx) (f : Cursor → Cursor) :
    (m.onCur c f).nonce = m.nonce := rfl

@[simp] theorem Media.onStore_can (f : Store → Store) :
    (m.onStore f).can = m.can := rfl
@[simp] theorem Media.onStore_pool (f : Store → Store) :
    (m.onStore f).pool = m.pool := rfl
@[simp] theorem Media.onStore_cues (f : Store → Store) :
    (m.onStore f).cues = m.cues := rfl
@[simp] theorem Media.onStore_cursors (f : Store → Store) :
    (m.onStore f).cursors = m.cursors := rfl
@[simp] theorem Media.onStore_store (f : Store → Store) :
    (m.onStore f).store = f m.store := rfl
@[simp] theorem Media.onStore_router (f : Store → Store) :
    (m.onStore f).router = m.router := rfl
@[simp] theorem Media.onStore_postings (f : Store → Store) :
    (m.onStore f).postings = m.postings := rfl
@[simp] theorem Media.onStore_nonce (f : Store → Store) :
    (m.onStore f).nonce = m.nonce := rfl

@[simp] theorem Media.kick_can :
    m.kick.can = m.can := rfl
@[simp] theorem Media.kick_pool :
    m.kick.pool = m.pool := rfl
@[simp] theorem Media.kick_cues :
    m.kick.cues = m.cues := rfl
@[simp] theorem Media.kick_cursors :
    m.kick.cursors = m.cursors := rfl
@[simp] theorem Media.kick_store :
    m.kick.store = m.store.kick := rfl
@[simp] theorem Media.kick_router :
    m.kick.router = m.router := rfl
@[simp] theorem Media.kick_postings :
    m.kick.postings = m.postings := rfl
@[simp] theorem Media.kick_nonce :
    m.kick.nonce = m.nonce := rfl

@[simp] theorem Media.raise_can (k : EventKind) (x : Subject) (d : BitVec 16) (t : Option PosIx) :
    (m.raise k x d t).can = m.can := rfl
@[simp] theorem Media.raise_pool (k : EventKind) (x : Subject) (d : BitVec 16) (t : Option PosIx) :
    (m.raise k x d t).pool = m.pool := rfl
@[simp] theorem Media.raise_cues (k : EventKind) (x : Subject) (d : BitVec 16) (t : Option PosIx) :
    (m.raise k x d t).cues = m.cues := rfl
@[simp] theorem Media.raise_cursors (k : EventKind) (x : Subject) (d : BitVec 16) (t : Option PosIx) :
    (m.raise k x d t).cursors = m.cursors := rfl
@[simp] theorem Media.raise_store (k : EventKind) (x : Subject) (d : BitVec 16) (t : Option PosIx) :
    (m.raise k x d t).store = m.store := rfl
@[simp] theorem Media.raise_router (k : EventKind) (x : Subject) (d : BitVec 16) (t : Option PosIx) :
    (m.raise k x d t).router = m.router.record k x d := rfl
@[simp] theorem Media.raise_postings (k : EventKind) (x : Subject) (d : BitVec 16) (t : Option PosIx) :
    (m.raise k x d t).postings = m.postings ++ m.router.posting k t := rfl
@[simp] theorem Media.raise_nonce (k : EventKind) (x : Subject) (d : BitVec 16) (t : Option PosIx) :
    (m.raise k x d t).nonce = m.nonce := rfl

@[simp] theorem Media.raiseStore_can (k : EventKind) (x : Subject) (d : BitVec 16) :
    (m.raiseStore k x d).can = m.can := rfl
@[simp] theorem Media.raiseStore_pool (k : EventKind) (x : Subject) (d : BitVec 16) :
    (m.raiseStore k x d).pool = m.pool := rfl
@[simp] theorem Media.raiseStore_cues (k : EventKind) (x : Subject) (d : BitVec 16) :
    (m.raiseStore k x d).cues = m.cues := rfl
@[simp] theorem Media.raiseStore_cursors (k : EventKind) (x : Subject) (d : BitVec 16) :
    (m.raiseStore k x d).cursors = m.cursors := rfl
@[simp] theorem Media.raiseStore_store (k : EventKind) (x : Subject) (d : BitVec 16) :
    (m.raiseStore k x d).store = m.store := rfl
@[simp] theorem Media.raiseStore_router (k : EventKind) (x : Subject) (d : BitVec 16) :
    (m.raiseStore k x d).router = m.router.record k x d := rfl
@[simp] theorem Media.raiseStore_postings (k : EventKind) (x : Subject) (d : BitVec 16) :
    (m.raiseStore k x d).postings = m.postings ++ m.router.posting k none := rfl
@[simp] theorem Media.raiseStore_nonce (k : EventKind) (x : Subject) (d : BitVec 16) :
    (m.raiseStore k x d).nonce = m.nonce := rfl

end MediaUpdates

/-! ## Updates of `Store` -/

section StoreUpdates

variable (st : Store)

@[simp] theorem Store.setClip_state (id : ClipIx) (c : Option Clip) :
    (st.setClip id c).state = st.state := rfl
@[simp] theorem Store.setClip_sectors (id : ClipIx) (c : Option Clip) :
    (st.setClip id c).sectors = st.sectors := rfl
@[simp] theorem Store.setClip_begun (id : ClipIx) (c : Option Clip) :
    (st.setClip id c).begun = st.begun := rfl
@[simp] theorem Store.setClip_dir (id : ClipIx) (c : Option Clip) :
    (st.setClip id c).dir = put st.dir id c := rfl
@[simp] theorem Store.setClip_buffers (id : ClipIx) (c : Option Clip) :
    (st.setClip id c).buffers = st.buffers := rfl
@[simp] theorem Store.setClip_programs (id : ClipIx) (c : Option Clip) :
    (st.setClip id c).programs = st.programs := rfl
@[simp] theorem Store.setClip_refills (id : ClipIx) (c : Option Clip) :
    (st.setClip id c).refills = st.refills := rfl
@[simp] theorem Store.setClip_eraseQueue (id : ClipIx) (c : Option Clip) :
    (st.setClip id c).eraseQueue = st.eraseQueue := rfl
@[simp] theorem Store.setClip_runOpen (id : ClipIx) (c : Option Clip) :
    (st.setClip id c).runOpen = st.runOpen := rfl
@[simp] theorem Store.setClip_quiet (id : ClipIx) (c : Option Clip) :
    (st.setClip id c).quiet = st.quiet := rfl
@[simp] theorem Store.setClip_op (id : ClipIx) (c : Option Clip) :
    (st.setClip id c).op = st.op := rfl
@[simp] theorem Store.setClip_erase (id : ClipIx) (c : Option Clip) :
    (st.setClip id c).erase = st.erase := rfl
@[simp] theorem Store.setClip_scan (id : ClipIx) (c : Option Clip) :
    (st.setClip id c).scan = st.scan := rfl

end StoreUpdates

/-- The entry of an id after it has been replaced. -/
theorem Store.setClip_clip (st : Store) (id j : ClipIx) (c : Option Clip) :
    (st.setClip id c).clip j = if id = j then c else st.clip j := by
  simp [Store.clip, look_put]

/-- An event that resolves to no position posts nothing. -/
@[simp] theorem Router.posting_none (r : Router) (k : EventKind) : r.posting k none = [] := rfl

end Sys2Proof.Machine
end

