-- ==== Sys2Proof/Laws/Link.lean ====
section
/-! SUPPORT. How a request command runs when the link takes it at once: accepted, taken by its owner, settled
and answered. -/

namespace Sys2Proof.Machine

/-- The port adds nothing to a queue whose requests all have their replies. -/
theorem answerOwn_of_answered (rs : List Request) (h : ∀ r ∈ rs, r.reply.isSome = true) :
    answerOwn rs = rs := by
  induction rs with
  | nil => rfl
  | cons r rs ih =>
    obtain ⟨rep, hr⟩ := Option.isSome_iff_exists.mp (h r (by simp))
    have := ih fun x hx => h x (by simp [hx])
    cases r; simp only at hr; subst hr
    simp only [answerOwn, this]; split <;> rfl

/-- The port leaves a request that an owner must take, behind requests that all have their replies. -/
theorem answerOwn_append (rs : List Request) (r : Request) (h : ∀ x ∈ rs, x.reply.isSome = true)
    (hr : portAnswer r = none) (hn : r.reply = none) : answerOwn (rs ++ [r]) = rs ++ [r] := by
  induction rs with
  | nil => simp [answerOwn, hn, hr]
  | cons x rs ih =>
    obtain ⟨rep, hx⟩ := Option.isSome_iff_exists.mp (h x (by simp))
    have := ih fun y hy => h y (by simp [hy])
    cases x; simp only at hx; subst hx
    simp only [List.cons_append, answerOwn, this]; split <;> rfl

/-- The port answers a request itself, behind requests that all have their replies and none a restart. -/
theorem answerOwn_append_own (rs : List Request) (r : Request) (res : Result)
    (h : ∀ x ∈ rs, x.reply.isSome = true) (hd : rs.any Request.isRestart = false)
    (hr : portAnswer r = some res) (hn : r.reply = none) :
    answerOwn (rs ++ [r]) = rs ++ [{ r with reply := some (.refuse res) }] := by
  induction rs with
  | nil => simp [answerOwn, hn, hr]
  | cons x rs ih =>
    obtain ⟨rep, hx⟩ := Option.isSome_iff_exists.mp (h x (by simp))
    simp only [List.any_cons, Bool.or_eq_false_iff] at hd
    have := ih (fun y hy => h y (by simp [hy])) hd.2
    cases x; simp only at hx; subst hx
    simp only [List.cons_append, answerOwn, this, hd.1]; simp

/-- The reply goes to the one request without one. -/
theorem giveReply_append (rs : List Request) (r : Request) (rep : Reply)
    (h : ∀ x ∈ rs, x.reply.isSome = true) (hn : r.reply = none) :
    giveReply rep (rs ++ [r]) = rs ++ [{ r with reply := some rep }] := by
  induction rs with
  | nil => simp [giveReply, hn]
  | cons x rs ih =>
    have hi := ih fun y hy => h y (by simp [hy])
    obtain ⟨a, hx⟩ := Option.isSome_iff_exists.mp (h x (by simp))
    simp [giveReply, hx, hi]

/-- The oldest request without a reply, behind requests that all have theirs. -/
theorem find_unanswered (rs : List Request) (r : Request) (h : ∀ x ∈ rs, x.reply.isSome = true)
    (hn : r.reply = none) : (rs ++ [r]).find? (fun x => x.reply.isNone) = some r := by
  induction rs with
  | nil => simp [hn]
  | cons x rs ih =>
    have hi := ih fun y hy => h y (by simp [hy])
    obtain ⟨a, hx⟩ := Option.isSome_iff_exists.mp (h x (by simp))
    rw [List.cons_append, List.find?_cons, hx]
    exact hi

/-- With every request answered, there is none to take. -/
theorem next_eq_none (l : Link) (h : l.takes) : l.next = none := by
  have : l.requests.find? (fun r => r.reply.isNone) = none :=
    List.find?_eq_none.mpr fun r hr => by
      have := h.1 r hr
      cases h' : r.reply <;> simp_all
  unfold Link.next; split <;> simp_all

/-- A link that takes a request, with the request accepted and not yet answered. -/
def Link.accepted (l : Link) (r : Request) : Link :=
  { l with requests := l.requests ++ [r], latch := false }

theorem accept_eq (s : State) (r : Request) (h : s.link.takes) (hp : portAnswer r = none)
    (hn : r.reply = none) : s.accept r = { s with link := s.link.accepted r } := by
  have := h.2.2
  simp only [State.accept, Nat.not_le.mpr this, if_false, Link.pump, Link.accepted,
    answerOwn_append _ _ h.1 hp hn]

theorem accepted_next (l : Link) (r : Request) (h : l.takes) (hn : r.reply = none) :
    (l.accepted r).next = some r := by
  have hd : (l.accepted r).restartDue = false := by
    have h2 : l.requests.any Request.isRestart = false := h.2.1
    simp [Link.restartDue, Link.accepted, h2, Request.isRestart, hn]
  rw [Link.next, hd]
  exact find_unanswered _ _ h.1 hn

/-- Settling with no posting left does nothing. -/
theorem Units.settle_of_none (u : Units) (h : u.postings = []) : u.settle = u := by
  rw [Units.settle, h, List.foldl_nil, ← h]

/-- Settling leaves no posting. -/
theorem Units.settle_postings (u : Units) : u.settle.postings = [] := by
  suffices h : ∀ (xs : List Posting) (v : Units), v.postings = [] →
      (xs.foldl Units.postRouted v).postings = [] from h _ _ rfl
  intro xs
  induction xs with
  | nil => exact fun _ hv => hv
  | cons x xs ih => exact fun v _ => ih (v.postRouted x) rfl

/-- A request command that the link takes at once: its owner acts on the state with the request accepted,
the postings that brings about are made, and the request stands in the queue with its reply. -/
theorem request_eq {s t : State} {own : List Byte → State → State × Reply} {name : List Byte}
    {tag : BitVec 16} {payload : List Byte} {rep : Reply} (h : s.link.takes)
    (hl : payload.length ≤ 240)
    (hp : portAnswer { tag := tag, name := name, payload := payload, reply := none } = none)
    (ho : own payload
      { s with
        link := s.link.accepted { tag := tag, name := name, payload := payload, reply := none } } =
        (t, rep))
    (hk : t.link = s.link.accepted { tag := tag, name := name, payload := payload, reply := none }) :
    s.request own name tag payload =
      { t.onUnits Units.settle with link := s.link.answered tag name payload rep } := by
  have hnx : ∀ r, s.nextIs r = false := fun r => by simp [State.nextIs, next_eq_none _ h]
  have hlen : ¬ 240 < payload.length := by omega
  simp only [State.request, hnx, hlen, if_false, accept_eq s _ h hp rfl, Bool.false_eq_true]
  have hx := accepted_next s.link { tag := tag, name := name, payload := payload, reply := none } h rfl
  simp only [State.nextIs, hx, decide_true, if_true, State.take, ho]
  have hg := giveReply_append s.link.requests
    { tag := tag, name := name, payload := payload, reply := none } rep h.1 rfl
  have ha := answerOwn_of_answered
    (s.link.requests ++ [{ tag := tag, name := name, payload := payload, reply := some rep }])
    (by intro r hr; rcases List.mem_append.mp hr with hr | hr
        · exact h.1 r hr
        · simp at hr; simp [hr])
  simp only [State.onUnits_link, hk, Link.accepted, hg, Link.pump, ha, Link.answered]

/-- A request command that the link takes at once and whose owner leaves no posting: the owner's state `t` with
the reply ready. -/
theorem request_replied {s t : State} {own : List Byte → State → State × Reply} {name : List Byte}
    {tag : BitVec 16} {payload : List Byte} {rep : Reply} (h : s.takes) (hl : payload.length ≤ 240)
    (hp : portAnswer { tag := tag, name := name, payload := payload, reply := none } = none)
    (ho : own payload
      { s with
        link := s.link.accepted { tag := tag, name := name, payload := payload, reply := none } } =
        ({ t with
          link := s.link.accepted { tag := tag, name := name, payload := payload, reply := none } },
          rep))
    (hk : t.link = s.link) (ht : t.postings = []) :
    s.request own name tag payload = t.replied tag name payload rep := by
  rw [request_eq h.1 hl hp ho rfl]
  have : ({ t with
      link := s.link.accepted { tag := tag, name := name, payload := payload, reply := none } } :
        State).toUnits.settle = t.toUnits := Units.settle_of_none _ ht
  simp only [State.onUnits, State.replied, this, hk]

/-- A request of the wrong length is answered LENGTH by the port, and no owner takes it. -/
theorem request_own_answer {s : State} {own : List Byte → State → State × Reply} {name : List Byte}
    {tag : BitVec 16} {payload : List Byte} {res : Result} (h : s.link.takes)
    (hl : payload.length ≤ 240)
    (hp : portAnswer { tag := tag, name := name, payload := payload, reply := none } = some res) :
    s.request own name tag payload =
      { s with link := s.link.answered tag name payload (.refuse res) } := by
  have hnx : ∀ r, s.nextIs r = false := fun r => by simp [State.nextIs, next_eq_none _ h]
  have hlen : ¬ 240 < payload.length := by omega
  have hq := answerOwn_append_own s.link.requests
    { tag := tag, name := name, payload := payload, reply := none } res h.1 h.2.1 hp rfl
  have hacc : s.accept { tag := tag, name := name, payload := payload, reply := none } =
      { s with link := s.link.answered tag name payload (.refuse res) } := by
    simp only [State.accept, Nat.not_le.mpr h.2.2, if_false, Link.pump, hq, Link.answered]
  have hans : (s.link.answered tag name payload (.refuse res)).next = none := by
    have hf : (s.link.answered tag name payload (.refuse res)).requests.find?
        (fun r => r.reply.isNone) = none :=
      List.find?_eq_none.mpr fun r hr => by
        rcases List.mem_append.mp hr with hr | hr
        · have := h.1 r hr
          cases h' : r.reply <;> simp_all
        · simp at hr; simp [hr]
    unfold Link.next; split <;> simp_all
  simp only [State.request, hnx, hlen, if_false, hacc, Bool.false_eq_true]
  simp [State.nextIs, hans]

end Sys2Proof.Machine
end

