-- ==== Sys2Proof/Laws/Media.lean ====
section
/-! SUPPORT. What the operations of pool, cancellers, cursors, store and router leave unchanged in `Media`: the
cue lists, the reserve, the routes, the delivery mode and the time, and, with no cue route, the postings. -/

namespace Sys2Proof.Machine

/-- What every operation below keeps. -/
structure Media.Keeps (m t : Media) : Prop where
  cues : t.cues = m.cues
  reserve : t.pool.reserve = m.pool.reserve
  routes : t.router.routes = m.router.routes
  mode : t.router.mode = m.router.mode
  stamp : t.router.stamp = m.router.stamp
  phase : t.router.phase = m.router.phase
  postings : (∀ k : Fin 24, (look m.router.routes k).cue = none) → t.postings = m.postings

namespace Media.Keeps

theorem rfl' {m : Media} : m.Keeps m := ⟨rfl, rfl, rfl, rfl, rfl, rfl, fun _ => rfl⟩

theorem trans {m t u : Media} (h : m.Keeps t) (g : t.Keeps u) : m.Keeps u :=
  ⟨g.cues.trans h.cues, g.reserve.trans h.reserve, g.routes.trans h.routes, g.mode.trans h.mode,
    g.stamp.trans h.stamp, g.phase.trans h.phase, fun hr =>
      (g.postings (fun k => by rw [h.routes]; exact hr k)).trans (h.postings hr)⟩

end Media.Keeps

variable (legs : Vector Leg 64) (m : Media)

/-! ## Router, store, pool -/

/-- A record leaves everything of the router but the queue and the overflow flag. -/
theorem record_keeps (r : Router) (k : EventKind) (subj : Subject) (d : BitVec 16) :
    (r.record k subj d).routes = r.routes ∧ (r.record k subj d).mode = r.mode ∧
      (r.record k subj d).stamp = r.stamp ∧ (r.record k subj d).phase = r.phase := by
  unfold Router.record Router.enter; split <;> (try split) <;> simp

/-- A record keeps the queue at its limit. -/
theorem record_bounded (r : Router) (k : EventKind) (subj : Subject) (d : BitVec 16)
    (h : r.notices.length ≤ noticeLimit) : (r.record k subj d).notices.length ≤ noticeLimit := by
  unfold Router.record Router.enter
  split
  · split
    · rename_i hlt; rw [List.length_append]; exact hlt
    · exact h
  · exact h

/-- A kind without a cue route posts nothing. -/
theorem posting_nil (r : Router) (k : EventKind) (p : Option PosIx) (h : (r.route k).cue = none) :
    r.posting k p = [] := by
  unfold Router.posting; rw [h]; cases p <;> rfl

theorem raise_keeps (k : EventKind) (subj : Subject) (d : BitVec 16) (p : Option PosIx) :
    m.Keeps (m.raise k subj d p) := by
  obtain ⟨h1, h2, h3, h4⟩ := record_keeps m.router k subj d
  exact ⟨rfl, rfl, h1, h2, h3, h4, fun h => by
    rw [Media.raise, posting_nil _ _ _ (h k.index), List.append_nil]⟩

theorem onStore_keeps (f : Store → Store) : m.Keeps (m.onStore f) :=
  ⟨rfl, rfl, rfl, rfl, rfl, rfl, fun _ => rfl⟩
theorem onCan_keeps (n : LegIx) (f : Canceller → Canceller) : m.Keeps (m.onCan n f) :=
  ⟨rfl, rfl, rfl, rfl, rfl, rfl, fun _ => rfl⟩
theorem onCur_keeps (c : CurIx) (f : Cursor → Cursor) : m.Keeps (m.onCur c f) :=
  ⟨rfl, rfl, rfl, rfl, rfl, rfl, fun _ => rfl⟩

theorem onPool_keeps (f : Pool → Pool) (h : (f m.pool).reserve = m.pool.reserve) :
    m.Keeps (m.onPool f) := ⟨rfl, h, rfl, rfl, rfl, rfl, fun _ => rfl⟩

theorem kick_keeps : m.Keeps m.kick :=
  ⟨rfl, rfl, rfl, rfl, rfl, rfl, fun _ => rfl⟩

theorem restate_keeps (n : LegIx) : m.Keeps (m.restate legs n) := onCan_keeps ..

/-! ## Refills and the grant pass -/

theorem issueRefill_keeps (c : CurIx) : m.Keeps (m.issueRefill c) := by
  unfold Media.issueRefill; split
  · exact .rfl'
  · exact (onCur_keeps ..).trans (onStore_keeps ..)

theorem ringReady_keeps (c : CurIx) : m.Keeps (m.ringReady c) :=
  (onCur_keeps m c _).trans (issueRefill_keeps ..)

theorem grant_keeps (who : Requester) (need : Nat) : m.Keeps (m.grant legs who need) := by
  unfold Media.grant
  refine (onPool_keeps m (fun p => (p.mark (m.pool.lowestFree need) who.owner).remove who) rfl).trans ?_
  cases who with
  | leg n => exact (onCan_keeps ..).trans (restate_keeps ..)
  | cursor c =>
    dsimp only; split
    · exact (onCur_keeps ..).trans (ringReady_keeps ..)
    · exact .rfl'

theorem reclaim_keeps (n : LegIx) : m.Keeps (m.reclaim legs n) :=
  ((onPool_keeps m _ rfl).trans (onCan_keeps ..)).trans ((restate_keeps ..).trans (raise_keeps ..))

theorem passLoop_keeps (fuel : Nat) : m.Keeps (m.passLoop legs fuel) := by
  induction fuel generalizing m with
  | zero => exact .rfl'
  | succ fuel ih =>
    unfold Media.passLoop
    split
    · exact .rfl'
    · split
      · exact (grant_keeps ..).trans (ih _)
      · split
        · exact .rfl'
        · exact (reclaim_keeps ..).trans (ih _)

theorem pass_keeps : m.Keeps (m.pass legs) := passLoop_keeps ..

theorem ask_keeps (who : Requester) (need : Nat) : m.Keeps (m.ask legs who need) := by
  unfold Media.ask
  split
  · exact (onPool_keeps m _ rfl).trans (pass_keeps ..)
  · split
    · exact grant_keeps ..
    · have h : m.Keeps (m.onPool fun p => p.insert { who := who, need := need }) :=
        onPool_keeps m _ (by cases who <;> rfl)
      refine h.trans ?_
      cases who
      · exact (restate_keeps ..).trans (pass_keeps ..)
      · exact pass_keeps ..

theorem release_keeps (segs : List SegIx) : m.Keeps (m.release legs segs) :=
  (onPool_keeps m _ rfl).trans (pass_keeps ..)

theorem withdraw_keeps (who : Requester) : m.Keeps (m.withdraw legs who) := by
  unfold Media.withdraw
  split
  · refine (onPool_keeps m (fun p => p.remove who) rfl).trans ?_
    cases who
    · exact (restate_keeps ..).trans (pass_keeps ..)
    · exact pass_keeps ..
  · exact .rfl'

/-! ## Cursors -/

theorem enterItems_keeps (c : CurIx) (items : List Item) (i elapsed : Nat) :
    m.Keeps (m.enterItems c items i elapsed).1 := by
  induction items generalizing m i elapsed with
  | nil => exact .rfl'
  | cons it rest ih =>
    unfold Media.enterItems
    cases it with
    | clip id gain =>
      dsimp only; split
      · exact (onStore_keeps m _).trans (onCur_keeps ..)
      · exact (raise_keeps ..).trans (ih ..)
    | silence ms => exact onCur_keeps ..
    | tone k ms =>
      dsimp only; split
      · exact onCur_keeps ..
      · exact ⟨rfl, rfl, rfl, rfl, rfl, rfl, fun _ => rfl⟩

theorem enterAt_keeps (c : CurIx) (i elapsed : Nat) : m.Keeps (m.enterAt c i elapsed).1 :=
  enterItems_keeps ..

theorem dropReference_keeps (c : CurIx) : m.Keeps (m.dropReference c) := by
  unfold Media.dropReference; split
  · exact .rfl'
  · exact (onCur_keeps m c _).trans (onStore_keeps ..)

theorem leaveItem_keeps (c : CurIx) : m.Keeps (m.leaveItem c) :=
  (dropReference_keeps m c).trans (onCur_keeps ..)

theorem snap_keeps (c : CurIx) (q : CueIx) : m.Keeps (m.snap c q) := onCur_keeps ..

theorem withdrawRefill_keeps (c : CurIx) : m.Keeps (m.withdrawRefill c) :=
  ⟨rfl, rfl, rfl, rfl, rfl, rfl, fun _ => rfl⟩

theorem giveRing_keeps (c : CurIx) : m.Keeps (m.giveRing legs c) := by
  unfold Media.giveRing; split
  · exact (onCur_keeps m c _).trans (release_keeps ..)
  · exact withdraw_keeps ..

theorem stopCursor_keeps (c : CurIx) : m.Keeps (m.stopCursor legs c) := by
  unfold Media.stopCursor; split
  · exact .rfl'
  · exact ((dropReference_keeps m c).trans (withdrawRefill_keeps ..)).trans
      ((giveRing_keeps ..).trans (onCur_keeps ..))

theorem startCursor_keeps (c : CurIx) (q : CueIx) (place : Option Place) :
    m.Keeps (m.startCursor legs c q place).1 := by
  unfold Media.startCursor
  split
  · exact .rfl'
  · have h : ∀ x i e, m.Keeps
        ((((m.onCur c fun cur => cur.stopped.beginAt x).snap c q).enterAt c i e).1) :=
      fun x i e => ((onCur_keeps ..).trans (snap_keeps ..)).trans (enterAt_keeps ..)
    dsimp only; split
    · exact (h _ _ _).trans ((onCur_keeps ..).trans (ask_keeps ..))
    · split
      · exact (h _ _ _).trans ((onCur_keeps ..).trans (ask_keeps ..))
      · exact (h _ _ _).trans (onCur_keeps ..)

theorem pauseCursor_keeps (c : CurIx) : m.Keeps (m.pauseCursor c) :=
  ⟨rfl, rfl, rfl, rfl, rfl, rfl, fun _ => rfl⟩
theorem resumeCursor_keeps (c : CurIx) : m.Keeps (m.resumeCursor c) :=
  ⟨rfl, rfl, rfl, rfl, rfl, rfl, fun _ => rfl⟩

theorem newPass_keeps (c : CurIx) (q : CueIx) : m.Keeps (m.newPass c q) := by
  unfold Media.newPass
  have h : m.Keeps ((((m.snap c q).onCur c fun cur => { cur with played := false }).enterAt c 0 0).1) :=
    ((snap_keeps m c q).trans (onCur_keeps ..)).trans (enterAt_keeps ..)
  dsimp only; split
  · exact h.trans (issueRefill_keeps ..)
  · exact h.trans (onCur_keeps ..)

theorem swapStarting_keeps (c : CurIx) (q : CueIx) : m.Keeps (m.swapStarting c q) := by
  unfold Media.swapStarting
  dsimp only
  generalize hx : (((m.dropReference c).withdrawRefill c).onCur c fun cur =>
    { cur with ring := cur.ring.map emptyRing, gap := false, played := false, underrun := false }).snap c q = x
  have h : m.Keeps ((x.onCur c fun cur => cur.beginAt cur.firstPlace).enterAt c 0 0).1 := by
    subst hx
    exact (((dropReference_keeps m c).trans (withdrawRefill_keeps ..)).trans
      (((onCur_keeps ..).trans (snap_keeps ..)).trans (onCur_keeps ..))).trans (enterAt_keeps ..)
  split <;> split
  · exact h.trans (ringReady_keeps ..)
  · exact h
  · exact (h.trans (onCur_keeps ..)).trans (ringReady_keeps ..)
  · exact h.trans (onCur_keeps ..)

/-! ## Counts -/

/-- Every segment is FREE, held by a leg or held by a cursor (R73). -/
theorem pool_counts (p : Pool) : p.free + p.legHeld + p.cursorHeld = 384 := by
  have h : ∀ l : List SegOwner,
      l.countP (· == .free) + l.countP SegOwner.isTaps + l.countP SegOwner.isRing = l.length := by
    intro l
    induction l with
    | nil => rfl
    | cons o l ih =>
      have : (SegOwner.taps · == SegOwner.free) = fun _ => false := by funext; rfl
      cases o <;> simp only [List.countP_cons, SegOwner.isTaps, SegOwner.isRing, List.length_cons] <;>
        simp <;> omega
  have := h p.owner.toList
  rwa [Vector.length_toList] at this

end Sys2Proof.Machine
end

