-- ==== Sys2Proof/Laws/Memory.lean ====
section
/-! SUPPORT. The flash contents: every operation keeps the canonical form, and what a byte reads as after each. -/

namespace Sys2Proof.Machine

/-! ## The canonical form -/

theorem flashWfFrom_cons (k : Nat) (c : Host.Cell) (m : List Host.Cell) :
    flashWfFrom k (c :: m) = true ↔
      k ≤ c.1 ∧ c.1 < flashSize ∧ c.2 ≠ 0xFF ∧ flashWfFrom (c.1 + 1) m = true := by
  simp [flashWfFrom, and_assoc]

/-- A lower bound may be lowered. -/
theorem flashWfFrom_mono {j k : Nat} (h : j ≤ k) {m : List Host.Cell} (hm : flashWfFrom k m = true) :
    flashWfFrom j m = true := by
  cases m with
  | nil => rfl
  | cons c m => rw [flashWfFrom_cons] at *; exact ⟨h.trans hm.1, hm.2⟩

/-- Below its bound canonical contents list nothing. -/
theorem flashRead_below {k a : Nat} (h : a < k) {m : List Host.Cell} (hm : flashWfFrom k m = true) :
    flashRead m a = 0xFF := by
  induction m generalizing k with
  | nil => rfl
  | cons c m ih =>
    rw [flashWfFrom_cons] at hm
    rw [flashRead, if_neg (by omega)]
    exact ih (by omega) hm.2.2.2

theorem flashWrite_wfFrom {k a : Nat} (b : Byte) (hk : k ≤ a) (ha : a < flashSize) {m : List Host.Cell}
    (hm : flashWfFrom k m = true) : flashWfFrom k (flashWrite m a b) = true := by
  induction m generalizing k with
  | nil =>
    simp only [flashWrite]; split
    · rfl
    · exact (flashWfFrom_cons ..).mpr ⟨hk, ha, ‹_›, rfl⟩
  | cons c m ih =>
    have h := (flashWfFrom_cons k c m).mp hm
    simp only [flashWrite]
    split
    · exact (flashWfFrom_cons ..).mpr ⟨h.1, h.2.1, h.2.2.1, ih (by omega) h.2.2.2⟩
    · split
      · split
        · exact flashWfFrom_mono (by omega) h.2.2.2
        · exact (flashWfFrom_cons ..).mpr ⟨hk, ha, by simpa, flashWfFrom_mono (by omega) h.2.2.2⟩
      · split
        · exact hm
        · refine (flashWfFrom_cons ..).mpr ⟨hk, ha, by simpa, ?_⟩
          exact (flashWfFrom_cons ..).mpr ⟨by show a + 1 ≤ c.1; omega, h.2⟩

/-- A byte written inside the flash keeps the canonical form. -/
theorem flashWrite_wf {a : Nat} (b : Byte) (ha : a < flashSize) {m : List Host.Cell}
    (hm : Memory.wf m = true) : Memory.wf (flashWrite m a b) = true :=
  flashWrite_wfFrom b (Nat.zero_le a) ha hm

/-- A program inside the flash keeps the canonical form. -/
theorem flashProgram_wf {a : Nat} {bs : List Byte} {m : List Host.Cell} (ha : a + bs.length ≤ flashSize)
    (hm : Memory.wf m = true) : Memory.wf (flashProgram m a bs) = true := by
  induction bs generalizing a m with
  | nil => exact hm
  | cons b bs ih =>
    rw [List.length_cons] at ha
    exact ih (by omega) (flashWrite_wf _ (by omega) hm)

/-- So does one that was cut short. -/
theorem flashProgramCut_wf (n : Nat) {a : Nat} {bs : List Byte} {m : List Host.Cell}
    (ha : a + bs.length ≤ flashSize) (hm : Memory.wf m = true) :
    Memory.wf (flashProgramCut n m a bs) = true := by
  induction bs generalizing a m with
  | nil => exact hm
  | cons b bs ih =>
    rw [List.length_cons] at ha
    exact ih (by omega) (flashWrite_wf _ (by omega) hm)

theorem flashErase_wfFrom {k : Nat} (s : SectorIx) {m : List Host.Cell} (hm : flashWfFrom k m = true) :
    flashWfFrom k (flashErase m s) = true := by
  induction m generalizing k with
  | nil => rfl
  | cons c m ih =>
    rw [flashWfFrom_cons] at hm
    rw [flashErase, List.filter_cons]
    split
    · exact (flashWfFrom_cons ..).mpr ⟨hm.1, hm.2.1, hm.2.2.1, ih hm.2.2.2⟩
    · exact flashWfFrom_mono (by omega) (ih hm.2.2.2)

/-- An erase keeps the canonical form. -/
theorem flashErase_wf (s : SectorIx) {m : List Host.Cell} (hm : Memory.wf m = true) :
    Memory.wf (flashErase m s) = true := flashErase_wfFrom s hm

theorem flashEraseCut_wfFrom (n : Nat) {k : Nat} (s : SectorIx) {m : List Host.Cell}
    (hm : flashWfFrom k m = true) : flashWfFrom k (flashEraseCut n m s) = true := by
  induction m generalizing k with
  | nil => rfl
  | cons c m ih =>
    rw [flashWfFrom_cons] at hm
    have low := flashWfFrom_mono (j := k) (by omega) (ih hm.2.2.2)
    simp only [flashEraseCut] at *
    rw [List.filterMap_cons]
    split <;> rename_i h
    · exact low
    · have hc : ‹Host.Cell›.1 = c.1 ∧ ‹Host.Cell›.2 ≠ 0xFF := by
        split at h
        · split at h
          · cases h
          · cases h; exact ⟨rfl, ‹_›⟩
        · cases h; exact ⟨rfl, hm.2.2.1⟩
      exact (flashWfFrom_cons ..).mpr
        ⟨hc.1 ▸ hm.1, hc.1 ▸ hm.2.1, hc.2, hc.1 ▸ ih hm.2.2.2⟩

/-- So does one that was cut short. -/
theorem flashEraseCut_wf (n : Nat) (s : SectorIx) {m : List Host.Cell} (hm : Memory.wf m = true) :
    Memory.wf (flashEraseCut n m s) = true := flashEraseCut_wfFrom n s hm

/-- The flash of the reset state is canonical. -/
theorem reset_flash_wf : Memory.wf State.reset.flash = true := rfl

/-! ## What a byte reads as -/

theorem flashRead_writeFrom {k : Nat} (a x : Nat) (b : Byte) {m : List Host.Cell}
    (hm : flashWfFrom k m = true) :
    flashRead (flashWrite m a b) x = if x = a then b else flashRead m x := by
  induction m generalizing k with
  | nil =>
    simp only [flashWrite]; split <;> split <;> simp_all [flashRead]
    intro h; exact absurd h.symm ‹_›
  | cons c m ih =>
    have h := (flashWfFrom_cons k c m).mp hm
    have below : ∀ y, y < c.1 → flashRead m y = 0xFF := fun y hy =>
      flashRead_below (by omega) h.2.2.2
    have at_ : flashRead m c.1 = 0xFF := flashRead_below (by omega) h.2.2.2
    simp only [flashWrite]
    split
    · simp only [flashRead, ih h.2.2.2]
      split
      · rw [if_neg (by omega)]
      · rfl
    · split
      · split <;> simp only [flashRead] <;> split <;> rename_i hx <;> simp_all
        all_goals (try omega)
      · by_cases hx : x = a
        · subst hx
          rw [if_pos rfl]
          split
          · rename_i hb; subst hb; rw [flashRead, if_neg (by omega)]; exact below x (by omega)
          · rw [flashRead, if_pos rfl]
        · rw [if_neg hx]
          split
          · rfl
          · rw [flashRead, if_neg (fun e => hx e.symm)]

/-- A byte written reads as written, and every other byte as before. -/
theorem flashRead_write (a x : Nat) (b : Byte) {m : List Host.Cell} (hm : Memory.wf m = true) :
    flashRead (flashWrite m a b) x = if x = a then b else flashRead m x := flashRead_writeFrom a x b hm

/-- After a program each of its bytes is what it was, ANDed with what was programmed; no other byte changes. -/
theorem flashRead_program {a : Nat} {bs : List Byte} {m : List Host.Cell} (x : Nat)
    (ha : a + bs.length ≤ flashSize) (hm : Memory.wf m = true) :
    flashRead (flashProgram m a bs) x =
      if a ≤ x then flashRead m x &&& bs.getD (x - a) 0xFF else flashRead m x := by
  induction bs generalizing a m with
  | nil =>
    simp only [flashProgram, List.getD_nil]
    split
    · exact (BitVec.and_allOnes (x := flashRead m x)).symm
    · rfl
  | cons b bs ih =>
    rw [List.length_cons] at ha
    rw [flashProgram, ih (by omega) (flashWrite_wf _ (by omega) hm), flashRead_write _ _ _ hm]
    rcases Nat.lt_trichotomy x a with h | h | h
    · rw [if_neg (by omega), if_neg (by omega), if_neg (by omega)]
    · subst h; rw [if_neg (by omega), if_pos rfl, if_pos (Nat.le_refl x)]; simp
    · rw [if_pos (by omega), if_neg (by omega), if_pos (by omega)]
      obtain ⟨d, rfl⟩ : ∃ d, x = a + 1 + d := ⟨x - a - 1, by omega⟩
      rw [show a + 1 + d - (a + 1) = d by omega, show a + 1 + d - a = d + 1 by omega]
      rfl

/-- An erase leaves every byte of its sector 0xFF and every other byte as before. -/
theorem flashRead_erase (s : SectorIx) (m : List Host.Cell) (x : Nat) :
    flashRead (flashErase m s) x = if x / sectorSize = s.val then 0xFF else flashRead m x := by
  induction m with
  | nil => simp [flashErase, flashRead]
  | cons c m ih =>
    rw [flashErase, List.filter_cons]
    rw [flashErase] at ih
    split <;> rename_i h
    · simp only [flashRead, ih]
      split
      · rename_i hx; subst hx
        simp only [inSector] at h
        rw [if_neg (by simpa using h)]
      · rfl
    · rw [ih]; simp only [flashRead]
      split
      · rfl
      · rw [if_neg]; intro hx; subst hx; simp [inSector] at h; contradiction

/-- A sector is blank exactly when each of its bytes reads 0xFF. -/
theorem flashBlank_iff (s : SectorIx) {m : List Host.Cell} (hm : Memory.wf m = true) :
    flashBlank m s = true ↔ ∀ a, a / sectorSize = s.val → flashRead m a = 0xFF := by
  suffices h : ∀ k, flashWfFrom k m = true →
      (flashBlank m s = true ↔ ∀ a, a / sectorSize = s.val → flashRead m a = 0xFF) from h 0 hm
  clear hm
  induction m with
  | nil => intro k _; simp [flashBlank, flashRead]
  | cons c m ih =>
    intro k hm
    have h := (flashWfFrom_cons k c m).mp hm
    have hi := ih _ h.2.2.2
    simp only [flashBlank, List.all_cons, Bool.and_eq_true] at *
    rw [hi]
    simp only [inSector, Bool.or_eq_true, beq_iff_eq, Bool.not_eq_true', beq_eq_false_iff_ne,
      flashRead]
    constructor
    · rintro ⟨h1, h2⟩ a ha
      split
      · rename_i hc; subst hc; rcases h1 with h1 | h1
        · exact absurd ha h1
        · exact h1
      · exact h2 a ha
    · intro hall
      refine ⟨?_, fun a ha => ?_⟩
      · by_cases hc : c.1 / sectorSize = s.val
        · have := hall c.1 hc; rw [if_pos rfl] at this; exact Or.inr this
        · exact Or.inl hc
      · by_cases hc : c.1 = a
        · subst hc; exact flashRead_below (Nat.lt_succ_self _) h.2.2.2
        · have := hall a ha; rwa [if_neg hc] at this

/-- After a program that was cut short each of its bytes has lost no bit but those it was to clear; no other
byte changes. -/
theorem flashRead_programCut (n : Nat) {a : Nat} {bs : List Byte} {m : List Host.Cell} (x : Nat)
    (ha : a + bs.length ≤ flashSize) (hm : Memory.wf m = true) :
    flashRead (flashProgramCut n m a bs) x =
      if a ≤ x ∧ x < a + bs.length then
        flashRead m x &&& (bs.getD (x - a) 0xFF ||| Config.cutShort n x)
      else flashRead m x := by
  induction bs generalizing a m with
  | nil => rw [if_neg (by simp only [List.length_nil]; omega)]; rfl
  | cons b bs ih =>
    rw [List.length_cons] at ha ⊢
    rw [flashProgramCut, ih (by omega) (flashWrite_wf _ (by omega) hm), flashRead_write _ _ _ hm]
    rcases Nat.lt_trichotomy x a with h | h | h
    · rw [if_neg (by omega), if_neg (by omega), if_neg (by omega)]
    · subst h; rw [if_neg (by omega), if_pos rfl, if_pos (by omega)]; simp
    · rw [if_neg (show ¬x = a by omega)]
      by_cases hx : x < a + 1 + bs.length
      · rw [if_pos (by omega), if_pos (by omega)]
        obtain ⟨d, rfl⟩ : ∃ d, x = a + 1 + d := ⟨x - a - 1, by omega⟩
        rw [show a + 1 + d - (a + 1) = d by omega, show a + 1 + d - a = d + 1 by omega]
        rfl
      · rw [if_neg (by omega), if_neg (by omega)]

end Sys2Proof.Machine
end

