-- ==== Sys2Proof/Laws/Operands.lean ====
section
/-! SUPPORT. What is written as the encodings of R188 say reads back: indexes, flags, codes, signed values,
numbers of two and four bytes, and cue items. -/

namespace Sys2Proof.Machine

theorem toNat_byte {x : Nat} (h : x < 256) : (byte x).toNat = x := by
  simp [byte, BitVec.toNat_ofNat]; omega

theorem toInt_byte {x : Nat} (h : x < 128) : (byte x).toInt = x := by
  have := toNat_byte (x := x) (by omega)
  rw [BitVec.toInt_eq_toNat_of_lt (by omega), this]

theorem toInt_sbyte {x : Int} (h : -128 ≤ x) (h' : x ≤ 127) : (sbyte x).toInt = x := by
  simp only [sbyte, BitVec.toInt_ofInt]; exact Int.bmod_eq_of_le (by omega) (by omega)

theorem readIx_byte {n : Nat} (h : n ≤ 256) (p : Fin n) : readIx n (byte p.val) = some p := by
  simp [readIx, toNat_byte (x := p.val) (by omega)]

@[simp] theorem readPos_byte (p : PosIx) : readIx 48 (byte p.val) = some p := readIx_byte (by decide) p
@[simp] theorem readLeg_byte (n : LegIx) : readIx 64 (byte n.val) = some n := readIx_byte (by decide) n
@[simp] theorem readGroup_byte (g : GroupIx) : readIx 8 (byte g.val) = some g := readIx_byte (by decide) g
@[simp] theorem readCue_byte (q : CueIx) : readIx 32 (byte q.val) = some q := readIx_byte (by decide) q
@[simp] theorem readCursor_byte (c : CurIx) : readIx 56 (byte c.val) = some c :=
  readIx_byte (by decide) c
@[simp] theorem readSlot_byte (k : SlotIx) : readIx 4 (byte k.val) = some k := readIx_byte (by decide) k

theorem readClip_byte {id : ClipIx} (h : id ≠ 0) : readClip (byte id.val) = some id := by
  have h0 : id.val ≠ 0 := fun e => h (Fin.ext e)
  have : byte id.val ≠ 0 := fun e => h0 (by
    have := congrArg BitVec.toNat e
    rw [toNat_byte (by omega)] at this; simpa using this)
  simp only [readClip, this, if_false]
  exact readIx_byte (by decide) id

theorem readIxNone_byte {n : Nat} (h : n ≤ 255) (i : Fin n) :
    readIxNone n (byte i.val) = some (some i) := by
  have : byte i.val ≠ 0xFF := fun e => by
    have := congrArg BitVec.toNat e
    rw [toNat_byte (by omega)] at this; simp at this; omega
  simp only [readIxNone, this, if_false, readIx_byte (show n ≤ 256 by omega) i, Option.map_some]

theorem readIxNone_ixByte {n : Nat} (h : n ≤ 255) (i : Option (Fin n)) :
    readIxNone n (ixByte i) = some i := by
  cases i with
  | none => rfl
  | some i => exact readIxNone_byte h i

@[simp] theorem readFlag_flagByte (b : Bool) : readFlag (flagByte b) = some b := by cases b <;> rfl
@[simp] theorem readRole_code (r : Role) : readRole r.code = some r := by cases r <;> rfl
@[simp] theorem readLevel_code (l : Level) : readLevel l.code = some l := by cases l <;> rfl
@[simp] theorem readEchoMode_code (m : EchoMode) : readEchoMode m.code = some m := by cases m <;> rfl
@[simp] theorem readCoachMode_code (m : CoachMode) : readCoachMode m.code = some m := by
  cases m <;> rfl
@[simp] theorem readDelivery_code (d : Delivery) : readDelivery d.code = some d := by cases d <;> rfl
@[simp] theorem kindOfTag_tag (k : EventKind) : kindOfTag k.tag = some k := by cases k <;> decide

theorem leNat_le2 {n : Nat} (h : n < 65536) : leNat (le2 n) = n := by
  simp only [leNat, le2, BitVec.toNat_ofNat]; omega

theorem leNat_le4 {n : Nat} (h : n < 4294967296) : leNat (le4 n) = n := by
  simp only [leNat, le4, le2, List.cons_append, List.nil_append, BitVec.toNat_ofNat]; omega

/-- A cue item in range reads back from the four bytes replies carry it in. -/
theorem readItem_bytes {i : Item} (h : i.inRange) :
    ∃ k f lo hi, i.bytes = [k, f, lo, hi] ∧ readItem k f lo hi = some i := by
  cases i with
  | clip id g =>
    obtain ⟨h0, h1, h2⟩ := h
    refine ⟨_, _, _, _, rfl, ?_⟩
    have hb : (BitVec.ofNat 8 ((BitVec.ofInt 16 g).toNat / 256) ++
        BitVec.ofNat 8 (BitVec.ofInt 16 g).toNat : BitVec 16) = BitVec.ofInt 16 g := by
      apply BitVec.eq_of_toNat_eq
      rw [BitVec.toNat_append, Nat.shiftLeft_eq, BitVec.toNat_ofNat, BitVec.toNat_ofNat, Nat.mul_comm,
        ← Nat.two_pow_add_eq_or_of_lt (Nat.mod_lt _ (by decide))]
      omega
    have hi : (BitVec.ofInt 16 g).toInt = g := by
      rw [BitVec.toInt_ofInt]; exact Int.bmod_eq_of_le (by omega) (by omega)
    simp only [readItem, readClip_byte h0, hb, hi, readSigned, h1, h2, and_self, if_true]
  | silence ms =>
    obtain ⟨h1, h2⟩ := h
    refine ⟨_, _, _, _, rfl, ?_⟩
    have : leNat (le2 ms) = ms := leNat_le2 (by omega)
    simp only [le2] at this
    simp [readItem, readRange, this, h1, h2]
  | tone i ms =>
    obtain ⟨h1, h2⟩ := h
    refine ⟨_, _, _, _, rfl, ?_⟩
    have : leNat (le2 ms) = ms := leNat_le2 (by omega)
    simp only [le2] at this
    have hi : readIx 8 (byte i.val) = some i := readIx_byte (by decide) i
    simp [readItem, readRange, this, h1, h2, hi]

/-- A list of items in range reads back, and takes four bytes each. -/
theorem readItems_bytes {items : List Item} (h : ∀ i ∈ items, i.inRange) :
    readItems (items.flatMap Item.bytes) = some items ∧
      (items.flatMap Item.bytes).length = 4 * items.length := by
  induction items with
  | nil => exact ⟨rfl, rfl⟩
  | cons i is ih =>
    obtain ⟨k, f, lo, hi, hb, hr⟩ := readItem_bytes (h i (by simp))
    obtain ⟨ih1, ih2⟩ := ih fun j hj => h j (by simp [hj])
    constructor
    · simp [List.flatMap_cons, hb, readItems, hr, ih1]
    · simp [List.flatMap_cons, hb, ih2]; omega

end Sys2Proof.Machine
end

