-- ==== Sys2Proof/Laws/Samples.lean ====
section
/-! SUPPORT. What scaling by a gain in dB can do to a sample value, and the bounds of a tone. -/

namespace Sys2Proof.Machine

/-- A search from a number for which `f` holds, over a range at whose end it does not, settles a number for
which it holds, and not for the next. -/
theorem settleBits_spec {f : Nat → Bool} (b : Nat) :
    ∀ r, f r = true → f (r + 2 ^ b) = false →
      f (settleBits f b r) = true ∧ f (settleBits f b r + 1) = false := by
  induction b with
  | zero => intro r h h'; exact ⟨h, by simpa [settleBits] using h'⟩
  | succ b ih =>
    intro r h h'
    rw [settleBits]
    split
    · rename_i hm
      exact ih _ hm (by rwa [Nat.add_assoc, ← Nat.two_mul, ← Nat.pow_succ'])
    · rename_i hm
      exact ih _ h (by simpa using hm)

/-- The whole part of a product is the greatest whole number that does not exceed it. -/
theorem scaleWhole_spec {db : Int} {x : Nat} (h : scaleFits db x (2 ^ 32) = false) :
    scaleFits db x (scaleWhole db x) = true ∧ scaleFits db x (scaleWhole db x + 1) = false :=
  settleBits_spec 32 0 (by simp [scaleFits]) (by simpa using h)

theorem natAbs_withSign (b : Bool) (r : Nat) : (withSign b r).natAbs = r := by
  cases b <;> simp [withSign]

/-- A scaled sample value is the whole part of the product, or that and one where the product has a fraction. -/
theorem natAbs_gainDb (db x : Int) :
    (db = 0 ∨ x = 0) ∧ gainDb db x = x ∨
      (gainDb db x).natAbs = scaleWhole db x.natAbs ∨
      ((gainDb db x).natAbs = scaleWhole db x.natAbs + 1 ∧
        scaleWhole db x.natAbs ^ 20 * 10 ^ (-db).toNat ≠ x.natAbs ^ 20 * 10 ^ db.toNat) := by
  unfold gainDb
  by_cases h : db = 0 ∨ x = 0
  · exact .inl ⟨h, if_pos h⟩
  · rw [if_neg h]
    dsimp only
    rw [natAbs_withSign]
    split
    · exact .inr (.inl rfl)
    · rename_i hw
      refine .inr (.inr ⟨rfl, fun he => hw ?_⟩)
      rw [decide_eq_true he]; rfl

/-- An attenuation never makes a sample value larger. -/
theorem natAbs_gainDb_le {db x : Int} (h : db ≤ 0) (hx : x.natAbs < 2 ^ 32) :
    (gainDb db x).natAbs ≤ x.natAbs := by
  have hz : db.toNat = 0 := by omega
  have hp : 1 ≤ 10 ^ (-db).toNat := Nat.one_le_two_pow.trans (Nat.pow_le_pow_left (by decide) _)
  have up : ∀ r, x.natAbs ^ 20 < r ^ 20 → scaleFits db x.natAbs r = false := by
    intro r hr
    simp only [scaleFits, hz, Nat.pow_zero, Nat.mul_one, decide_eq_false_iff_not, Nat.not_le]
    exact hr.trans_le (Nat.le_mul_of_pos_right _ hp)
  have hs := scaleWhole_spec (db := db) (x := x.natAbs)
    (up _ (Nat.pow_lt_pow_left hx (by decide)))
  have hle : scaleWhole db x.natAbs ≤ x.natAbs := by
    refine Nat.le_of_not_lt fun hc => ?_
    have := up _ (Nat.pow_lt_pow_left hc (show 20 ≠ 0 by decide))
    rw [hs.1] at this; cases this
  rcases natAbs_gainDb db x with h0 | h0 | ⟨h0, hne⟩
  · rw [h0.2]
  · omega
  · rw [h0]
    refine Nat.lt_of_le_of_ne hle fun he => hne ?_
    have h1 := hs.1
    rw [he] at h1 ⊢
    simp only [scaleFits, hz, Nat.pow_zero, Nat.mul_one, decide_eq_true_eq] at h1 ⊢
    exact Nat.le_antisymm h1 (Nat.le_mul_of_pos_right _ hp)

/-- A tone begins with silence at phase zero (R93). -/
theorem toneAt_zero : toneAt 0 = 0 := by
  have h : (Config.fullScale * sineSize 0).toNat = 0 := by
    rw [show sineSize 0 = 0 by decide, Int.mul_zero]; rfl
  simp only [toneAt, h]
  rfl

end Sys2Proof.Machine
end

