-- ==== Sys2Proof/Laws/Store.lean ====
section
/-! SUPPORT. What an operation that fell short leaves on the flash: its canonical form, and whether a header
can be read from it (R137, R151, R157). -/

namespace Sys2Proof.Machine

theorem sectorAddr_lt (s : SectorIx) : sectorAddr s < flashSize := by
  have := s.isLt; simp only [sectorAddr, sectorSize, flashSize]; omega

theorem sectorAddr_div (s : SectorIx) : sectorAddr s / sectorSize = s.val := by
  simp only [sectorAddr, sectorSize]; omega

/-- A page 0 whose first byte is not that of the marker holds no header. -/
theorem headerReads_first {flash : List Host.Cell} {s : SectorIx}
    (h : flashRead flash (sectorAddr s) ≠ 0x4F) : headerReads flash s = false := by
  have hb : flashBytes flash (sectorAddr s) 14 =
      flashRead flash (sectorAddr s) :: (flashBytes flash (sectorAddr s) 14).tail := rfl
  rw [headerReads, hb]
  unfold readHeader
  split <;> [skip; rfl]
  rename_i heq
  have h0 := (List.cons.inj heq).1
  dsimp only
  split
  · rfl
  · rw [if_neg fun hc => h (h0.trans (List.cons.inj hc.1).1)]; rfl

/-- An erase that fell short keeps the canonical form. -/
theorem eraseShort_wf (n : Nat) (s : SectorIx) {m : List Host.Cell} (hm : Memory.wf m = true) :
    Memory.wf (eraseShort n m s) = true := by
  have hc := flashEraseCut_wf n s hm
  unfold eraseShort
  dsimp only
  split
  · exact flashWrite_wf _ (sectorAddr_lt s) hc
  · exact hc

/-- An erase that fell short leaves no header (R151, R157). -/
theorem eraseShort_no_header (n : Nat) (s : SectorIx) {m : List Host.Cell} (hm : Memory.wf m = true) :
    headerReads (eraseShort n m s) s = false := by
  unfold eraseShort
  dsimp only
  split
  · apply headerReads_first
    rw [flashRead_write _ _ _ (flashEraseCut_wf n s hm), if_pos rfl]
    decide
  · exact Bool.eq_false_iff.mpr ‹_›

/-- A program inside the flash that fell short keeps the canonical form. -/
theorem programShort_wf (n : Nat) (s : SectorIx) (p : RunningProgram) (failed : Bool) {m : List Host.Cell}
    (ha : p.addr < flashSize) (hl : p.addr + p.bytes.length ≤ flashSize) (hm : Memory.wf m = true) :
    Memory.wf (programShort n m s p failed) = true := by
  have hc := flashProgramCut_wf n hl hm
  unfold programShort
  dsimp only
  split <;> split <;> first | exact hm | exact hc | exact flashWrite_wf _ ha hc

/-- A header program, or a failed data page, makes no header that was not there (R137, R138, R157). -/
theorem programShort_no_header (n : Nat) (s : SectorIx) (p : RunningProgram) (failed : Bool)
    {m : List Host.Cell} (hp : (∃ id, p.prog = .header id) ∨ (failed = true ∧ ∃ id k b, p.prog = .data id k b))
    (hm : headerReads m s = false) : headerReads (programShort n m s p failed) s = false := by
  rcases hp with ⟨id, hp⟩ | ⟨rfl, id, k, b, hp⟩ <;>
    · simp only [programShort, hp, hm, Bool.not_false, Bool.and_true]
      split
      · exact hm
      · exact Bool.eq_false_iff.mpr ‹_›

/-- A zeroing of page 0 that fell short leaves no header, and one that failed a sector that is not blank
(R151). -/
theorem programShort_zero (n : Nat) (s k : SectorIx) (p : RunningProgram) (failed : Bool)
    {m : List Host.Cell} (hp : p.prog = .zero k) (ha : p.addr = sectorAddr s)
    (hb : p.bytes = List.replicate 256 0) (hm : Memory.wf m = true) :
    headerReads (programShort n m s p failed) s = false ∧
      (failed = true → flashBlank (programShort n m s p failed) s = false) := by
  have hl : p.addr + p.bytes.length ≤ flashSize := by
    have := s.isLt; rw [ha, hb]; simp only [List.length_replicate, sectorAddr, sectorSize, flashSize]; omega
  have hc := flashProgramCut_wf n hl hm
  simp only [programShort, hp]
  split
  · have h0 : flashRead (flashWrite (flashProgramCut n m p.addr p.bytes) p.addr
        (flashRead m p.addr &&& p.bytes.headD 0xFF)) (sectorAddr s) = 0 := by
      rw [flashRead_write _ _ _ hc, if_pos ha.symm, hb]; exact BitVec.and_zero
    refine ⟨headerReads_first (by rw [h0]; decide), fun _ => ?_⟩
    rw [← Bool.not_eq_true, flashBlank_iff s (flashWrite_wf _ (ha ▸ sectorAddr_lt s) hc)]
    intro h
    have := h _ (sectorAddr_div s)
    rw [h0] at this
    cases this
  · rename_i h
    simp only [Bool.or_eq_true, Bool.and_eq_true, not_or, not_and, Bool.not_eq_true] at h
    exact h

end Sys2Proof.Machine
end

