-- ==== Sys2Proof/Laws/Whisper.lean ====
section
/-! SUPPORT. What hold groups, cut-through and the scheduling of prompts leave unchanged: the position records,
the coach pairs, and all that `Media.Keeps` names. -/

namespace Sys2Proof.Machine

/-- What every operation below keeps. -/
structure Units.Keeps (u t : Units) : Prop where
  pos : t.pos = u.pos
  pairs : t.pairs = u.pairs
  media : u.toMedia.Keeps t.toMedia

namespace Units.Keeps

theorem refl {u : Units} : u.Keeps u := ⟨rfl, rfl, .rfl'⟩

theorem trans {u v w : Units} (h : u.Keeps v) (g : v.Keeps w) : u.Keeps w :=
  ⟨g.pos.trans h.pos, g.pairs.trans h.pairs, h.media.trans g.media⟩

end Units.Keeps

variable (u : Units)

theorem units_onMedia_keeps (f : Media → Media) (h : u.toMedia.Keeps (f u.toMedia)) :
    u.Keeps (u.onMedia f) := ⟨rfl, rfl, h⟩

theorem units_onLeg_keeps (n : LegIx) (f : Leg → Leg) : u.Keeps (u.onLeg n f) := ⟨rfl, rfl, .rfl'⟩
theorem units_onGroup_keeps (g : GroupIx) (f : Group → Group) : u.Keeps (u.onGroup g f) := ⟨rfl, rfl, .rfl'⟩
theorem units_onWhisper_keeps (p : PosIx) (f : Whisper → Whisper) : u.Keeps (u.onWhisper p f) :=
  ⟨rfl, rfl, .rfl'⟩

theorem units_raise_keeps (k : EventKind) (subj : Subject) (d : BitVec 16) (p : Option PosIx) :
    u.Keeps (u.raise k subj d p) := units_onMedia_keeps _ _ (raise_keeps ..)

/-! ## Hold groups -/

theorem startTest_keeps (g : GroupIx) : u.Keeps (u.startTest g) := by
  unfold Units.startTest
  dsimp only
  split
  · exact .refl
  · split
    · exact (units_onGroup_keeps ..).trans (units_onMedia_keeps _ _ (startCursor_keeps ..))
    · exact .refl

theorem stopUnplayable_keeps (g : GroupIx) : u.Keeps (u.stopUnplayable g) :=
  (units_onMedia_keeps _ _ (stopCursor_keeps ..)).trans (units_onGroup_keeps ..)

theorem passStart_keeps (g : GroupIx) : u.Keeps (u.passStart g) := by
  unfold Units.passStart
  dsimp only
  split
  · exact (units_onGroup_keeps u g _).trans (stopUnplayable_keeps ..)
  · exact (units_onGroup_keeps u g _).trans (units_onMedia_keeps _ _ (newPass_keeps ..))

theorem lastLeave_keeps (g : GroupIx) : u.Keeps (u.lastLeave g) :=
  (units_onMedia_keeps _ _ (stopCursor_keeps ..)).trans (units_onGroup_keeps ..)

theorem leave_keeps (g : GroupIx) (n : LegIx) : u.Keeps (u.leave g n) := by
  unfold Units.leave
  dsimp only
  split
  · exact (units_onGroup_keeps u g _).trans (lastLeave_keeps ..)
  · exact units_onGroup_keeps ..

theorem join_keeps (g : GroupIx) (n : LegIx) : u.Keeps (u.join g n) :=
  (units_onGroup_keeps ..).trans (startTest_keeps ..)

theorem moveTo_keeps (old : Option GroupIx) (g : GroupIx) (n : LegIx) : u.Keeps (u.moveTo old g n) := by
  unfold Units.moveTo
  split
  · exact join_keeps ..
  · split
    · exact units_onGroup_keeps ..
    · exact (leave_keeps ..).trans (join_keeps ..)

theorem parkAlarm_keeps (n : LegIx) : u.Keeps (u.parkAlarm n) := by
  unfold Units.parkAlarm
  dsimp only
  split
  · exact (units_onLeg_keeps ..).trans (units_raise_keeps ..)
  · exact .refl

/-! ## Prompts -/

theorem cutThrough_keeps (n : LegIx) (cause : CutCause) : u.Keeps (u.cutThrough n cause) := by
  unfold Units.cutThrough
  dsimp only
  refine Units.Keeps.trans ?_ (units_raise_keeps ..)
  refine Units.Keeps.trans ?_ (units_onMedia_keeps _ _ (restate_keeps ..))
  split
  · exact (units_onLeg_keeps u n _).trans (leave_keeps ..)
  · exact units_onLeg_keeps u n _

theorem connectReport_keeps (p : PosIx) (cause : CutCause) : u.Keeps (u.connectReport p cause) := by
  unfold Units.connectReport
  dsimp only
  split
  · exact .refl
  · split
    · exact cutThrough_keeps ..
    · exact .refl

theorem startEntry_keeps (p : PosIx) (e : Entry) : u.Keeps (u.startEntry p e).1 :=
  ⟨rfl, rfl, startCursor_keeps ..⟩

theorem completeEntry_keeps (p : PosIx) (e : Entry) : u.Keeps (u.completeEntry p e) := by
  unfold Units.completeEntry
  dsimp only
  split
  · exact (units_onWhisper_keeps u p _).trans (connectReport_keeps ..)
  · exact (units_onWhisper_keeps u p _).trans (units_raise_keeps ..)

theorem takePlace_keeps (p : PosIx) : u.Keeps (u.takePlace p).1 :=
  units_onMedia_keeps u (fun _ => _) ((pauseCursor_keeps ..).trans (stopCursor_keeps ..))

theorem stopPos_keeps (p : PosIx) : u.Keeps (u.stopPos p) := units_onMedia_keeps _ _ (stopCursor_keeps ..)

theorem pushPlaying_keeps (p : PosIx) (byCoach : Bool) : u.Keeps (u.pushPlaying p byCoach) := by
  unfold Units.pushPlaying
  split
  · exact .refl
  · exact .refl
  · dsimp only
    refine Units.Keeps.trans ?_ (units_onWhisper_keeps ..)
    split
    · exact stopPos_keeps ..
    · exact units_onMedia_keeps _ _ (pauseCursor_keeps ..)
    · exact takePlace_keeps ..

theorem nextLoop_keeps (p : PosIx) (fuel : Nat) : u.Keeps (u.nextLoop p fuel) := by
  induction fuel generalizing u with
  | zero => exact .refl
  | succ fuel ih =>
    have go : ∀ (v : Units) (e : Entry), u.Keeps v →
        u.Keeps (if (v.startEntry p e).2 = true then
          ((v.startEntry p e).1.completeEntry p e).nextLoop p fuel else (v.startEntry p e).1) := by
      intro v e h
      split
      · exact ((h.trans (startEntry_keeps ..)).trans (completeEntry_keeps ..)).trans (ih _)
      · exact h.trans (startEntry_keeps ..)
    unfold Units.nextLoop
    dsimp only
    split
    · split
      · refine go _ _ (Units.Keeps.trans ?_ (units_onWhisper_keeps ..))
        split
        · exact takePlace_keeps ..
        · exact .refl
      · split
        · exact ((units_onWhisper_keeps ..).trans (units_onWhisper_keeps ..)).trans
            (units_onMedia_keeps _ _ (resumeCursor_keeps ..))
        · exact go _ _ (units_onWhisper_keeps ..)
    · exact go _ _ (units_onWhisper_keeps ..)
    · exact .refl

theorem next_keeps (p : PosIx) : u.Keeps (u.next p) := by
  unfold Units.next
  dsimp only
  split
  · exact nextLoop_keeps ..
  · exact .refl
  · exact .refl

theorem startHead_keeps (p : PosIx) : u.Keeps (u.startHead p) := by
  unfold Units.startHead
  split
  · exact .refl
  · dsimp only
    split
    · exact (((units_onWhisper_keeps ..).trans (startEntry_keeps ..)).trans
        (completeEntry_keeps ..)).trans (next_keeps ..)
    · exact (units_onWhisper_keeps ..).trans (startEntry_keeps ..)

theorem schedule_keeps (p : PosIx) : u.Keeps (u.schedule p) := by
  unfold Units.schedule
  split
  · exact startHead_keeps ..
  · exact .refl
  · split
    · exact (pushPlaying_keeps ..).trans (startHead_keeps ..)
    · exact .refl

theorem place_keeps (p : PosIx) (e : Entry) : u.Keeps (u.place p e) :=
  (units_onWhisper_keeps ..).trans (schedule_keeps ..)

theorem post_keeps (p : PosIx) (q : CueIx) (lvl : Level) (o : Origin) : u.Keeps (u.post p q lvl o).1 := by
  unfold Units.post
  split
  · exact units_raise_keeps ..
  · exact place_keeps ..

theorem removeEntries_keeps (p : PosIx) (f : Entry → Bool) : u.Keeps (u.removeEntries p f).1 := by
  unfold Units.removeEntries
  dsimp only
  split
  · exact (units_onWhisper_keeps u p _).trans (stopPos_keeps ..)
  · exact units_onWhisper_keeps u p _

theorem removeConnect_keeps (p : PosIx) : u.Keeps (u.removeConnect p) := by
  unfold Units.removeConnect
  dsimp only
  split
  · exact (removeEntries_keeps ..).trans (next_keeps ..)
  · exact removeEntries_keeps ..

theorem emptyWhisper_keeps (p : PosIx) : u.Keeps (u.emptyWhisper p) :=
  (removeEntries_keeps ..).trans (units_onWhisper_keeps ..)

/-! ## Settling -/

/-- Settling keeps the position records, the coach pairs, and the cue lists, reserve and routes. -/
theorem settle_keeps :
    u.settle.pos = u.pos ∧ u.settle.pairs = u.pairs ∧ u.settle.cues = u.cues ∧
      u.settle.pool.reserve = u.pool.reserve ∧ u.settle.router.routes = u.router.routes := by
  suffices h : ∀ (xs : List Posting) (v : Units),
      (xs.foldl Units.postRouted v).pos = v.pos ∧ (xs.foldl Units.postRouted v).pairs = v.pairs ∧
        (xs.foldl Units.postRouted v).cues = v.cues ∧
        (xs.foldl Units.postRouted v).pool.reserve = v.pool.reserve ∧
        (xs.foldl Units.postRouted v).router.routes = v.router.routes from h _ _
  intro xs
  induction xs with
  | nil => intro v; exact ⟨rfl, rfl, rfl, rfl, rfl⟩
  | cons x xs ih =>
    intro v
    have k := post_keeps v x.pos x.cue x.level .route
    obtain ⟨h1, h2, h3, h4, h5⟩ := ih (v.postRouted x)
    exact ⟨h1.trans k.pos, h2.trans k.pairs, h3.trans k.media.cues, h4.trans k.media.reserve,
      h5.trans k.media.routes⟩

end Sys2Proof.Machine
end

