-- ==== Sys2Proof/WellFormed.lean ====
section
/-! DEFINITION. When a command is one the outside world can send: the payload of a frame has at most 240
bytes (R177), and a highway frame carries one sample for each of its slots (00 section 6.1). The ranges of
positions, legs, slots and cursors are held by the operand types. Field values inside a payload are not
checked here: the part itself answers them (R188). -/

namespace Sys2Proof

/-- The most bytes the payload of a request can hold (R177). -/
def maxPayload : Nat := 240

/-- Whether the outside world can send this command. -/
def Instr.wellFormed : Instr → Bool
  | .powerOn => true
  | .pinReset => true
  | .restart => true
  | .linkRateSwitch => true
  | .receiveByte _ _ => true
  | .lineBreak => true
  | .gapTimeout => true
  | .replyFrameStart => true
  | .noticeFrameStart => true
  | .frameTransmitEnd => true
  | .pcfg _ payload => decide (payload.length ≤ maxPayload)
  | .pqry _ payload => decide (payload.length ≤ maxPayload)
  | .pmut _ payload => decide (payload.length ≤ maxPayload)
  | .plpb _ payload => decide (payload.length ≤ maxPayload)
  | .nqry _ payload => decide (payload.length ≤ maxPayload)
  | .bind _ payload => decide (payload.length ≤ maxPayload)
  | .park _ payload => decide (payload.length ≤ maxPayload)
  | .rels _ payload => decide (payload.length ≤ maxPayload)
  | .lqry _ payload => decide (payload.length ≤ maxPayload)
  | .echo _ payload => decide (payload.length ≤ maxPayload)
  | .sprs _ payload => decide (payload.length ≤ maxPayload)
  | .spqy _ payload => decide (payload.length ≤ maxPayload)
  | .cdef _ payload => decide (payload.length ≤ maxPayload)
  | .cqry _ payload => decide (payload.length ≤ maxPayload)
  | .gsrc _ payload => decide (payload.length ≤ maxPayload)
  | .gqry _ payload => decide (payload.length ≤ maxPayload)
  | .wpst _ payload => decide (payload.length ≤ maxPayload)
  | .wfls _ payload => decide (payload.length ≤ maxPayload)
  | .catt _ payload => decide (payload.length ≤ maxPayload)
  | .cdet _ payload => decide (payload.length ≤ maxPayload)
  | .annc _ payload => decide (payload.length ≤ maxPayload)
  | .acan _ payload => decide (payload.length ≤ maxPayload)
  | .openClip _ payload => decide (payload.length ≤ maxPayload)
  | .data _ payload => decide (payload.length ≤ maxPayload)
  | .fini _ payload => decide (payload.length ≤ maxPayload)
  | .drop _ payload => decide (payload.length ≤ maxPayload)
  | .rtir _ payload => decide (payload.length ≤ maxPayload)
  | .rsto _ payload => decide (payload.length ≤ maxPayload)
  | .prot _ payload => decide (payload.length ≤ maxPayload)
  | .listClips _ payload => decide (payload.length ≤ maxPayload)
  | .stor _ payload => decide (payload.length ≤ maxPayload)
  | .frmt _ payload => decide (payload.length ≤ maxPayload)
  | .rout _ payload => decide (payload.length ≤ maxPayload)
  | .nmod _ payload => decide (payload.length ≤ maxPayload)
  | .nfet _ payload => decide (payload.length ≤ maxPayload)
  | .nclr _ payload => decide (payload.length ≤ maxPayload)
  | .idnt _ payload => decide (payload.length ≤ maxPayload)
  | .stat _ payload => decide (payload.length ≤ maxPayload)
  | .lrat _ payload => decide (payload.length ≤ maxPayload)
  | .rstr _ payload => decide (payload.length ≤ maxPayload)
  | .statusSubframe _ _ _ _ => true
  | .linkTimerExpiry _ => true
  | .highwayFrame mic trunk => decide (mic.length = 48) && decide (trunk.length = 64)
  | .echoWindowEnd _ => true
  | .convergenceTimerExpiry _ => true
  | .analysisBlockEnd _ => true
  | .hangoverExpiry _ => true
  | .highTimerExpiry _ => true
  | .lowTimerExpiry _ => true
  | .connectTimerExpiry _ => true
  | .parkAlarmExpiry _ => true
  | .announcementExpiry _ => true
  | .itemEnd _ => true
  | .refillComplete => true
  | .resumeHoldExpiry => true
  | .eraseSuspendEffect => true
  | .pageProgramComplete => true
  | .headerProgramComplete => true
  | .programTimeout => true
  | .eraseComplete => true
  | .eraseTimeout => true
  | .quietWindowExpiry => true
  | .flashDeviceReady => true
  | .scanReadComplete => true
  | .blankCheckComplete => true

end Sys2Proof
end

