-- ==== Sys2Proof/Tests/Slice0.lean ====
section
/-! SUPPORT. The model's own tests: ill-formed commands are refused; for every statement of the certificate that
has hypotheses, states and operands that meet them, clause by clause, most with what the command then gives; and
a few checks of bytes against the manual. -/

namespace Sys2Proof.Tests

open Sys2Proof Sys2Proof.Machine

-- One kernel evaluation at a time: in parallel their threads' stacks fill the memory.
set_option Elab.async false

/-! ## Helpers -/

/-- Whether an outcome is a next state with a property. -/
def runs (o : Host.Outcome State Fault Refusal) (f : State → Bool) : Bool :=
  match o with
  | .next t => f t
  | _ => false

/-- The reply of the newest request. -/
def lastReply (s : State) : Option Reply := s.link.requests.getLast?.bind Request.reply

/-- Whether a command is taken at once and answered with a result. -/
def gives (s : State) (c : Instr) (r : Result) : Bool :=
  runs (exec c s) fun t => (lastReply t).map Reply.result = some r

/-- The state after power-on. -/
def s0 : State := State.reset

def withPos (p : PosIx) (x : Position) (s : State) : State := { s with pos := put s.pos p x }
def withLeg (n : LegIx) (x : Leg) (s : State) : State := { s with legs := put s.legs n x }
def withCan (n : LegIx) (x : Canceller) (s : State) : State := { s with can := put s.can n x }
def withSup (p : PosIx) (x : Suppressor) (s : State) : State := { s with sup := put s.sup p x }
def withWhisper (p : PosIx) (x : Whisper) (s : State) : State := { s with whisper := put s.whisper p x }
def withCursor (c : CurIx) (x : Cursor) (s : State) : State := { s with cursors := put s.cursors c x }
def withGroup (g : GroupIx) (x : Group) (s : State) : State := { s with groups := put s.groups g x }
def withCue (q : CueIx) (items : List Item) (s : State) : State :=
  { s with cues := put s.cues q { items := items, duck := 0 } }
def withStore (x : Store) (s : State) : State := { s with store := x }
def withLink (x : Link) (s : State) : State := { s with link := x }
def withSlot (k : SlotIx) (x : Counting) (s : State) : State := { s with slots := put s.slots k (some x) }

/-- A position with a headset and no call. -/
def idlePos : Position := { Position.reset with state := .idle, present := true, linkValid := true }

/-- A position in a call with a leg. -/
def busyPos (n : LegIx) : Position := { idlePos with state := .engaged, bound := some n }

/-- A leg in a call with a position. -/
def busyLeg (p : PosIx) : Leg := { Leg.reset with state := .talking, bound := some p, owner := some p }

/-- A leg waiting for its connect prompt at a position, in group 7. -/
def connLeg (p : PosIx) : Leg :=
  { busyLeg p with
    state := .connecting, group := some 7, parkTime := some 0, timer := some 0, connectRef := true }

/-- A leg parked in group 7 since time 0. -/
def parkLeg : Leg := { Leg.reset with state := .parked, group := some 7, parkTime := some 0 }

/-- A store whose sectors are all ERASED. -/
def ready : Store :=
  { Store.scanStart with
    state := .ready, scan := .none, sectors := Vector.replicate 256 (some .erased) }

/-- A clip of one sample in the last sector. -/
def clip (st : ClipState) : Clip :=
  { first := 255, sectors := 1, samples := 1, state := st, prot := false, refs := 0, remaining := 0,
    finishing := false, nextPage := 0, eraseLeft := 0, goneBad := 0 }

/-- A ready store with one clip, under the highest id. -/
def holding (c : Clip) : Store :=
  { ready with dir := put ready.dir 127 (some c), sectors := put ready.sectors 255 (some .clip) }

def entry (level : Level) (connect : Bool) : Entry :=
  { cue := 31, level := level, origin := .post, resume := .resume, connect := connect, saved := none,
    holdsCursor := false }

/-- A request in the queue with its reply ready. -/
def asked (name payload : List Byte) : Request :=
  { tag := 0xFFFF, name := name, payload := payload, reply := some (.ok []) }

theorem takes_of (s : State) (h : s.link = Link.reset 115200) (hp : s.postings = []) : s.takes := by
  refine ⟨⟨?_, ?_, ?_⟩, hp⟩ <;> rw [h] <;> decide

theorem takes_s0 : s0.takes := takes_of s0 rfl rfl

theorem noCue_of (s : State)
    (h : s.router.routes = Vector.replicate 24 { notify := true, cue := none }) : s.noCueRoutes := by
  intro k; rw [h]; revert k; decide +kernel

theorem forall_clip {st : Store} {f : Clip → Bool} (h : ∀ i, (st.clip i).all f = true) :
    ∀ i c, st.clip i = some c → f c = true := by
  intro i c hc; have := h i; rwa [hc] at this

/-! ## Ill-formed commands -/

/-- 241 payload bytes, one more than a frame can carry. -/
def tooLong : List Byte := List.replicate 241 0

theorem test_long_payload_is_ill_formed_1 :
    ∀ c ∈ ([Instr.pcfg, .pqry, .pmut, .plpb, .nqry, .bind, .park, .rels, .lqry, .echo, .sprs, .spqy, .cdef,
      .cqry, .gsrc, .gqry, .wpst, .wfls, .catt, .cdet].map fun f => f 1 tooLong),
      c.wellFormed = false := by decide +kernel

theorem test_long_payload_is_ill_formed_2 :
    ∀ c ∈ ([Instr.annc, .acan, .openClip, .data, .fini, .drop, .rtir, .rsto, .prot, .listClips, .stor, .frmt,
      .rout, .nmod, .nfet, .nclr, .idnt, .stat, .lrat, .rstr].map fun f => f 1 tooLong),
      c.wellFormed = false := by decide +kernel

theorem test_short_microphone_frame_is_ill_formed :
    (Instr.highwayFrame (List.replicate 47 0) (List.replicate 64 0)).wellFormed = false := by decide

theorem test_short_trunk_frame_is_ill_formed :
    (Instr.highwayFrame (List.replicate 48 0) (List.replicate 63 0)).wellFormed = false := by decide

theorem test_full_commands_are_well_formed :
    (Instr.data 1 (List.replicate 240 0)).wellFormed = true ∧
      (Instr.highwayFrame (List.replicate 48 0) (List.replicate 64 0)).wellFormed = true := by decide +kernel

/-! ## Bytes -/

/-- The check value the manual gives for the CRC (R177). -/
theorem test_crc16_of_123456789 :
    crc16 [0x31, 0x32, 0x33, 0x34, 0x35, 0x36, 0x37, 0x38, 0x39] = 0x29B1 := by decide +kernel

theorem test_no_word_spells_a_command : decodeTableWord 32 0 = none := rfl

/-! ## Sample values -/

/-- 20 dB is a factor of 10 exactly; 6 dB of 1,000 is 1,995.26, and 13 dB down 223.87: the whole number on
either side. -/
theorem test_gain_is_the_product_up_to_its_fraction :
    gainDb 20 (-3276) = -32760 ∧ gainDb (-20) 70 = 7 ∧ gainDb 0 (-5) = -5 ∧
      (gainDb 6 1000 = 1995 ∨ gainDb 6 1000 = 1996) ∧
      (gainDb (-13) (-1000) = -223 ∨ gainDb (-13) (-1000) = -224) := by
  refine ⟨by decide +kernel, by decide +kernel, by decide +kernel, ?_, ?_⟩ <;> unfold gainDb
  · generalize Config.scaleRoundsOut 6 1000 = b; revert b; decide +kernel
  · generalize Config.scaleRoundsOut (-13) (-1000) = b; revert b; decide +kernel

/-- A quarter turn into a tone the sample is at its peak, 20 dB below full scale, and a quarter turn before its
end at the opposite one. -/
theorem test_tone_peaks_20_dB_below_full_scale :
    (toneAt 100000 = 3276 ∨ toneAt 100000 = 3277) ∧
      (toneAt 300000 = BitVec.ofInt 16 (-3276) ∨ toneAt 300000 = BitVec.ofInt 16 (-3277)) := by
  have h : sineSize 100000 = 999999999999999 ∧ sineSize 300000 = 999999999999999 := by decide +kernel
  simp only [toneAt, Config.fullScale, h]
  generalize Config.fullScaleIs32768 = a
  generalize Config.toneRoundsOut 100000 = b
  generalize Config.toneRoundsOut 300000 = c
  revert a b c; decide +kernel

/-! ## The step and the link -/

theorem wit_StepTakesFrontCommand :
    ({ s0 with pending := [.lineBreak, .powerOn] } : State).pending = .lineBreak :: [.powerOn] := rfl

theorem wit_OnlyFlashEndsCanStop :
    let r : Refill := { cursor := 0, clip := 127, seg := 0, first := 0, count := 1 }
    (match exec .refillComplete (withStore { ready with op := .read r false } s0) with
      | .fault x => decide (x = .flashAddress)
      | _ => false) = true := by decide +kernel

theorem wit_RefusedRequestChangesNothing :
    s0.takes ∧ (∃ r, requestOf (.pqry 7 [48]) = some r ∧ r.payload.length ≤ 240) ∧
      gives s0 (.pqry 7 [48]) .badarg = true ∧
      (∃ r, requestOf (.cdef 7 (List.replicate 240 0)) = some r ∧ r.payload.length ≤ 240) :=
  ⟨takes_s0, ⟨_, rfl, by decide⟩, by decide +kernel, ⟨_, rfl, by decide +kernel⟩⟩

theorem wit_PortAnswersWrongLength :
    s0.takes ∧ requestOf (.fini 7 [0]) = some ⟨7, ascii4 'F' 'I' 'N' 'I', [0], none⟩ ∧
      (ascii4 'F' 'I' 'N' 'I', some 0) ∈ requestNames ∧ ([0] : List Byte).length ≠ 0 :=
  ⟨takes_s0, rfl, by decide, by decide⟩

theorem wit_RestartFollowsRstrReply :
    let l : Link :=
      { Link.reset 3000000 with
        tx := some (.reply []), requests := [asked (ascii4 'R' 'S' 'T' 'R') []] }
    s0.link.restarting = false ∧ l.restarting = true ∧
      (holding { clip .writing with refs := 1 }).writing = some 127 ∧
      (holding { clip .writing with refs := 1 }).clip 127 = some { clip .writing with refs := 1 } ∧
      runs (exec .restart (withLink l s0)) (fun t =>
        t.store.state = .scanning && t.link.rate = 3000000 && t.link.tx = none) = true := by
  decide +kernel

theorem wit_RequestsAreAcceptedAndTaken :
    s0.link.assembler = .hunting ∧ s0.link.requests.length < 4 ∧
      (List.replicate 240 (0xC5 : Byte)).length ≤ 240 ∧
      runs (receiveAll (frameBytes 0x51 0xABCD (ascii4 'D' 'A' 'T' 'A') [0xC5, 0xC5]) s0)
        (fun t => t.link.requests.map Request.payload = [[0xC5, 0xC5]]) = true := by
  decide +kernel

/-- A request that waits for its owner, four that are answered, one behind an RSTR; and the port's own answers.
-/
theorem wit_RequestRowsTakeAndArrive :
    let wait (n : List Byte) : Request := { tag := 7, name := n, payload := [], reply := none }
    let l (rs : List Request) := withLink { Link.reset 115200 with requests := rs } s0
    let ready_ := asked (ascii4 'S' 'T' 'A' 'T') []
    let idnt := wait (ascii4 'I' 'D' 'N' 'T')
    (l [ready_]).takes ∧ requestOf (.idnt 7 []) = some idnt ∧ portAnswer idnt = none ∧
      portAnswer (wait (ascii4 'X' 'X' 'X' 'X')) = some .unknown ∧
      portAnswer (wait (ascii4 'S' 'P' 'R' 'S')) = some .length ∧
      (l (List.replicate 4 ready_)).link.next ≠ some idnt ∧
      (∀ b ∈ [ready_], ∃ rep, b.reply = some rep ∧ (b.name = ascii4 'R' 'S' 'T' 'R' → rep.result ≠ .ok)) ∧
      runs (exec (.idnt 7 []) (l [ready_, idnt])) (fun t =>
        t.link.requests.length = 2 && t.link.requests.all fun r => r.reply.isSome) = true ∧
      runs (exec (.idnt 7 []) (l (List.replicate 4 ready_))) (fun t => look t.link.counters 5 = 1) = true ∧
      runs (exec (.data 7 tooLong) (l [])) (fun t => look t.link.counters 2 = 1) = true ∧
      runs (exec (.idnt 7 []) (l [ready_, asked (ascii4 'R' 'S' 'T' 'R') [], ready_])) (fun t =>
        t.link.requests.getLast? = some idnt) = true := by
  refine ⟨⟨⟨by decide, by decide, by decide⟩, rfl⟩, rfl, ?_, ?_, ?_, ?_, ?_, by decide +kernel⟩
  · decide +kernel
  · decide +kernel
  · decide +kernel
  · decide +kernel
  · intro b hb; cases List.mem_singleton.mp hb; exact ⟨_, rfl, by decide⟩

theorem wit_AssemblerTakesBytes :
    let l (bs : List Byte) (gap : Nat) : State :=
      withLink { Link.reset 115200 with assembler := .assembling bs, gap := gap } s0
    runs (exec (.receiveByte 0xC5 true) s0) (fun t => t.link.assembler = .assembling []) = true ∧
      runs (exec (.receiveByte 0xC5 false) s0) (fun t => t.link.assembler = .hunting) = true ∧
      runs (exec (.receiveByte 6 true) (l [] 0)) (fun t => look t.link.counters 2 = 1) = true ∧
      runs (exec (.receiveByte 248 true) (l [] 0)) (fun t => look t.link.counters 2 = 1) = true ∧
      runs (exec (.receiveByte 7 true) (l [] 0)) (fun t => t.link.assembler = .assembling [7]) = true ∧
      runs (exec (.receiveByte 247 true) (l [] 0)) (fun t => t.link.assembler = .assembling [247]) =
        true ∧
      runs (exec (.receiveByte 0 true) (l (7 :: List.replicate 7 0) 0))
        (fun t => t.link.assembler = .assembling (7 :: List.replicate 8 0)) = true ∧
      runs (exec (.receiveByte 0 true) (l (7 :: List.replicate 8 0) 0))
        (fun t => look t.link.counters 3 = 1) = true ∧
      runs (exec .gapTimeout (l [7] 39)) (fun t => t.link.assembler = .assembling [7]) = true ∧
      runs (exec .gapTimeout (l [7] 40)) (fun t => look t.link.counters 1 = 1) = true ∧
      runs (exec .lineBreak (l [] 0)) (fun t => look t.link.counters 0 = 1) = true := by
  decide +kernel

/-- The last byte of a frame: accepted, of another KIND, with four requests waiting, and with a wrong check. -/
theorem wit_AssemblerEndsFrame :
    let body (kind : Byte) := (frameBytes kind 7 (ascii4 'I' 'D' 'N' 'T') []).drop 1
    let l (kind : Byte) (rs : List Request) := withLink
      { Link.reset 115200 with assembler := .assembling (body kind).dropLast, requests := rs } s0
    let four := List.replicate 4 (asked (ascii4 'I' 'D' 'N' 'T') [])
    let last (kind : Byte) := (body kind).getLastD 0
    (body 0x51).length = 10 ∧
      runs (exec (.receiveByte (last 0x51) true) (l 0x51 [])) (fun t => t.link.requests.length = 1) = true ∧
      runs (exec (.receiveByte (last 0x41) true) (l 0x41 [])) (fun t => look t.link.counters 4 = 1) = true ∧
      runs (exec (.receiveByte (last 0x51) true) (l 0x51 four)) (fun t => look t.link.counters 5 = 1) =
        true ∧
      runs (exec (.receiveByte (last 0x51 + 1) true) (l 0x51 [])) (fun t => look t.link.counters 3 = 1) =
        true := by
  decide +kernel

theorem wit_ReplyAndNoticeFramesBegin :
    let l : Link := { Link.reset 115200 with requests := [asked (ascii4 'I' 'D' 'N' 'T') []] }
    let push : State := { s0 with router := { s0.router with mode := .push } }
    (l.tx = none ∧ l.requests = asked (ascii4 'I' 'D' 'N' 'T') [] :: []) ∧
      runs (exec .replyFrameStart (withLink l s0)) (fun t => t.link.tx.isSome) = true ∧
      (push.link.tx = none ∧ push.link.ready = none ∧ push.router.mode = .push ∧
        push.router.notices.length = 1) ∧
      runs (exec .noticeFrameStart push) (fun t => t.link.tx.isSome && t.router.notices.isEmpty) = true ∧
      s0.router.mode = .poll := by
  decide +kernel

theorem wit_FrameEndFreesLine :
    let l (x : Request) : Link :=
      { Link.reset 115200 with tx := some (.reply [0xC5]), requests := [x] }
    let sent (rate : Nat) := l (asked (ascii4 'L' 'R' 'A' 'T') (le4 rate))
    s0.link.tx = none ∧ s0.takes ∧ (sent 115200).rateAsked = none ∧
      runs (exec .frameTransmitEnd
        (withLink { Link.reset 115200 with tx := some (.notice [0xC5]) } s0)) (fun t => t.link.tx = none) =
          true ∧
      runs (exec .frameTransmitEnd (withLink (l (asked (ascii4 'S' 'T' 'A' 'T') [])) s0))
        (fun t => t.link.requests.isEmpty) = true ∧
      runs (exec .frameTransmitEnd (withLink (sent 115200) s0)) (fun t => t.link.requests.isEmpty) = true ∧
      runs (exec .frameTransmitEnd (withLink (sent 3000000) s0)) (fun t => t.link.rate = 3000000) = true ∧
      runs (exec .frameTransmitEnd (withLink (l (asked (ascii4 'R' 'S' 'T' 'R') [])) s0)) (fun t =>
        t.link.requests.isEmpty && t.store.state = .scanning) = true ∧
      runs (exec .linkRateSwitch (withLink (sent 3000000) s0)) (fun t => t.link.rate = 3000000) = true ∧
      gives s0 (.lrat 1 (le4 230400)) .ok = true ∧ gives s0 (.lrat 1 (le4 230401)) .badarg = true ∧
      gives s0 (.rstr 1 []) .ok = true :=
  ⟨rfl, takes_s0, by decide, by decide +kernel⟩

theorem wit_IdntReportsIdentity : s0.takes ∧ gives s0 (.idnt 0 []) .ok = true :=
  ⟨takes_s0, by decide +kernel⟩

theorem wit_StatReportsStatus : s0.takes ∧ gives s0 (.stat 0 []) .ok = true := ⟨takes_s0, by decide +kernel⟩

/-! ## Positions and suppressors -/

theorem wit_PcfgStoresSettings :
    s0.takes ∧ gives s0 (.pcfg 1 [47, 1, 0xFF, 7, 0, sbyte (-24), 30, 3, sbyte (-60)]) .ok = true ∧
      gives s0 (.pcfg 1 [0, 0, 0, 0, 1, sbyte 12, 0, 0, sbyte (-20)]) .ok = true ∧
      gives (withPos 47 (busyPos 63) s0) (.pcfg 1 [47, 1, 0, 0, 0, 0, 0, 0, sbyte (-20)]) .state = true ∧
      gives (withPos 47 (busyPos 63) s0) (.pcfg 1 [47, 0, 0, 0, 0, 0, 0, 0, sbyte (-20)]) .ok = true :=
  ⟨takes_s0, by decide +kernel⟩

theorem wit_PqryReportsAndClearsDeltas :
    let s := withPos 47 { idlePos with presentChanged := true } s0
    s.takes ∧ gives s (.pqry 1 [47]) .ok = true ∧
      runs (exec (.pqry 1 [47]) s) (fun t => !(look t.pos 47).presentChanged &&
        ((lastReply t).map fun r => r.payload.drop 17) = some [0xFF, 0xFF, 0]) = true :=
  ⟨takes_of _ rfl rfl, by decide +kernel⟩

theorem wit_PmutSetsHostMute :
    let s := withPos 47 idlePos s0
    s.takes ∧ s.noCueRoutes ∧
      runs (exec (.pmut 1 [47, 1]) s) (fun t =>
        (look t.pos 47).hostMute && (look t.sup 47).generator.isSome && t.router.notices.length = 2) =
          true ∧
      runs (exec (.pmut 1 [0, 1]) s) (fun t => (look t.pos 0).hostMute && t.router.notices.length = 1) =
        true :=
  ⟨takes_of _ rfl rfl, noCue_of _ rfl, by decide +kernel⟩

theorem wit_PlpbMovesLoopback :
    let s := withPos 46 { idlePos with state := .loopback } (withPos 47 idlePos s0)
    s.takes ∧ gives s (.plpb 1 [47, 1]) .ok = true ∧ gives s (.plpb 1 [46, 1]) .state = true ∧
      gives s (.plpb 1 [46, 0]) .ok = true ∧ gives s (.plpb 1 [47, 0]) .state = true :=
  ⟨takes_of _ rfl rfl, by decide +kernel⟩

theorem wit_SubframeUpdatesRecord :
    let s := withPos 47 { Position.reset with debounce := some { toPresent := true, run := 399 } } s0
    s.postings = [] ∧ s.noCueRoutes ∧
      (∀ d, (look s.pos 47).debounce = some d → d.run < 400) ∧
      runs (exec (.statusSubframe 47 true true true) s) (fun t =>
        (look t.pos 47).linkTimer = some 160 && (look t.pos 47).state = .absent) = true ∧
      runs (exec (.statusSubframe 47 true true true) (withPos 47 idlePos s0)) (fun t =>
        (look t.pos 47).keyHeld && (look t.sup 47).generator.isSome) = true :=
  ⟨rfl, noCue_of _ rfl, by intro d h; cases h; decide, by decide +kernel⟩

theorem wit_HeadsetArrives :
    let s := withPos 47 { Position.reset with debounce := some { toPresent := true, run := 400 } } s0
    (s.postings = [] ∧ (look s.pos 47).present = false ∧
      (look s.pos 47).debounce = some { toPresent := true, run := 400 }) ∧ s.noCueRoutes ∧
      runs (exec (.statusSubframe 47 true true true) s) (fun t =>
        (look t.pos 47).state = .idle && t.router.notices.length = 3) = true :=
  ⟨⟨rfl, rfl, rfl⟩, noCue_of _ rfl, by decide +kernel⟩

/-- A supervisor at 47 and an agent at 0. -/
def desk (agent : Position) : State :=
  withPos 47 { idlePos with role := .supervisor } (withPos 0 agent s0)

/-- The pair of a supervisor at 46 with the agent at 0. -/
def paired (active : Bool) (agent : Position) : State :=
  { withPos 46
      { idlePos with
        role := .supervisor, state := .coaching
        coach := some { partner := 0, side := .supervisor, active := active } }
      (desk { agent with coach := some { partner := 46, side := .agent, active := active } }) with
    pairs := [{ supervisor := 46, agent := 0, mode := .whisper, active := active }] }

/-- A headset lost in a call, by both ways, and a link timer that ends with no headset. -/
theorem wit_HeadsetLossParksLeg :
    let s (d : Option Debounce) := withLeg 63 (busyLeg 47)
      (withPos 47 { busyPos 63 with linkTimer := some 0, debounce := d } s0)
    let d : Debounce := { toPresent := false, run := 400 }
    ((s none).bindingsConsistent ∧ (s none).postings = []) ∧ (s (some d)).bindingsConsistent ∧
      (look (s none).pos 47).linkTimer = some 0 ∧ (look (s none).pos 47).present = true ∧
      (look (s (some d)).pos 47).debounce = some d ∧ (look s0.pos 47).linkTimer ≠ some 0 ∧
      runs (exec (.linkTimerExpiry 47) (s none)) (fun t =>
        (look t.legs 63).state = .parked && (look t.groups 0).members = [63]) = true ∧
      runs (exec (.statusSubframe 47 false true true) (s (some d))) (fun t =>
        (look t.legs 63).state = .parked && (look t.pos 47).linkValid) = true ∧
      runs (exec (.linkTimerExpiry 47)
        (withPos 47 { Position.reset with linkValid := true, linkTimer := some 0 } s0))
        (fun t => !(look t.pos 47).linkValid) = true := by
  unfold Units.bindingsConsistent; decide +kernel

/-- The records of losses: of a muted agent with a call and a pending coach, of a supervisor whose agent has
nothing to go on with, and of an IDLE position whose key falls in the same subframe. -/
theorem wit_HeadsetLossRecords :
    let call := withLeg 63 (busyLeg 0) (paired false { busyPos 63 with hostMute := true, linkTimer := some 0 })
    let sup := withPos 46 { look (paired true idlePos).pos 46 with linkTimer := some 0 } (withWhisper 0
      { Whisper.reset with playing := .coach } (paired true idlePos))
    let key := withPos 47 { idlePos with debounce := some { toPresent := false, run := 400 }, keyHeld := true } s0
    let kinds (t : State) (ks : List EventKind) := decide (t.router.notices.map Notice.kind = .started :: ks)
    (call.noCueRoutes ∧ sup.noCueRoutes ∧ key.noCueRoutes) ∧ call.bindingsConsistent ∧
      (call.pool.wait = [] ∧ (look call.legs 63).state = .talking ∧
        (look call.groups (look call.pos 0).defaultGroup).source = none ∧
        (call.pairOf 0).isSome ∧ (sup.pairOf 46).isSome ∧ (key.pairOf 47).isNone ∧
        (look sup.whisper 0).queue = [] ∧ (look sup.whisper 0).stack = []) ∧
      runs (exec (.linkTimerExpiry 0) call) (fun t =>
        kinds t [.headsetOff, .muteOff, .legAutoParked, .coachEnded] && (look t.pos 0).coach = none &&
          !(look t.pos 0).presentChanged && (look t.pos 46).state = .idle && t.pairs.isEmpty) = true ∧
      runs (exec (.linkTimerExpiry 46) sup) (fun t =>
        kinds t [.headsetOff, .coachEnded] && (look t.pos 46).state = .absent &&
          (look t.pos 0).coach = none && (look t.whisper 0).playing = .none) = true ∧
      runs (exec (.statusSubframe 47 false false true) key) (fun t =>
        kinds t [.muteOff, .headsetOff]) = true := by
  refine ⟨⟨noCue_of _ rfl, noCue_of _ rfl, noCue_of _ rfl⟩, ?_⟩
  unfold Units.bindingsConsistent
  repeat' apply And.intro
  all_goals decide +kernel

theorem wit_CallQueriesReportRecords :
    s0.takes ∧ gives s0 (.nqry 1 [47]) .ok = true ∧ gives s0 (.lqry 1 [63]) .ok = true ∧
      gives s0 (.gqry 1 [7]) .ok = true :=
  ⟨takes_s0, by decide +kernel⟩

theorem wit_PlaybackAndStoreQueriesReport :
    let s := withStore (holding (clip .valid)) s0
    s0.takes ∧ s.takes ∧ gives s0 (.spqy 1 [119]) .ok = true ∧ gives s0 (.spqy 1 [120]) .badarg = true ∧
      gives s0 (.cqry 1 [0, 31]) .ok = true ∧ gives s0 (.cqry 1 [1, 55]) .ok = true ∧
      gives s0 (.listClips 1 [127]) .busy = true ∧ gives s (.listClips 1 [127]) .ok = true ∧
      gives s (.listClips 1 [1]) .ok = true ∧ gives s (.stor 1 []) .ok = true :=
  ⟨takes_s0, takes_of _ rfl rfl, by decide +kernel⟩

/-! ## The highway frame -/

/-- A position cursor that plays one clip from its ring. -/
def playing : Cursor :=
  { Cursor.reset with
    state := .playing, snapshot := some { cue := 0, items := [.clip 127 0], duck := 0 }, clip := some 127
    requested := 1
    ring := some #v[{ num := 0, state := .playing, first := 0, data := [5] },
      { num := 1, state := .empty, first := 0, data := [] }] }

/-- A FREE leg, two in one group, a call, a LOOPBACK position, an IDLE one with a prompt and one without: what
each clause of HighwayFrameMixesSamples asks for. -/
def mixing : State :=
  withStore (holding (clip .valid)) <|
  withLeg 0 parkLeg <| withLeg 1 parkLeg <| withLeg 63 (busyLeg 47) <| withPos 47 (busyPos 63) <|
  withPos 46 { idlePos with state := .loopback } <|
  withSup 46 { Suppressor.reset with deliver := [9] } <|
  withSup 47 { Suppressor.reset with deliver := [8] } <|
  withPos 45 idlePos <| withPos 44 idlePos <| withCursor (posCursor 45) playing s0

theorem wit_HighwayFrameMixesSamples :
    ((look mixing.legs 2).state = .free ∧ (look mixing.legs 0).group = some 7 ∧
      (look mixing.legs 1).group = some 7 ∧ (look mixing.legs 63).state = .talking ∧
      (look mixing.legs 63).bound = some 47 ∧ (look mixing.pos 47).keyHeld = false ∧
      (look mixing.pos 47).coach = none ∧ (look mixing.can 63).state = .idle ∧
      (look mixing.pos 0).state = .absent ∧ (look mixing.pos 46).state = .loopback ∧
      (look mixing.cursors (posCursor 44)).state ≠ .playing ∧
      (look mixing.cursors (posCursor 45)).item = some (.clip 127 0) ∧
      playingSeg #v[{ num := 0, state := .playing, first := 0, data := [5] },
        { num := 1, state := .empty, first := 0, data := [] }] = some 0 ∧ mixing.pairs = []) ∧
      runs (exec (.highwayFrame [] (List.replicate 64 7)) mixing) (fun t =>
        look t.outbound 2 = 0 && look t.outbound 63 = 8 && look t.earpiece 0 = 0 &&
          look t.earpiece 46 = 9 && look t.earpiece 44 = 0 && look t.earpiece 45 = 5 &&
          look t.earpiece 47 = 7) = true := by
  decide +kernel

/-- Two calls, one muted, the other coached by BARGE with a duck of 20 dB, and a group whose cursor plays. -/
def coaching : State :=
  let pair (side : Side) (p : PosIx) : Option CoachLink := some { partner := p, side := side, active := true }
  let listen : Position :=
    { idlePos with role := .supervisor, state := .coaching, coach := pair .supervisor 42 }
  withStore (holding (clip .valid)) <| withCursor 7 playing <| withLeg 0 parkLeg <| withLeg 1 (connLeg 41) <|
  withLeg 62 (busyLeg 42) <| withPos 42 { busyPos 62 with coach := pair .agent 43, coachDuck := 20 } <|
  withPos 43 listen <| withLeg 61 (busyLeg 41) <|
  withPos 41 { busyPos 61 with hostMute := true, gain := -20 } <|
  withSup 42 { Suppressor.reset with deliver := [4] } <|
  withSup 43 { Suppressor.reset with deliver := [3] } <|
  withSup 41 { Suppressor.reset with deliver := [9] } <|
  withWhisper 42 { Whisper.reset with playing := .coach }
    { s0 with pairs := [{ supervisor := 43, agent := 42, mode := .barge, active := true }] }

theorem wit_HighwayFrameMixesCoachAndGroup :
    ((look coaching.legs 0).group = some 7 ∧ (look coaching.legs 1).state = .connecting ∧
      (look coaching.pos 41).hostMute = true ∧ (look coaching.whisper 42).playing = .coach ∧
      coaching.pairs.find? (fun x => x.agent = 42) =
        some { supervisor := 43, agent := 42, mode := .barge, active := true }) ∧
      runs (exec (.highwayFrame [] (List.replicate 64 70)) coaching) (fun t =>
        look t.outbound 0 = 5 && look t.outbound 1 = 5 && look t.outbound 62 = 7 && look t.outbound 61 = 0 &&
          look t.earpiece 42 = 10 && look t.earpiece 43 = 74 && look t.earpiece 41 = 7) = true :=
  ⟨by decide +kernel, by decide +kernel⟩

/-- Timers at 1 and a store at work: what each clause of HighwayFrameCountsTime asks for. -/
theorem wit_HighwayFrameCountsTime :
    let e : EraseOp := { sector := 255, phase := .running, run := 0, since := 0, suspends := 0 }
    let p : RunningProgram := { prog := .zero 0, addr := 0, bytes := [], run := 39, dropped := false }
    let s := withStore { ready with op := .program p, quiet := some 1 }
      (withPos 47 { idlePos with linkTimer := some 1 } (withLeg 63 { connLeg 0 with timer := some 1 } s0))
    (∀ c, (look s.cursors c).state ≠ .playing) ∧ s.store.op = .program p ∧
      (withStore { ready with erase := some e } s0).store.erase = some e ∧
      runs (exec (.highwayFrame [] []) s) (fun t =>
        (look t.pos 47).linkTimer = some 0 && (look t.legs 63).timer = some 0 && t.store.quiet = some 0 &&
          t.store.op = .program { p with run := 40 }) = true := by
  decide +kernel

/-- Cursors inside SILENCE, TONE and CLIP, and one at its item's end. -/
theorem wit_HighwayFrameMovesCursors :
    let plays (i : Item) (left : Nat) : Cursor :=
      { Cursor.reset with
        state := .playing, snapshot := some { cue := 0, items := [i], duck := 0 }, place := left }
    let s := withStore (holding (clip .valid)) <| withCursor 0 (plays (.silence 10) 80) <|
      withCursor 1 (plays (.tone 7 10) 1) <| withCursor 2 (plays (.silence 10) 0) <| withCursor 55 playing s0
    ((look s.cursors 0).atEnd s.store = false ∧ (look s.cursors 1).atEnd s.store = false ∧
      (look s.cursors 2).atEnd s.store = true ∧ (look s.cursors 55).atEnd s.store = false ∧
      (look s.cursors 1).item = some (.tone 7 10) ∧ (look s.cursors 55).item = some (.clip 127 0)) ∧
      runs (exec (.highwayFrame [] []) s) (fun t =>
        (look t.cursors 0).place = 79 && (look t.cursors 1).place = 0 &&
          (look t.cursors 1).phase = 50 * toneHz 7 && (look t.cursors 2).place = 0 &&
          (look t.cursors 55).place = 1) = true :=
  ⟨by decide +kernel, by decide +kernel⟩

theorem wit_HighwayFrameUnderrunStandsStill :
    let x : Cursor :=
      { playing with
        underrun := true
        ring := some #v[{ num := 0, state := .filling, first := 0, data := [] },
          { num := 1, state := .full, first := 1, data := [6] }] }
    let s := withStore (holding (clip .valid)) (withCursor 55 x s0)
    x.item = some (.clip 127 0) ∧ (∀ r, x.ring = some r → ∀ b, (look r b).state ≠ .playing) ∧
      x.atEnd s.store = false ∧ (∀ d, d ≠ 55 → (look s.cursors d).state ≠ .playing) ∧
      runs (exec (.highwayFrame [] []) s) (fun t => look t.cursors 55 = x && t.store.refills.isEmpty) =
        true := by
  refine ⟨by decide, ?_, by decide +kernel, by decide +kernel, by decide +kernel⟩
  intro r h; cases h; decide

/-- A segment read out with the other FULL and samples not yet asked for, and one read out with nothing behind
it: the refill of the rest, and the underrun. -/
theorem wit_HighwayFrameRefillsRing :
    let c (other : SegState) (requested : Nat) : Cursor :=
      { playing with
        requested := requested
        ring := some #v[{ num := 0, state := .playing, first := 0, data := [5] },
          { num := 1, state := other, first := 1, data := [6] }] }
    let s (x : Cursor) := withStore (holding { clip .valid with samples := 300 }) (withCursor 55 x s0)
    let after (x : Cursor) (f : Cursor → State → Bool) := runs (exec (.highwayFrame [] []) (s x)) fun t =>
      f (look t.cursors 55) t
    let seg (x : Cursor) (b : Fin 2) := x.ring.map fun r => (look r b).state
    ((look (s (c .full 45)).cursors 55).atEnd (s (c .full 45)).store = false ∧
      (c .full 45).item = some (.clip 127 0) ∧ (∀ d, d ≠ 55 → (look (s (c .full 45)).cursors d).state ≠ .playing) ∧
      (s (c .full 45)).store.samplesOf 127 = 300) ∧
      after (c .full 43) (fun x t =>
        seg x 0 = some .filling && seg x 1 = some .playing && x.requested = 299 && !x.underrun &&
          t.store.refills = [{ cursor := 55, clip := 127, seg := 0, first := 43, count := 256 }]) = true ∧
      after (c .full 299) (fun x t =>
        x.requested = 300 && t.store.refills.map Refill.count = [1]) = true ∧
      after (c .full 300) (fun x t => seg x 0 = some .empty && t.store.refills.isEmpty) = true ∧
      after (c .filling 300) (fun x t =>
        seg x 0 = some .empty && x.underrun && t.router.notices.length = 2) = true ∧
      after { c .filling 300 with underrun := true } (fun x t =>
        x.underrun && t.router.notices.length = 1) = true := by
  repeat' apply And.intro
  all_goals decide +kernel

/-! ## Legs -/

theorem wit_BindWithoutCueTalks :
    let s := withLeg 63 parkLeg (withGroup 7 { Group.reset with members := [63] } (withPos 47 idlePos s0))
    s.takes ∧ s.noCueRoutes ∧ (look s.legs 63).state = .parked ∧ (look s.legs 0).state = .free ∧
      (look s.pos 47).state = .idle ∧ s.pairs = [] ∧ (look s.legs 63).group = some 7 ∧
      runs (exec (.bind 1 [63, 47, 0xFF, 30]) s) (fun t =>
        (look t.legs 63).state = .talking && (look t.groups 7).members.isEmpty) = true ∧
      gives s (.bind 1 [0, 47, 0xFF, 0]) .ok = true ∧ gives s (.bind 1 [0, 46, 0xFF, 0]) .state = true ∧
      gives (withLeg 63 (connLeg 47) s) (.bind 1 [63, 47, 0xFF, 0]) .state = true ∧
      gives (withLeg 63 (busyLeg 47) s) (.bind 1 [63, 47, 0xFF, 0]) .state = true :=
  ⟨takes_of _ rfl rfl, noCue_of _ rfl, by decide +kernel, by decide +kernel, by decide +kernel, rfl,
    by decide +kernel⟩

theorem wit_BindWithCueConnects :
    let s := withPos 47 idlePos (withCue 31 [.silence 10] s0)
    (s.takes ∧ s.noCueRoutes) ∧ s.bindingsConsistent ∧
      ((look s.cues 31).items ≠ [] ∧ (look s.whisper 47).queue.length < 8 ∧
        look s.whisper 47 = { queue := [], playing := .none, stack := [] }) ∧
      noClipFirst (look s.cues 31).items ∧
      runs (exec (.bind 1 [63, 47, 31, 0]) s) (fun t => (look t.legs 63).timer = some 64000) = true ∧
      runs (exec (.bind 1 [63, 47, 31, 30]) s) (fun t => (look t.legs 63).timer = some 240000) = true := by
  refine ⟨⟨takes_of _ rfl rfl, noCue_of _ rfl⟩, ?_, by decide +kernel, ?_, by decide +kernel⟩
  · unfold Units.bindingsConsistent; decide +kernel
  · intro id gain rest h; cases h

theorem wit_BindWithCueStartsClip :
    let s := withStore (holding (clip .valid)) (withPos 47 idlePos (withCue 31 [.clip 127 0] s0))
    (s.takes ∧ s.noCueRoutes) ∧ s.canEnter (look s.cues 31).items ∧
      ((look s.cursors (posCursor 47)).state = .stopped ∧ (∀ x ∈ s.pairs, x.agent ≠ 47) ∧
        look s.whisper 47 = { queue := [], playing := .none, stack := [] }) ∧
      runs (exec (.bind 1 [63, 47, 31, 0]) s) (fun t =>
        (look t.legs 63).state = .connecting && (look t.cursors (posCursor 47)).state = .starting &&
          (look t.cursors (posCursor 47)).clip = some 127) = true :=
  ⟨⟨takes_of _ rfl rfl, noCue_of _ rfl⟩, .inr ⟨127, 0, [], rfl, clip .valid, by decide +kernel, rfl⟩,
    by decide +kernel⟩

theorem wit_ParkAndRelsEndCall :
    let s := withLeg 63 (busyLeg 47) (withPos 47 (busyPos 63)
      (withLeg 0 parkLeg (withGroup 7 { Group.reset with members := [0] } s0)))
    s.takes ∧ s.bindingsConsistent ∧ (look s.legs 1).state = .free ∧ (look s.legs 63).state ≠ .free ∧
      runs (exec (.park 1 [63, 7]) s) (fun t => (look t.groups 7).members = [0, 63]) = true ∧
      runs (exec (.park 1 [0, 6]) s) (fun t =>
        (look t.groups 7).members.isEmpty && (look t.groups 6).members = [0]) = true ∧
      gives s (.rels 1 [1]) .state = true ∧
      runs (exec (.rels 1 [63]) s) (fun t =>
        (look t.legs 63).state = .free && (look t.pos 47).state = .idle) = true := by
  refine ⟨takes_of _ rfl rfl, ?_, by decide +kernel⟩
  unfold Units.bindingsConsistent; decide +kernel

theorem wit_LegTimersExpire :
    let s := withLeg 63 (connLeg 47) (withPos 47 (busyPos 63) s0)
    let g (time : Stamp) : State := { withLeg 62 parkLeg (withGroup 7 { Group.reset with alarm := 5 } s) with
      router := { s.router with stamp := time } }
    s.bindingsConsistent ∧ s.noCueRoutes ∧
      ((look s.legs 63).state = .connecting ∧ (look s.legs 63).timer = some 0 ∧
        (s.router.route .cutThrough).notify = true ∧ (look (g 5000).legs 62).fired = false ∧
        (look (g 5000).legs 62).parkTime = some 0) ∧
      runs (exec (.connectTimerExpiry 63) s) (fun t =>
        (look t.legs 63).state = .talking && t.router.notices.length = 2) = true ∧
      runs (exec (.connectTimerExpiry 63) (withLeg 63 { connLeg 47 with timer := some 1 } s)) (fun t =>
        (look t.legs 63).state = .connecting) = true ∧
      runs (exec (.parkAlarmExpiry 62) (g 4999)) (fun t => !(look t.legs 62).fired) = true ∧
      runs (exec (.parkAlarmExpiry 62) (g 5000)) (fun t => (look t.legs 62).fired) = true ∧
      runs (exec (.parkAlarmExpiry 63) s) (fun t => !(look t.legs 63).fired) = true := by
  refine ⟨?_, noCue_of _ rfl, by decide +kernel⟩
  unfold Units.bindingsConsistent; decide +kernel

/-! ## Cancellers and suppressors -/

/-- A canceller that holds one segment. -/
def held (st : CanState) (time : Nat) : Canceller :=
  { Canceller.reset with
    state := st, held := [{ num := 0, taps := List.replicate 128 1 }], timer := time
    window := { EchoWindow.zero with count := 32 } }

theorem wit_EchoStoresSettings :
    let s := withLeg 63 (busyLeg 47) (withCan 63 (held .converging 0) s0)
    s.takes ∧ s.noCueRoutes ∧ (look s.can 63).held ≠ [] ∧ (look s.legs 63).mode ≠ .off ∧
      (look s.legs 63).tail = (look s.can 63).tail ∧
      runs (exec (.echo 1 [63, 3, 2, 0]) s) (fun t =>
        (look t.can 63).held.isEmpty && (look t.legs 63).tail = 2) = true ∧
      runs (exec (.echo 1 [63, 0, 4, 1]) s) (fun t =>
        (look t.can 63).held.map HeldSeg.taps = [List.replicate 128 0]) = true ∧
      gives s (.echo 1 [63, 0, 4, 0]) .ok = true ∧ gives s (.echo 1 [63, 1, 8, 0]) .ok = true :=
  ⟨takes_of _ rfl rfl, noCue_of _ rfl, by decide +kernel⟩

/-- Every change of mode and tail: in a call and parked, from OFF, granted, refused room and behind another. -/
theorem wit_EchoChangesModeAndTail :
    let c (st : CanState) (count : Nat) (loud : Bool) : Canceller :=
      { held st 8 with
        working := .converged, doubleTalk := st.measures
        history := List.replicate 32 (if loud then 3000 else 0)
        window := { EchoWindow.zero with count := count, adapts := decide (0 < count) } }
    let s (l : Leg) (x : Canceller) (p : Pool) : State :=
      { withLeg 63 l (withCan 63 x s0) with pool := p }
    let talk (m : EchoMode) : Leg := { busyLeg 47 with mode := m }
    let free := Pool.reset
    let waits : Pool := { free with wait := [{ who := .cursor 0, need := 400 }, { who := .leg 63, need := 3 }] }
    let after (m : EchoMode) (tail : Nat) (reset : Bool) (x : State) (f : Canceller → Pool → Bool) :=
      runs (exec (.echo 1 [63, m.code, byte tail, flagByte reset]) x) fun t => f (look t.can 63) t.pool
    (s (talk .on) (c .converged 9 true) waits).takes ∧ (s (talk .on) (c .converged 9 true) waits).noCueRoutes ∧
      ((∀ n, ¬(s (talk .on) (c .converged 9 true) waits).reclaimable n) ∧
        waits.fits (.cursor 0) 400 = false ∧ canTable true false .talking .on .converged = .converged) ∧
      after .bypass 4 false (s (talk .on) (c .converged 9 true) free) (fun x _ =>
        x.state = .bypassed && x.working = .converging && x.held = (held .idle 0).held) = true ∧
      after .on 4 false (s (talk .freeze) (c .held 0 true) free) (fun x _ =>
        x.state = .converged && x.window.count = 0 && x.timer = 0) = true ∧
      after .freeze 4 false (s { parkLeg with mode := .on } (c .held 0 true) free) (fun x _ =>
        x.state = .held) = true ∧
      after .on 8 false (s (talk .off) Canceller.reset free) (fun x _ =>
        x.held.map HeldSeg.taps = List.replicate 8 (List.replicate 128 0)) = true ∧
      after .on 8 false (s (talk .off) Canceller.reset { free with owner := .replicate 384 (.ring 0) })
        (fun x p => x.held.isEmpty && p.wait = [{ who := .leg 63, need := 8 }]) = true ∧
      after .on 8 false (s { parkLeg with mode := .off } Canceller.reset free) (fun x p =>
        x.held.isEmpty && p.wait.isEmpty) = true ∧
      after .on 2 false
        (s (talk .on) { c .converged 9 true with held := (List.range 3).map fun k => .fresh (.ofNat 384 k) }
          { free with owner := put (put (put free.owner 0 (.taps 63)) 1 (.taps 63)) 2 (.taps 63) })
        (fun x p => x.held.map HeldSeg.num = [0, 1] && look p.owner 2 = .free && x.state = .converged) =
          true ∧
      after .on 8 false (s (talk .on) (c .converged 9 true) free) (fun x _ =>
        x.held.length = 8 && x.state = .converged) = true ∧
      after .on 8 false (s (talk .on) (c .converged 9 true) waits) (fun x p =>
        x.held.length = 1 && p.wait.map WaitEntry.need = [400, 7]) = true ∧
      after .on 8 false (s { parkLeg with mode := .on } (c .held 0 true) free) (fun x p =>
        x.held.length = 1 && p.wait.isEmpty) = true ∧
      after .on 4 true (s (talk .on) (c .converged 9 true) free) (fun x _ =>
        x.state = .converging && x.window = { EchoWindow.zero with count := 9 }) = true := by
  refine ⟨takes_of _ rfl rfl, noCue_of _ rfl, ⟨?_, by decide +kernel, by decide⟩, ?_⟩
  · unfold State.reclaimable; decide +kernel
  repeat' apply And.intro
  all_goals decide +kernel

/-- A reset at a window's end leaves the next window to what the reference was, whatever the double talk (R51,
R57). -/
theorem test_reset_option_decides_next_window :
    (∀ x : Canceller, x.held ≠ [] → x.state.measures = true → x.window.count = 0 →
      x.resetOption.window.adapts = referenceLoud (sumSquares (x.history.take 32))) ∧
      referenceLoud (sumSquares (List.replicate 32 3000)) = true ∧
      referenceLoud (sumSquares (List.replicate 32 0)) = false := by
  refine ⟨?_, ?_, ?_⟩
  · intro x h m n
    simp [Canceller.resetOption, h, m, n, Canceller.freshWindow, echoWindowFrames]
  all_goals
    simp only [referenceLoud, levelAtLeast, Config.fullScale]
    generalize Config.fullScaleIs32768 = b
    revert b
    decide +kernel

/-- A window due, with the timer short of its limit or at it; a window one frame short; a canceller that
does not run. -/
theorem wit_EchoWindowEndMeasures :
    let s (time : Nat) := withLeg 63 (busyLeg 47) (withCan 63 (held .converging time) s0)
    ((s 496).postings = [] ∧ (s 496).noCueRoutes) ∧
      ((look (s 496).can 63).state = .converging ∧ 32 ≤ (look (s 496).can 63).window.count ∧
        (look (s 496).can 63).timer < 500 ∧ (look (s 500).can 63).timer = 500 ∧
        (look (s 496).legs 63).state = .talking ∧ (look (s 496).legs 63).mode = .on ∧
        (look s0.can 63).state = .idle ∧ (look s0.can 63).window.count < 32) ∧
      runs (exec (.convergenceTimerExpiry 63) (s 500)) (fun t =>
        (look t.can 63).state = .converged && (look t.can 63).timer = 0 &&
          t.router.notices.length = 2) = true :=
  ⟨⟨rfl, noCue_of _ rfl⟩, by decide +kernel⟩

theorem wit_AnalysisBlockEndDecides :
    let s (f : Suppressor) := withSup 47 f (withPos 47 idlePos s0)
    let c (n learned : Nat) : Suppressor :=
      { Suppressor.reset with
        gather := List.replicate n 0, learned := learned, speech := true, hangover := 192 }
    (s (c 64 500)).postings = [] ∧ (look (s (c 64 500)).pos 47).present = true ∧
      (look (s (c 64 500)).sup 47).gather.length = 64 ∧
      ((c 64 500).highTimer + 8 < 2000 ∧ (c 64 500).lowTimer + 8 < 2000 ∧ 200 ≤ (c 64 500).hangover + 8) ∧
      runs (exec (.analysisBlockEnd 47) (s (c 63 0))) (fun t => (look t.sup 47).gather.length = 63) =
        true ∧
      runs (exec (.hangoverExpiry 47) (s (c 63 500))) (fun t => (look t.sup 47).speech) = true ∧
      runs (exec (.hangoverExpiry 47) (s { c 0 0 with hangover := 200 })) (fun t =>
        !(look t.sup 47).speech && (look t.sup 47).hangover = 0) = true :=
  ⟨rfl, by decide +kernel⟩

/-- Timers at their limits, and timers no block end can bring there. -/
theorem wit_AlarmTimersTurnAlarm :
    let s (a : Alarm) (n : Nat) :=
      withSup 47 { Suppressor.reset with alarm := a, highTimer := n, lowTimer := n } (withPos 47 idlePos s0)
    (s .normal 2000).noCueRoutes ∧ (look (s .high 1999).sup 47).gather.length < 64 ∧
      runs (exec (.highTimerExpiry 47) (s .normal 2000)) (fun t =>
        (look t.sup 47).alarm = .high && t.router.notices.length = 2) = true ∧
      runs (exec (.lowTimerExpiry 47) (s .high 2000)) (fun t =>
        (look t.sup 47).alarm = .normal && t.router.notices.length = 2) = true ∧
      runs (exec (.highTimerExpiry 47) (s .high 2000)) (fun t => (look t.sup 47).highTimer = 2000) =
        true ∧
      runs (exec (.lowTimerExpiry 47) (s .high 1999)) (fun t => (look t.sup 47).lowTimer = 1999) = true :=
  ⟨noCue_of _ rfl, by decide +kernel⟩

/-- A block of silence in the hangover, so that the floor stands as it was: it brings a timer at 1,992 ms to its
limit, by either command, and one at 1,984 ms short of it. -/
theorem wit_AlarmTurnsAtBlockEnd :
    let s (a : Alarm) (n : Nat) (floor : Int) : State :=
      withSup 47
        { Suppressor.reset with
          gather := List.replicate 64 0, learned := 500, speech := true, level := 0, alarm := a
          floor := floor, threshold := -35, highTimer := n, lowTimer := n } (withPos 47 idlePos s0)
    let turned (t : State) : Bool := (look t.sup 47).highTimer = 0 && t.router.notices.length = 2
    (s .normal 1992 (-34)).noCueRoutes ∧
      (runs (exec (.analysisBlockEnd 47) (s .normal 1992 (-34))) turned = true ∧
        runs (exec (.highTimerExpiry 47) (s .normal 1992 (-34))) turned = true) ∧
      (runs (exec (.analysisBlockEnd 47) (s .high 1992 (-39))) turned = true ∧
        runs (exec (.lowTimerExpiry 47) (s .high 1992 (-39))) turned = true) ∧
      runs (exec (.highTimerExpiry 47) (s .normal 1992 (-35))) (fun t => (look t.sup 47).highTimer = 1992) =
        true ∧
      runs (exec (.lowTimerExpiry 47) (s .high 1992 (-38))) (fun t => (look t.sup 47).lowTimer = 1992) =
        true ∧
      runs (exec (.analysisBlockEnd 47) (s .normal 1984 (-34))) (fun t => (look t.sup 47).highTimer = 1992) =
        true := by
  refine ⟨noCue_of _ rfl, ?_⟩
  repeat' apply And.intro
  all_goals decide +kernel

/-! ## Pool, cue lists, groups and cursors -/

/-- A pool in which leg 0 holds 273 segments, one more than a reserve of 112 leaves. -/
def crowded : State :=
  { s0 with
    pool :=
      { Pool.reset with
        owner := Vector.replicate 273 (SegOwner.taps 0) ++ Vector.replicate 111 SegOwner.free } }

theorem wit_SprsStoresReserve :
    s0.takes ∧ s0.noCueRoutes ∧ s0.pool.wait = [] ∧ crowded.pool.legHeld = 273 ∧
      gives s0 (.sprs 1 [113]) .badarg = true ∧ gives crowded (.sprs 1 [112]) .state = true ∧
      runs (exec (.sprs 1 [112]) s0) (fun t => t.pool.reserve = 112) = true :=
  ⟨takes_s0, noCue_of _ rfl, rfl, by decide +kernel⟩

/-- A pool with no FREE segment: two parked legs hold one each, cursor 0 the rest; a wait list. -/
def drained (wait : List WaitEntry) (s : State) : State :=
  { withCan 62 (held .held 0)
      (withCan 63 { held .held 0 with held := [{ num := 1, taps := List.replicate 128 1 }] }
        (withLeg 62 parkLeg (withLeg 63 parkLeg s))) with
    pool := { s.pool with
      owner := put (put (Vector.replicate 384 (SegOwner.ring 0)) 0 (.taps 62)) 1 (.taps 63), wait := wait } }

/-- The requests of the wait list tests. -/
def want (c : CurIx) (need : Nat) : WaitEntry := { who := .cursor c, need := need }

/-- A head that fits; one for which the lower of two legs parked at one time is enough; one that takes what a
leg parked alone holds, and waits on. -/
theorem wit_SprsGrantsAndReclaims :
    let fits := { s0 with pool := { s0.pool with wait := [{ who := .leg 5, need := 4 }] } }
    let lone (s : State) := withLeg 62 Leg.reset (withCan 62 Canceller.reset s)
    let two := drained [want 55 1] s0
    let one := lone (drained [want 55 2] s0)
    let none_ := lone (withLeg 63 Leg.reset (withCan 63 Canceller.reset (drained [want 55 2] s0)))
    (fits.takes ∧ two.takes ∧ one.takes ∧ none_.takes ∧ two.noCueRoutes) ∧
      (two.pool.legHeld = 2 ∧ two.reclaimable 62 ∧ two.reclaimable 63 ∧ two.parkAge 62 = two.parkAge 63) ∧
      (one.reclaimable 63 ∧ ∀ m, m ≠ 63 → ¬one.reclaimable m) ∧ (∀ m, ¬none_.reclaimable m) ∧
      runs (exec (.sprs 1 [112]) fits) (fun t =>
        (look t.can 5).held.map HeldSeg.num = [0, 1, 2, 3] && t.pool.wait.isEmpty) = true ∧
      runs (exec (.sprs 1 [0]) two) (fun t =>
        look t.pool.owner 0 = .ring 55 && (look t.can 62).reclaimed && !(look t.can 63).held.isEmpty &&
          t.router.notices.length = 2 && t.pool.wait.isEmpty) = true ∧
      runs (exec (.sprs 1 [0]) one) (fun t =>
        look t.pool.owner 1 = .free && (look t.can 63).reclaimed && t.pool.wait.length = 1) = true ∧
      runs (exec (.sprs 1 [0]) none_) (fun t => t.pool.wait.length = 1 && t.router.notices.length = 1) =
        true := by
  refine ⟨⟨takes_of _ rfl rfl, takes_of _ rfl rfl, takes_of _ rfl rfl, takes_of _ rfl rfl, noCue_of _ rfl⟩, ?_⟩
  unfold State.reclaimable
  repeat' apply And.intro
  all_goals decide +kernel

/-- A leg that asks for more behind a cursor, one that changes what it waits for, and a cursor behind a cursor
and before a leg. -/
theorem wit_PoolListsWaiters :
    let leg (n : LegIx) : WaitEntry := { who := .leg n, need := 2 }
    let full (wait : List WaitEntry) : State := withLeg 9 (busyLeg 47) <|
      { withLeg 62 Leg.reset (withLeg 63 Leg.reset (drained wait s0)) with pairs := [] }
    let idle (wait : List WaitEntry) := withCue 31 [.silence 10] (withPos 47 idlePos (full wait))
    let s := full [want 0 2]
    (s.takes ∧ s.noCueRoutes) ∧ ((look s.legs 9).state = .talking ∧ (look s.can 9).held = [] ∧
      s.pool.free = 0 ∧ s.pool.fits (.cursor 0) 2 = false ∧
      (look (idle []).cursors (posCursor 47)).state = .stopped) ∧ (∀ m, ¬s.reclaimable m) ∧
      runs (exec (.echo 1 [9, 0, 8, 0]) s) (fun t =>
        t.pool.wait = [want 0 2, { who := .leg 9, need := 8 }]) = true ∧
      runs (exec (.echo 1 [9, 0, 2, 0]) (full [want 0 2, { who := .leg 9, need := 4 }, leg 5])) (fun t =>
        t.pool.wait = [want 0 2, leg 9, leg 5]) = true ∧
      runs (exec (.wpst 1 [47, 31, 2, 0]) (idle [want 0 2, leg 5])) (fun t =>
        t.pool.wait = [want 0 2, want 55 2, leg 5]) = true ∧
      runs (exec (.wpst 1 [47, 31, 2, 0]) (idle [])) (fun t => t.pool.wait = [want 55 2]) = true := by
  refine ⟨⟨takes_of _ rfl rfl, noCue_of _ rfl⟩, ?_⟩
  unfold State.reclaimable
  repeat' apply And.intro
  all_goals decide +kernel

theorem wit_CdefReplacesCueList :
    let items : List Item := [.clip 127 (-24), .clip 1 6, .silence 10, .tone 7 60000]
    let payload : List Byte := 31 :: 30 :: byte items.length :: items.flatMap Item.bytes
    s0.takes ∧ (∀ i ∈ items, i.inRange) ∧ (∀ g, (look s0.groups g).source ≠ some 31) ∧
      runs (exec (.cdef 1 payload) s0) (fun t => look t.cues 31 = { items := items, duck := 30 }) = true ∧
      gives s0 (.cdef 1 (payload ++ [0])) .length = true ∧ gives s0 (.cdef 1 [31, 0, 0]) .ok = true ∧
      gives s0 (.cdef 1 (31 :: 0 :: 8 :: (List.replicate 8 (Item.silence 10)).flatMap Item.bytes)) .ok =
        true := by
  refine ⟨takes_s0, ?_, by decide +kernel⟩
  simp [Item.inRange]

theorem wit_CdefWrongLengths :
    let one : List Byte := 31 :: 0 :: 1 :: Item.bytes (.silence 10)
    one.length = 7 ∧ gives s0 (.cdef 1 []) .length = true ∧ gives s0 (.cdef 1 [31, 0]) .length = true ∧
      gives s0 (.cdef 1 (one.take 6)) .length = true ∧ gives s0 (.cdef 1 (one ++ [0, 0])) .length = true ∧
      gives s0 (.cdef 1 (List.replicate 240 0)) .length = true := by
  decide +kernel

theorem wit_GsrcStoresSource :
    let s := withCursor 7
      { Cursor.reset with state := .playing, snapshot := some { cue := 31, items := [], duck := 0 } } s0
    (s0.takes ∧ s.takes) ∧ s.noCueRoutes ∧
      ((look s0.cursors (groupCursor 7)).state = .stopped ∧ (look s0.groups 7).members = [] ∧
        (look s.cursors (groupCursor 7)).state = .playing) ∧
      gives s0 (.gsrc 1 ([7, 31, 1] ++ le2 600)) .ok = true ∧
      gives s0 (.gsrc 1 ([7, 0xFF, 0] ++ le2 5)) .ok = true ∧
      gives s0 (.gsrc 1 ([7, 0xFF, 0] ++ le2 0)) .ok = true ∧
      gives s0 (.gsrc 1 ([7, 0xFF, 0] ++ le2 4)) .badarg = true ∧
      gives s0 (.gsrc 1 ([7, 0xFF, 0] ++ le2 601)) .badarg = true ∧
      runs (exec (.gsrc 1 ([7, 31, 0] ++ le2 0)) s) (fun t => !(look t.groups 7).pendingChange) = true ∧
      runs (exec (.gsrc 1 ([7, 30, 0] ++ le2 0)) s) (fun t => (look t.groups 7).pendingChange) = true :=
  ⟨⟨takes_s0, takes_of _ rfl rfl⟩, noCue_of _ rfl, by decide +kernel⟩

/-- A cursor at the end of the first of its items. -/
def ending (items : List Item) (index : Nat) : Cursor :=
  { Cursor.reset with
    state := .playing, snapshot := some { cue := 31, items := items, duck := 0 }, index := index
    played := true }

theorem wit_ItemEndGoesOn :
    let pc := posCursor 47
    let at_ (items : List Item) (index : Nat) := withStore (holding (clip .valid))
      (withPos 47 idlePos (withWhisper 47 { Whisper.reset with playing := .prompt (entry .urgent false) }
        (withCursor pc (ending items index) s0)))
    let g := withCue 31 [.silence 10] (withGroup 7 { Group.reset with source := some 31, members := [63] }
      (withCursor 7 (ending [.silence 10] 0) s0))
    (at_ [.silence 10, .silence 20] 0).postings = [] ∧ (at_ [.silence 10] 0).noCueRoutes ∧
      ((ending [.silence 10] 0).atEnd ready = true ∧
        { ending [.silence 10] 0 with place := 1 }.atEnd ready = false ∧
        (holding (clip .valid)).clip 127 = some (clip .valid) ∧ posCursor 47 = 55 ∧ groupCursor 7 = 7) ∧
      runs (exec (.itemEnd pc) (at_ [.silence 10, .silence 20] 0)) (fun t =>
        (look t.cursors pc).index = 1 && (look t.cursors pc).place = 160) = true ∧
      runs (exec (.itemEnd pc) (at_ [.silence 10, .tone 7 20] 0)) (fun t =>
        (look t.cursors pc).index = 1 && (look t.cursors pc).place = 160) = true ∧
      runs (exec (.itemEnd pc) (at_ [.silence 10, .clip 127 0] 0)) (fun t =>
        (look t.cursors pc).clip = some 127 && (t.store.clip 127).map Clip.refs = some 1) = true ∧
      runs (exec (.itemEnd pc) (at_ [.silence 10] 0)) (fun t =>
        (look t.cursors pc).state = .stopped && (look t.whisper 47).playing = .none &&
          t.router.notices.length = 2) = true ∧
      runs (exec (.itemEnd 7) g) (fun t =>
        (look t.cursors 7).place = 80 && !(look t.cursors 7).played) = true :=
  ⟨rfl, noCue_of _ rfl, by decide +kernel⟩

/-- The end of a clip with another reference, of the last one of a RETIRING clip, with a clip missing behind it,
and of a connect prompt. -/
theorem wit_ItemEndLeavesClip :
    let pc := posCursor 47
    let at_ (c : Clip) (items : List Item) (e : Entry) := withStore (holding c) (withPos 47 (busyPos 63)
      (withLeg 63 (connLeg 47) (withWhisper 47 { Whisper.reset with playing := .prompt e }
        (withCursor pc { ending items 0 with clip := some 127, place := 1 } s0))))
    let two : List Item := [.clip 127 0, .silence 20]
    let e := entry .urgent true
    ((at_ (clip .valid) two e).postings = [] ∧ (at_ (clip .valid) two e).noCueRoutes) ∧
      ((look (at_ (clip .valid) two e).cursors pc).atEnd (holding (clip .valid)) = true ∧
        (at_ (clip .valid) two e).pool.waits (.cursor pc) = false) ∧
      runs (exec (.itemEnd pc) (at_ { clip .valid with refs := 2 } two e)) (fun t =>
        (look t.cursors pc).place = 160 && (look t.cursors pc).clip = none &&
          (t.store.clip 127).map Clip.refs = some 1) = true ∧
      runs (exec (.itemEnd pc) (at_ { clip .retiring with refs := 1 } two e)) (fun t =>
        t.store.eraseQueue = [255] && t.store.sectors[255] = some .queued) = true ∧
      runs (exec (.itemEnd pc) (at_ { clip .valid with refs := 1 } [.clip 127 0] e)) (fun t =>
        (look t.cursors pc).state = .stopped && (look t.legs 63).state = .talking &&
          t.router.notices.length = 2) = true ∧
      runs (exec (.itemEnd pc) (withCursor pc (ending [.silence 10, .clip 1 0, .silence 20] 0)
          (at_ (clip .valid) two e))) (fun t =>
        (look t.cursors pc).index = 2 && t.router.notices.length = 2) = true := by
  refine ⟨⟨rfl, noCue_of _ rfl⟩, ?_⟩
  repeat' apply And.intro
  all_goals decide +kernel

/-- A pass with its one clip missing, the second after it, and a pending source that has nothing to play. -/
theorem wit_ItemEndOfGroup :
    let s (items : List Item) (source : CueIx) (pending gap : Bool) :=
      withCue 30 items (withStore ready (withGroup 7
        { Group.reset with source := some source, pendingChange := pending, members := [63] }
        (withCursor 7 { ending [.silence 10] 0 with gap := gap } s0)))
    (s [] 31 true false).noCueRoutes ∧
      ((s [] 31 true false).pool.waits (.cursor 7) = false ∧
        (s [.clip 127 0] 30 false false).store.clip 127 = none) ∧
      runs (exec (.itemEnd 7) (s [.clip 127 0] 30 false false)) (fun t =>
        (look t.cursors 7).gap && (look t.cursors 7).place = 8000 &&
          t.router.notices.length = 2) = true ∧
      runs (exec (.itemEnd 7) (s [.silence 20] 30 false true)) (fun t =>
        !(look t.cursors 7).gap && (look t.cursors 7).place = 160) = true ∧
      runs (exec (.itemEnd 7) (s [.silence 20] 30 true false)) (fun t =>
        (look t.cursors 7).snapshot.map Snapshot.cue = some 30 && !(look t.groups 7).pendingChange) =
          true ∧
      runs (exec (.itemEnd 7) (withCursor 7 (ending [.silence 10, .silence 30] 0) (s [] 31 false false)))
        (fun t => (look t.cursors 7).index = 1) = true ∧
      runs (exec (.itemEnd 7) (s [] 31 true false)) (fun t =>
        (look t.cursors 7).state = .stopped && !(look t.groups 7).pendingChange) = true := by
  refine ⟨noCue_of _ rfl, ?_⟩
  repeat' apply And.intro
  all_goals decide +kernel

theorem wit_ItemEndOfGroupClip :
    let at_ (c : Clip) (items : List Item) : State := withCue 31 [.clip 127 0] (withStore (holding c)
      (withGroup 7 { Group.reset with source := some 31, members := [63] } (withCursor 7
        { ending items 0 with
          clip := some 127, place := 1
          ring := some #v[{ num := 0, state := .empty, first := 0, data := [] },
            { num := 1, state := .empty, first := 0, data := [] }] } s0)))
    let after (s : State) (f : Cursor → State → Bool) := runs (exec (.itemEnd 7) s) fun t =>
      f (look t.cursors 7) t
    let valid := { clip .valid with refs := 1 }
    let two : List Item := [.clip 127 0, .silence 20]
    ((look (at_ valid two).cursors 7).atEnd (at_ valid two).store = true ∧
      (holding valid).clip 127 = some valid) ∧
      after (at_ valid two) (fun x t =>
        x.index = 1 && x.clip = none && (t.store.clip 127).map Clip.refs = some 0) = true ∧
      after (at_ { clip .retiring with refs := 1 } two) (fun x t =>
        x.place = 160 && t.store.eraseQueue = [255]) = true ∧
      after (at_ valid [.clip 127 0]) (fun x t =>
        x.index = 0 && x.place = 0 && x.clip = some 127 && !x.played && x.requested = 1 &&
          t.store.refills.length = 1 && (t.store.clip 127).map Clip.refs = some 1) = true := by
  repeat' apply And.intro
  all_goals decide +kernel

/-- Group 7 with a source of two items, a resume point and members. -/
def onHold (items : List Item) (point : Option Place) (members : List LegIx) (s : State) : State :=
  withCue 31 items (withGroup 7
    { Group.reset with source := some 31, resume := true, point := point, members := members } s)

/-- A STOPPED cursor with a member; a STARTING one that keeps its source, changes it and loses it. -/
theorem wit_GsrcChangesSource :
    let stopped := onHold [.silence 10, .clip 127 0] (some { index := 1, elapsed := 0, shown := 0 }) [63]
      (withStore (holding (clip .valid)) s0)
    let starting := withCue 30 [.silence 20] <| onHold [.clip 127 0] none [63] <| withCursor 7
      { Cursor.reset with
        state := .starting, clip := some 127, snapshot := some { cue := 31, items := [.clip 127 0], duck := 0 }
        ring := playing.ring } <| withStore (holding { clip .valid with refs := 1 }) s0
    (stopped.takes ∧ starting.takes) ∧ starting.noCueRoutes ∧
      ((look starting.cursors (groupCursor 7)).state = .starting ∧
        starting.pool.waits (.cursor 7) = (look starting.cursors 7).ring.isNone ∧
        (Item.clip 127 0).endsBy stopped.store 0 = false) ∧
      runs (exec (.gsrc 1 ([7, 31, 1] ++ le2 0)) stopped) (fun t =>
        (look t.cursors 7).state = .starting && (look t.cursors 7).index = 1 &&
          (look t.groups 7).point = none) = true ∧
      runs (exec (.gsrc 1 ([7, 0xFF, 1] ++ le2 0)) stopped) (fun t => (look t.cursors 7).state = .stopped) =
        true ∧
      runs (exec (.gsrc 1 ([7, 31, 1] ++ le2 0)) starting) (fun t => (look t.cursors 7).clip = some 127) =
        true ∧
      runs (exec (.gsrc 1 ([7, 30, 1] ++ le2 0)) starting) (fun t =>
        (look t.cursors 7).state = .playing && (look t.cursors 7).place = 160) = true ∧
      runs (exec (.gsrc 1 ([7, 0xFF, 1] ++ le2 0)) starting) (fun t =>
        (look t.cursors 7).state = .stopped && (look t.cursors 7).ring = none) = true := by
  refine ⟨⟨takes_of _ rfl rfl, takes_of _ rfl rfl⟩, noCue_of _ rfl, ?_⟩
  repeat' apply And.intro
  all_goals decide +kernel

/-- A first member finds the point inside item 1, at the end of item 0, beyond the list, or in a clip that is
gone. -/
theorem wit_FirstMemberStartsCursor :
    let s (point : Option Place) := onHold [.silence 10, .silence 20] point [] s0
    let gone := onHold [.clip 127 0, .silence 20] (some { index := 0, elapsed := 1, shown := 1 }) []
      (withStore ready s0)
    let starts (x : State) (index place : Nat) := runs (exec (.park 1 [63, 7]) x) fun t =>
      (look t.cursors 7).index = index && (look t.cursors 7).place = place &&
        (look t.groups 7).members = [63] && (look t.groups 7).point = none &&
          ((look t.cursors 7).begun.index ≤ index)
    ((s none).takes ∧ gone.takes) ∧ (s none).noCueRoutes ∧
      ((look gone.legs 63).state = .free ∧ (Item.clip 127 0).endsBy ready 1 = false ∧
        (Item.silence 10).endsBy ready 80 = true ∧ (Item.silence 10).endsBy ready 79 = false) ∧
      starts (s none) 0 80 = true ∧
      starts (s (some { index := 1, elapsed := 159, shown := 1 })) 1 1 = true ∧
      starts (s (some { index := 0, elapsed := 80, shown := 0 })) 1 160 = true ∧
      starts (s (some { index := 2, elapsed := 0, shown := 0 })) 0 80 = true ∧
      starts gone 1 160 = true ∧
      runs (exec (.park 1 [63, 7]) gone) (fun t => t.router.notices.length = 2) = true := by
  refine ⟨⟨takes_of _ rfl rfl, takes_of _ rfl rfl⟩, noCue_of _ rfl, ?_⟩
  repeat' apply And.intro
  all_goals decide +kernel

/-- The last member leaves a cursor inside SILENCE, inside a clip, STARTING behind a skipped clip, and in the
second after an empty pass; one of two members leaves. -/
theorem wit_LastLeaveStopsCursor :
    let s (cur : Cursor) (members : List LegIx) := onHold [.silence 10] none members
      (withLeg 63 parkLeg (withCursor 7 cur s0))
    let inside (items : List Item) : Cursor := { ending items 0 with place := 30, ring := playing.ring }
    let left (cur : Cursor) (e : Nat) := runs (exec (.rels 1 [63]) (s cur [63])) fun t =>
      (look t.groups 7).point.map Place.elapsed = some e && (look t.cursors 7).state = .stopped &&
        (look t.cursors 7).ring = none
    (s (inside [.silence 10]) [63]).takes ∧ (s (inside [.silence 10]) [63]).bindingsConsistent ∧
      left (inside [.silence 10]) 50 = true ∧ left (inside [.clip 127 0]) 30 = true ∧
      left { inside [.silence 10] with gap := true } 0 = true ∧
      left { inside [.silence 10] with state := .starting, begun := { index := 7, elapsed := 9, shown := 9 } } 9 =
        true ∧
      runs (exec (.rels 1 [63]) (s (inside [.silence 10]) [62, 63])) (fun t =>
        (look t.groups 7).members = [62] && (look t.cursors 7).state = .playing &&
          (look t.groups 7).point = none) = true := by
  refine ⟨takes_of _ rfl rfl, ?_⟩
  unfold Units.bindingsConsistent
  repeat' apply And.intro
  all_goals decide +kernel

/-- A start at the end of the last item keeps that item's index: of a group, whose silence waits for its ring,
and of a position, which is done at once (log 50). -/
theorem test_start_at_list_end :
    let full : Place := { index := 1, elapsed := 160, shown := 0 }
    let group := onHold [.silence 10, .silence 20] (some full) [] s0
    let clipEnd := onHold [.clip 127 0] (some { index := 0, elapsed := 2, shown := 2 }) []
      (withStore (holding (clip .valid)) s0)
    let done := group.startCursor group.legs 55 31 (some full)
    runs (exec (.park 1 [63, 7]) group) (fun t =>
      (look t.cursors 7).gap && (look t.cursors 7).begun = full && (look t.cursors 7).index = 0) = true ∧
      runs (exec (.park 1 [63, 7]) clipEnd) (fun t =>
        (look t.cursors 7).gap && (look t.cursors 7).begun = { index := 0, elapsed := 1, shown := 1 }) = true ∧
      (done.2 && (look done.1.cursors 55).state = .stopped && (look done.1.cursors 55).index = 1 &&
        (look done.1.cursors 55).place = 0) = true := by
  decide +kernel

theorem wit_RefillCompleteFillsSegment :
    let ring : Vector RingSeg 2 := #v[{ num := 0, state := .filling, first := 0, data := [] },
      { num := 1, state := .empty, first := 0, data := [] }]
    let r : Refill := { cursor := 55, clip := 127, seg := 0, first := 0, count := 1 }
    let s (c : Clip) (w : Bool) := withStore { holding c with op := .read r w }
      (withCursor 55 { playing with state := .starting, ring := some ring, refill := some 0 } s0)
    ((s (clip .valid) true).store.op = .read r true ∧ s0.store.clip 127 = none ∧
      (s (clip .valid) false).store.clip 127 = some (clip .valid) ∧
      (look (s (clip .valid) false).cursors 55).ring = some ring ∧ (look ring 1).state = .empty ∧
      65536 * 255 + 256 + 2 * 0 + 2 * 1 ≤ 16777216) ∧
      runs (exec .refillComplete (s (clip .valid) true)) (fun t => t.store.op = .none) = true ∧
      runs (exec .refillComplete (s (clip .valid) false)) (fun t =>
        (look t.cursors 55).state = .playing &&
          ((look t.cursors 55).ring.map fun r => (look r 0).data) = some [0xFFFF]) = true ∧
      runs (exec .refillComplete (withStore
        { holding { clip .valid with samples := 300 } with op := .read r false }
        (withCursor 55 { playing with ring := some ring, refill := some 0 } s0))) (fun t =>
          (look t.cursors 55).refill = some 1 &&
            t.store.refills = [{ cursor := 55, clip := 127, seg := 1, first := 1, count := 256 }]) = true := by
  decide +kernel

theorem wit_RefillBeyondFlashStops :
    let r : Refill := { cursor := 55, clip := 127, seg := 0, first := 0, count := 32641 }
    let s := withStore { holding (clip .valid) with op := .read r false } s0
    16777216 < 65536 * (clip .valid).first.val + 256 + 2 * r.first + 2 * r.count ∧
      (match exec .refillComplete s with
        | .fault x => decide (x = .flashAddress)
        | _ => false) = true := by
  decide +kernel

/-! ## Whisper prompts, coaching and announcements -/

theorem wit_WpstPlacesEntry :
    let s (w : Whisper) := withCue 31 [.silence 10] (withPos 47 idlePos (withWhisper 47 w s0))
    let full : Whisper :=
      { queue := List.replicate 8 (entry .routine false), playing := .coach, stack := [] }
    let seven : Whisper := { full with queue := List.replicate 7 (entry .routine false) }
    let routine : Whisper := { Whisper.reset with playing := .prompt (entry .routine false) }
    ((s .reset).takes ∧ (s .reset).noCueRoutes) ∧ noClipFirst [.silence 10] ∧
      ((look (s .reset).pos 47).nesting = true ∧
        (look (s .reset).cursors (posCursor 47)).state = .stopped) ∧
      gives s0 (.wpst 1 [47, 31, 1, 0]) .state = true ∧
      gives (withPos 47 { idlePos with state := .loopback } s0) (.wpst 1 [47, 31, 1, 0]) .state = true ∧
      gives (s .reset) (.wpst 1 [47, 30, 2, 0]) .badarg = true ∧
      gives (s full) (.wpst 1 [47, 31, 2, 0]) .noroom = true ∧
      runs (exec (.wpst 1 [47, 31, 1, 1]) (s seven)) (fun t =>
        (look t.whisper 47).queue.map Entry.level = Level.urgent :: List.replicate 7 .routine) = true ∧
      runs (exec (.wpst 1 [47, 31, 1, 0]) (s .reset)) (fun t =>
        (look t.whisper 47).playing = .prompt (entry .urgent false) &&
          (look t.cursors (posCursor 47)).state = .playing) = true ∧
      runs (exec (.wpst 1 [47, 31, 1, 0]) (s routine)) (fun t =>
        (look t.whisper 47).playing = .prompt (entry .urgent false) &&
          (look t.whisper 47).stack.length = 1) = true ∧
      runs (exec (.wpst 1 [47, 31, 2, 0]) (s { routine with playing := .prompt (entry .urgent false) }))
        (fun t => (look t.whisper 47).queue = [entry .routine false]) = true := by
  refine ⟨⟨takes_of _ rfl rfl, noCue_of _ rfl⟩, ?_, by decide +kernel⟩
  intro id gain rest h; cases h

/-- A list that begins with a VALID clip, and one with nothing but a clip that is missing; a ROUTINE posting
behind a ROUTINE prompt with nesting on. -/
theorem wit_WpstSavesPlace :
    let s (x : Cursor) := withCue 31 [.silence 10] (withPos 47 idlePos (withWhisper 47
      { Whisper.reset with playing := .prompt (entry .routine false) } (withCursor (posCursor 47) x s0)))
    let after (x : Cursor) (p : Place) := runs (exec (.wpst 1 [47, 31, 1, 0]) (s x)) fun t =>
      (look t.whisper 47).stack = [{ entry .routine false with saved := some p }]
    (ending [.silence 60000, .clip 127 0] 1).item = some (.clip 127 0) ∧
      after { ending [.silence 60000, .clip 127 0] 1 with place := 5 }
        { index := 1, elapsed := 5, shown := 5 } = true ∧
      after { ending [.silence 60000] 0 with place := 1 } { index := 0, elapsed := 479999, shown := 1 } =
        true ∧
      after { ending [.tone 7 10] 0 with state := .starting, place := 80 }
        { index := 0, elapsed := 0, shown := 80 } = true := by
  decide +kernel

theorem wit_WpstStartsClip :
    let s := withStore (holding (clip .valid)) (withCue 31 [.clip 127 0] (withCue 30 [.clip 1 0]
      (withPos 47 idlePos s0)))
    s.takes ∧ s.canEnter (look s.cues 31).items ∧ ¬s.store.valid 1 ∧
      Whisper.keepsPlaying { Whisper.reset with playing := .prompt (entry .routine false) } true .routine ∧
      runs (exec (.wpst 1 [47, 31, 2, 0]) s) (fun t =>
        (look t.cursors (posCursor 47)).clip = some 127 && (t.store.clip 127).map Clip.refs = some 1) =
          true ∧
      runs (exec (.wpst 1 [47, 30, 2, 0]) s) (fun t =>
        look t.whisper 47 = Whisper.reset && t.router.notices.length = 3) = true ∧
      runs (exec (.wpst 1 [47, 31, 2, 0])
        (withWhisper 47 { Whisper.reset with playing := .prompt (entry .routine false) } s)) (fun t =>
          (look t.whisper 47).queue.length = 1) = true := by
  refine ⟨takes_of _ rfl rfl, .inr ⟨127, 0, [], rfl, clip .valid, by decide +kernel, rfl⟩, ?_,
    .inr ⟨_, rfl, .inr (.inr ⟨rfl, by decide⟩)⟩, by decide +kernel⟩
  rintro ⟨k, hk, -⟩
  have h : (holding (clip .valid)).clip 1 = none := by decide +kernel
  cases h.symm.trans hk

/-- A set that takes the routine entry behind an urgent prompt, and one that takes a connect entry. -/
theorem wit_WflsRemovesEntries :
    let s := withPos 47 (busyPos 63) (withLeg 63 (connLeg 47) (withWhisper 47
      { queue := [entry .routine false], playing := .prompt (entry .urgent true), stack := [] } s0))
    s.takes ∧ s.noCueRoutes ∧ (look s.whisper 47).hasConnect = true ∧
      (look s.legs 63).connectRef = true ∧
      runs (exec (.wfls 1 [47, 2]) s) (fun t =>
        (look t.whisper 47).queue.isEmpty && (look t.legs 63).state = .connecting) = true ∧
      runs (exec (.wfls 1 [47, 0]) s) (fun t => (look t.whisper 47).queue.length = 1) = true ∧
      runs (exec (.wfls 1 [47, 3]) s) (fun t =>
        look t.whisper 47 = Whisper.reset && (look t.legs 63).state = .talking) = true :=
  ⟨takes_of _ rfl rfl, noCue_of _ rfl, by decide +kernel⟩

/-- A level that takes the playing prompt away: nothing is left, the stack has the next, or the queue; and the
connect entry, playing and waiting. -/
theorem wit_WflsTakesNext :
    let u := entry .urgent false
    let r := entry .routine false
    let s (w : Whisper) := withCue 31 [.silence 10] (withPos 47 (busyPos 63) (withLeg 63 (connLeg 47)
      (withWhisper 47 w s0)))
    let after (w : Whisper) (set : Byte) (w' : Whisper) (n : Byte) := runs (exec (.wfls 1 [47, set]) (s w))
      fun t => look t.whisper 47 = w' && lastReply t = some (.ok (n :: w'.summary))
    let cut (w : Whisper) := runs (exec (.wfls 1 [47, 1]) (s w)) fun t =>
      (look t.legs 63).state = .talking && (look t.legs 63).group = none &&
        t.router.notices.map Notice.detail = [0, detail2 1 47]
    ((s .reset).takes ∧ (s .reset).noCueRoutes) ∧
      (s .reset).resolvesTo [.silence 10] (some { index := 0, elapsed := 8, shown := 72 }) 0 8 ∧
      after { queue := [], playing := .prompt u, stack := [] } 1 .reset 1 = true ∧
      after { queue := [r], playing := .prompt u, stack := [{ r with saved := some ⟨0, 8, 72⟩ }] } 1
        { queue := [r], playing := .prompt r, stack := [] } 1 = true ∧
      after { queue := [u, r], playing := .prompt r, stack := [] } 2
        { queue := [], playing := .prompt u, stack := [] } 2 = true ∧
      cut { queue := [], playing := .prompt (entry .urgent true), stack := [] } = true ∧
      cut { queue := [entry .urgent true], playing := .prompt u, stack := [] } = true := by
  refine ⟨⟨takes_of _ rfl rfl, noCue_of _ rfl⟩, ⟨fun h => absurd h (by decide), ?_⟩, ?_⟩
  · intro it h; cases h; decide +kernel
  repeat' apply And.intro
  all_goals decide +kernel

theorem wit_CattMakesPair :
    let e := desk (busyPos 63)
    (e.takes ∧ e.noCueRoutes ∧ (paired false idlePos).takes) ∧
      ((look e.pos 47).role = .supervisor ∧ (look e.whisper 0).playing = .none ∧
        (paired false idlePos).pairs.find? (fun x => x.agent = 0) =
          some { supervisor := 46, agent := 0, mode := .whisper, active := false } ∧
        (paired true (busyPos 63)).pairs.find? (fun x => x.agent = 0) =
          some { supervisor := 46, agent := 0, mode := .whisper, active := true }) ∧
      gives e (.catt 1 [0, 47, 0]) .state = true ∧
      gives (paired true (busyPos 63)) (.catt 1 [47, 0, 1]) .busy = true ∧
      runs (exec (.catt 1 [47, 0, 1]) (paired false idlePos)) (fun t =>
        t.pairs = [{ supervisor := 47, agent := 0, mode := .barge, active := false }]) = true ∧
      gives (desk idlePos) (.catt 1 [47, 0, 0]) .ok = true ∧
      runs (exec (.catt 1 [47, 0, 0]) e) (fun t => (look t.whisper 0).playing = .coach) = true ∧
      runs (exec (.catt 1 [47, 0, 0])
        (withWhisper 0 { Whisper.reset with playing := .prompt (entry .urgent false) } e))
        (fun t => (look t.whisper 0).stack = [{ entry .urgent false with holdsCursor := true }]) = true :=
  ⟨⟨takes_of _ rfl rfl, noCue_of _ rfl, takes_of _ rfl rfl⟩, by decide +kernel⟩

/-- PARK and RELS of an agent's leg with the coach at its ear: nothing stacked, and a prompt the coach paused.
-/
theorem wit_UnbindSuspendsPair :
    let e : Entry := { entry .urgent false with holdsCursor := true }
    let s (stack : List Entry) := withLeg 63 (busyLeg 0) (withWhisper 0
      { queue := [], playing := .coach, stack := stack } (paired true (busyPos 63)))
    let after (c : Instr) (stack : List Entry) (w : Whisper) := runs (exec c (s stack)) fun t =>
      look t.whisper 0 = w && t.pairs.map Pair.active = [false] &&
        (look t.pos 46).state = .coaching && (look t.pos 46).coach.map CoachLink.active = some false
    ((s []).takes ∧ (s []).noCueRoutes ∧ (s []).bindingsConsistent) ∧ (look (s []).legs 63).bound = some 0 ∧
      (s []).pairs.find? (fun x => x.agent = 0) =
        some { supervisor := 46, agent := 0, mode := .whisper, active := true } ∧
      after (.park 1 [63, 7]) [] .reset = true ∧ after (.rels 1 [63]) [] .reset = true ∧
      after (.park 1 [63, 7]) [e] { Whisper.reset with playing := .prompt { e with holdsCursor := false } } =
        true ∧
      after (.rels 1 [63]) [e] { Whisper.reset with playing := .prompt { e with holdsCursor := false } } =
        true := by
  refine ⟨⟨takes_of _ rfl rfl, noCue_of _ rfl, ?_⟩, by decide +kernel⟩
  unfold Units.bindingsConsistent; decide +kernel

theorem wit_CdetEndsPair :
    let s := paired false idlePos
    let a := withWhisper 0 { Whisper.reset with playing := .coach } (paired true (busyPos 63))
    (s.takes ∧ a.takes ∧ s.noCueRoutes) ∧ (s.router.route .coachEnded).notify = true ∧
      gives s (.cdet 1 [47]) .notfound = true ∧ gives s (.cdet 1 [46]) .ok = true ∧
      runs (exec (.cdet 1 [0]) a) (fun t =>
        t.pairs.isEmpty && (look t.whisper 0).playing = .none && (look t.pos 46).state = .idle) = true :=
  ⟨⟨takes_of _ rfl rfl, takes_of _ rfl rfl, noCue_of _ rfl⟩, by decide +kernel⟩

/-- An announcement of cue list 31 to every group, with some frames left. -/
def due (left : Nat) : Counting := { mask := 1, cue := 31, level := .urgent, left := left }

theorem wit_AnnouncementsCountAndFire :
    let full := withSlot 0 (due 1) (withSlot 1 (due 1) (withSlot 2 (due 1) s0))
    let reach := withCue 31 [.silence 10] (withPos 47 { idlePos with floors := 0xFF }
      (withWhisper 47 { Whisper.reset with playing := .coach } (withSlot 3 (due 0) s0)))
    (full.takes ∧ reach.noCueRoutes ∧ (due 0).mask ≠ 0) ∧
      ((∀ j < 3, look full.slots j ≠ none) ∧ look full.slots 3 = none ∧
        (look reach.pos 47).floors &&& (due 0).mask ≠ 0) ∧
      (∀ p, ¬s0.reached 1 p) ∧
      runs (exec (.annc 1 ([1, 31, 1] ++ le2 60000)) full) (fun t =>
        (look t.slots 3).map Counting.left = some 480000) = true ∧
      gives full (.annc 1 ([1, 31, 1] ++ le2 60001)) .badarg = true ∧
      gives (withSlot 3 (due 1) full) (.annc 1 ([1, 31, 1] ++ le2 1)) .noroom = true ∧
      runs (exec (.annc 1 ([1, 31, 1] ++ le2 0)) full) (fun t => look t.slots 3 = none) = true ∧
      runs (exec (.announcementExpiry 0) full) (fun t => (look t.slots 0).isSome) = true ∧
      runs (exec (.announcementExpiry 3) reach) (fun t =>
        look t.slots 3 = none && (look t.whisper 47).queue.length = 1) = true := by
  refine ⟨⟨takes_of _ rfl rfl, noCue_of _ rfl, by decide⟩, by decide +kernel, ?_, by decide +kernel⟩
  unfold State.reached; decide +kernel

/-- Positions that an announcement reaches: one takes it, one is in LOOPBACK, and one has a full queue. -/
theorem wit_AnnouncementDropsAndCounts :
    let x : Position := { idlePos with floors := 1 }
    let s (items : List Item) := withCue 31 items (withPos 45 x (withPos 46 { x with state := .loopback }
      (withPos 47 x (withWhisper 47
        { Whisper.reset with playing := .coach, queue := List.replicate 8 (entry .urgent false) } s0))))
    let fire (items : List Item) := withSlot 0 (due 0) (s items)
    (s [.silence 10]).takes ∧ (fire [.silence 10]).noCueRoutes ∧
      ((fire [.silence 10]).takers 1 31 = 1 ∧ (fire []).takers 1 31 = 0 ∧ look (s []).slots 0 = none ∧
        fire [] = { s [] with slots := put (s []).slots 0 (some (due 0)) }) ∧
      runs (exec (.announcementExpiry 0) (fire [.silence 10])) (fun t =>
        t.router.notices.map Notice.detail =
            [0, detail2 31 2, detail2 31 (2 + 32), detail1 1] &&
          (look t.whisper 45).playing = .prompt
            { entry .urgent false with origin := .announce, resume := .restart } &&
          (look t.whisper 47).queue.length = 8) = true ∧
      runs (exec (.announcementExpiry 0) (fire [])) (fun t =>
        t.router.notices.map Notice.detail =
          [0, detail2 31 (2 + 16), detail2 31 2, detail2 31 (2 + 16), detail1 0]) = true ∧
      runs (exec (.annc 1 [1, 31, 1, 0, 0]) (s [.silence 10])) (fun t =>
        lastReply t = some (.ok [0, 1]) && t.router.notices.length = 4) = true := by
  refine ⟨takes_of _ rfl rfl, noCue_of _ rfl, ⟨?_, ?_, ?_, rfl⟩, ?_⟩
  iterate 3 decide +kernel
  repeat' apply And.intro
  all_goals decide +kernel

theorem wit_AcanCancelsSlot :
    let s := withSlot 3 (due 0) s0
    s.takes ∧ look s.slots 3 = some (due 0) ∧ look s.slots 0 = none ∧ gives s (.acan 1 [3]) .ok = true ∧
      gives s (.acan 1 [0]) .late = true ∧ gives s (.acan 1 [4]) .badarg = true :=
  ⟨takes_of _ rfl rfl, by decide +kernel⟩

/-! ## The clip store -/

/-- A clip in the last sector, being written, that lacks some bytes. -/
def writing (left : Nat) : Store :=
  { holding { clip .writing with remaining := left } with
    sectors := put ready.sectors 255 (some .reserved) }

theorem wit_OpenClaimsLowestRun :
    let s := withStore ready s0
    let one : Store :=
      { ready with sectors := put (Vector.replicate 256 (some SectorState.bad)) 0 (some .erased) }
    s.takes ∧ (∀ i c, s.store.clip i = some c → c.state ≠ .writing) ∧
      (ready.clip 127 = none ∧ one.sectors[0] = some .erased) ∧
      gives s0 (.openClip 1 (127 :: le4 1 ++ [0])) .busy = true ∧
      gives (withStore (writing 0) s0) (.openClip 1 (1 :: le4 1 ++ [0])) .busy = true ∧
      gives (withStore (holding (clip .valid)) s0) (.openClip 1 (127 :: le4 1 ++ [0])) .state = true ∧
      runs (exec (.openClip 1 (1 :: le4 32640 ++ [1])) (withStore one s0)) (fun t =>
        t.store.sectors[0] = some .reserved) = true ∧
      gives s (.openClip 1 (127 :: le4 8388481 ++ [0])) .badarg = true := by
  refine ⟨takes_of _ rfl rfl, ?_, by decide +kernel⟩
  intro i c h; have := forall_clip (st := ready) (f := fun _ => false) (by decide +kernel) i c h
  cases this

theorem wit_OpenFindsNoRoom (n : Nat) (hn : 0 < n) (k : Nat) :
    ¬({ ready with sectors := Vector.replicate 256 none } : Store).erasedRun k n := by
  intro h
  have := h.2 ⟨k, by have := h.1; omega⟩ (Nat.le_refl k) (by simp; omega)
  simp [look] at this

theorem wit_DataAndFiniWriteClip :
    let s (left : Nat) := withStore (writing left) s0
    let b (n : Nat) (st : BufState) := withStore
      { writing 1 with buffers := put ready.buffers 0 { state := st, data := List.replicate n 7 } } s0
    let f := withStore
      { writing 0 with buffers := put ready.buffers 0 { state := .filling, data := [7] } } s0
    ((s 1).takes ∧ (f).takes) ∧
      ((s 1).store.state ≠ .scanning ∧ (s 1).store.writing = some 127 ∧
        (look (s 1).store.buffers 0).state = .empty ∧
        (look (b 255 .filling).store.buffers 0).data.length = 255 ∧
        look (s 1).store.buffers 1 = { state := .empty, data := [] }) ∧
      gives s0 (.data 1 [0]) .busy = true ∧ gives (withStore ready s0) (.data 1 [0]) .notfound = true ∧
      gives (s 1) (.data 1 []) .length = true ∧ gives (s 1) (.data 1 [0, 0]) .length = true ∧
      gives (s 1) (.data 1 [0]) .ok = true ∧
      runs (exec (.data 1 [0]) (b 255 .filling)) (fun t => t.store.writing = some 127) = true ∧
      gives s0 (.fini 1 []) .busy = true ∧ gives (withStore ready s0) (.fini 1 []) .notfound = true ∧
      gives (s 1) (.fini 1 []) .state = true ∧ gives (s 0) (.fini 1 []) .ok = true ∧
      gives f (.fini 1 []) .ok = true := by
  refine ⟨⟨takes_of _ rfl rfl, takes_of _ rfl rfl⟩, ?_⟩
  repeat' apply And.intro
  all_goals decide +kernel

theorem wit_DataFillsEitherBuffer :
    let b (st : BufState) (n : Nat) : PageBuf := { state := st, data := List.replicate n 7 }
    let s (b0 b1 : PageBuf) : State := withStore { writing 300 with buffers := #v[b0, b1] } s0
    let after (b0 b1 : PageBuf) (bytes : List Byte) (x0 x1 : BufState × Nat) :=
      runs (exec (.data 1 bytes) (s b0 b1))
      fun t => (t.store.buffers.map fun x => (x.state, x.data.length)) = #v[x0, x1]
    (s (b .empty 0) (b .filling 255)).takes ∧ (writing 300).writing = some 127 ∧
      after (b .waiting 256) (b .filling 254) [1] (.waiting, 256) (.filling, 255) = true ∧
      after (b .waiting 256) (b .filling 255) [1] (.waiting, 256) (.waiting, 256) = true ∧
      after (b .waiting 256) (b .empty 0) [1] (.waiting, 256) (.filling, 1) = true ∧
      after (b .empty 0) (b .filling 255) [1, 2] (.filling, 1) (.waiting, 256) = true ∧
      after (b .empty 0) (b .waiting 256) [1] (.filling, 1) (.waiting, 256) = true := by
  refine ⟨takes_of _ rfl rfl, ?_⟩
  repeat' apply And.intro
  all_goals decide +kernel

/-- Buffers with no room for one byte more. -/
theorem wit_DataFindsBuffersFull :
    let s := withStore
      { writing 2 with
        buffers := #v[{ state := .filling, data := List.replicate 255 7 },
          { state := .waiting, data := List.replicate 256 7 }] } s0
    512 - (look s.store.buffers 0).data.length - (look s.store.buffers 1).data.length = 1 ∧
      gives s (.data 1 [0, 0]) .busy = true := by
  decide +kernel

theorem wit_DropRtirRstoChangeClip :
    let s (c : Clip) := withStore (holding c) s0
    ((s (clip .valid)).takes ∧ (s (clip .valid)).store.state ≠ .scanning) ∧
      ((s (clip .valid)).store.clip 127 = some (clip .valid) ∧ (clip .valid).sectors = 1) ∧
      gives (s (clip .valid)) (.drop 1 [127]) .state = true ∧
      gives (s { clip .writing with finishing := true }) (.drop 1 [127]) .state = true ∧
      runs (exec (.drop 1 [127]) (withStore (writing 1) s0)) (fun t =>
        t.store.clip 127 = none && t.store.sectors[255] = some .erased) = true ∧
      gives (s { clip .valid with prot := true }) (.rtir 1 [127]) .locked = true ∧
      gives (s (clip .erasing)) (.rtir 1 [127]) .state = true ∧
      runs (exec (.rtir 1 [127]) (s (clip .valid))) (fun t => t.store.eraseQueue = [255]) = true ∧
      runs (exec (.rtir 1 [127]) (s { clip .valid with refs := 1 })) (fun t =>
        t.store.eraseQueue.isEmpty && (t.store.clip 127).map Clip.state = some .retiring) = true ∧
      gives (s (clip .valid)) (.rsto 1 [127]) .state = true ∧
      gives (s (clip .writing)) (.rsto 1 [127]) .state = true ∧
      gives (s (clip .erasing)) (.rsto 1 [127]) .late = true ∧
      runs (exec (.rsto 1 [127]) (withStore { holding (clip .retiring) with eraseQueue := [255] } s0))
        (fun t => t.store.eraseQueue.isEmpty && t.store.sectors[255] = some .clip) = true :=
  ⟨⟨takes_of _ rfl rfl, by decide +kernel⟩, by decide +kernel⟩

theorem wit_DropRtirRstoRefuse :
    let names : List (List Byte → Instr) := [.drop 1, .rtir 1, .rsto 1]
    s0.takes ∧ (withStore ready s0).takes ∧
      (∀ f ∈ names, gives s0 (f [0]) .badarg = true ∧ gives s0 (f [128]) .badarg = true ∧
        gives s0 (f [127]) .busy = true ∧ gives (withStore ready s0) (f [1]) .notfound = true) :=
  ⟨takes_s0, takes_of _ rfl rfl, by decide +kernel⟩

theorem wit_ProtAndFrmtChangeStore :
    let s (c : Clip) := withStore (holding c) s0
    (s (clip .valid)).takes ∧
      (∀ i c, (s (clip .valid)).store.clip i = some c → c.state ≠ .writing ∧ c.refs = 0) ∧
      runs (exec (.prot 1 [127]) (s (clip .valid))) (fun t => (t.store.clip 127).any Clip.prot) = true ∧
      gives (s (clip .erasing)) (.prot 1 [127]) .state = true ∧
      gives s0 (.frmt 1 [0]) .busy = true ∧
      gives (s { clip .valid with refs := 1 }) (.frmt 1 [0]) .busy = true ∧
      gives (s { clip .valid with prot := true }) (.frmt 1 [0]) .locked = true ∧
      runs (exec (.frmt 1 [1]) (s { clip .valid with prot := true })) (fun t =>
        t.store.state = .formatting && t.store.clip 127 = none) = true ∧
      runs (exec (.frmt 1 [0]) (withStore ready s0)) (fun t =>
        t.store.state = .ready && t.router.notices.length = 2) = true := by
  refine ⟨takes_of _ rfl rfl, ?_, ?_⟩
  · intro i c h
    have := forall_clip (st := holding (clip .valid)) (f := fun c => c.state ≠ .writing && c.refs = 0)
      (by decide +kernel) i c h
    simpa using this
  · repeat' apply And.intro
    all_goals decide +kernel

/-! ## The flash -/

/-- A program of the last two bytes of the flash, after some frames. -/
def prog (x : Program) (run : Nat) : RunningProgram :=
  { prog := x, addr := 16777214, bytes := [0x0F, 0x00], run := run, dropped := false }

def running (c : Clip) (p : RunningProgram) : State := withStore { holding c with op := .program p } s0

theorem wit_ProgramsBeginAndComplete :
    let w := clip .writing
    Memory.wf s0.flash = true ∧
      (∀ x, s0.store.op ≠ .program x) ∧ (prog (.header 127) 0).addr + 2 ≤ 16777216 ∧
      (running w (prog (.data 127 0 0) 0)).store.clip 127 = some w ∧
      runs (exec .pageProgramComplete (running w (prog (.data 127 0 1) 0))) (fun t =>
        t.flash = [(16777214, 0x0F), (16777215, 0)] && (look t.store.buffers 1).state = .empty) = true ∧
      runs (exec .pageProgramComplete (running w (prog (.protect 127 255) 0))) (fun t =>
        t.flash.length = 2) = true ∧
      runs (exec .pageProgramComplete (running w (prog (.zero 255) 0))) (fun t => t.flash.length = 2) =
        true ∧
      runs (exec .headerProgramComplete (running w (prog (.header 127) 0))) (fun t =>
        (t.store.clip 127).map Clip.state = some .valid && t.router.notices.length = 2) = true ∧
      runs (exec .pageProgramComplete (running w (prog (.header 127) 0))) (fun t => t.flash.isEmpty) =
        true := by
  refine ⟨by decide, ?_, by decide, by decide +kernel⟩
  intro x h; cases h

theorem wit_ProgramTimeoutFails :
    let w := clip .writing
    ((running w (prog (.header 127) 40)).store.op = .program (prog (.header 127) 40) ∧
      (prog (.header 127) 40).addr / 65536 = (255 : SectorIx).val ∧
      (running w (prog (.header 127) 40)).store.state ≠ .formatting ∧
      (running w (prog (.header 127) 40)).store.clip 127 ≠ none) ∧
      runs (exec .programTimeout (running w (prog (.header 127) 39))) (fun t =>
        (t.store.clip 127).isSome) = true ∧
      runs (exec .programTimeout (running w (prog (.data 127 0 0) 40))) (fun t =>
        t.store.clip 127 = none && t.store.sectors[255] = some .bad && t.router.notices.length = 2) =
          true ∧
      runs (exec .programTimeout (running w (prog (.protect 127 255) 40))) (fun t =>
        (t.store.clip 127).isSome && t.router.notices.length = 2) = true ∧
      runs (exec .programTimeout (running w (prog (.zero 255) 40))) (fun t =>
        t.router.notices.length = 1) = true := by
  decide +kernel

/-- The erase of the last sector, in a phase, after some frames. -/
def erasing (st : Store) (phase : ErasePhase) (run : Nat) : State :=
  withStore
    { st with erase := some { sector := 255, phase := phase, run := run, since := run, suspends := 0 } } s0

theorem wit_EraseEndsSector :
    let own (n : Nat) := holding { clip .erasing with eraseLeft := n }
    let form : Store := { ready with state := .formatting }
    let f (x : State) : State := { x with flash := [(16711679, 1), (16711680, 2)] }
    (s0.store.erase = none ∧ ready.eraseOwner 255 = none ∧ (own 1).eraseOwner 255 = some 127 ∧
      Memory.wf (f s0).flash = true ∧ form.eraseQueue = []) ∧
      runs (exec .eraseComplete (f (erasing ready .suspended 24000))) (fun t => t.flash.length = 2) =
        true ∧
      runs (exec .eraseTimeout (f (erasing ready .suspended 24000))) (fun t => t.store.erase.isSome) =
        true ∧
      runs (exec .eraseTimeout (erasing ready .running 23999)) (fun t => t.store.erase.isSome) = true ∧
      runs (exec .eraseComplete (f (erasing ready .running 0))) (fun t =>
        t.flash = [(16711679, 1)] && t.store.erase = none) = true ∧
      runs (exec .eraseComplete (erasing form .suspending 0)) (fun t =>
        t.store.state = .ready && t.router.notices.length = 2) = true ∧
      runs (exec .eraseComplete (erasing (own 1) .running 0)) (fun t =>
        t.store.clip 127 = none && t.router.notices.length = 2) = true ∧
      runs (exec .eraseTimeout (erasing ready .running 24000)) (fun t =>
        t.store.sectors[255] = some .bad && t.router.notices.length = 2) = true ∧
      runs (exec .eraseTimeout (erasing (own 2) .running 24000)) (fun t =>
        (t.store.clip 127).map Clip.goneBad = some 1) = true := by
  decide +kernel

/-- A zeroing of page 0 that fails, and the failed erase of the last sector of a clip whose 255 others
failed. -/
theorem wit_FailuresLeaveTheirMark :
    let zero : RunningProgram :=
      { prog := .zero 255, addr := 16711680, bytes := List.replicate 256 0, run := 40, dropped := false }
    zero.addr = 65536 * (255 : SectorIx).val ∧
      runs (exec .programTimeout (running (clip .valid) (prog (.protect 127 255) 40))) (fun t =>
        t.flash.isEmpty && t.router.notices.length = 2) = true ∧
      runs (exec .eraseTimeout
        (erasing (holding { clip .erasing with eraseLeft := 1, goneBad := 255 }) .running 24000)) (fun t =>
          t.store.clip 127 = none &&
            t.router.notices.getLast?.map Notice.detail = some (detail1 255)) = true := by
  decide +kernel

theorem wit_ArbiterAndEraseTimersAct :
    let r : Refill := { cursor := 0, clip := 127, seg := 0, first := 0, count := 1 }
    let wait (st : Store) : Store := { st with refills := [r] }
    let quiet (n : Nat) := withStore { ready with quiet := some n, eraseQueue := [255] } s0
    runs (exec .quietWindowExpiry (quiet 0)) (fun t => t.store.erase.isSome && t.store.quiet = none) = true ∧
      runs (exec .quietWindowExpiry (quiet 1)) (fun t => t.store.quiet = some 1) = true ∧
      s0.store.refills = [] ∧ (wait ready).refills ≠ [] ∧
      runs (exec .resumeHoldExpiry (erasing (wait ready) .running 31)) (fun t =>
        t.store.erase.map EraseOp.phase = some .running) = true ∧
      runs (exec .resumeHoldExpiry (erasing (wait ready) .running 32)) (fun t =>
        t.store.erase.map EraseOp.phase = some .suspending) = true ∧
      s0.store.erase = none ∧
      runs (exec .eraseSuspendEffect (erasing ready .suspending 0)) (fun t =>
        t.store.erase.map EraseOp.suspends = some 1) = true := by
  decide +kernel

/-- What the arbiter begins: a refill before all, the suspended erase, each kind of program, the erase of the
head of an open run; and nothing while it is busy, scanning, or no run is open. -/
theorem wit_ArbiterBegins :
    let r : Refill := { cursor := 0, clip := 127, seg := 0, first := 0, count := 1 }
    let e : EraseOp := { sector := 255, phase := .suspended, run := 7, since := 7, suspends := 1 }
    let all : Store :=
      { holding (clip .retiring) with
        refills := [r], erase := some e, programs := [.zero 255], eraseQueue := [255, 254], runOpen := true }
    let run (x : Program) (st : Store) := match ({ st with programs := [x] }.kick).op with
      | .program p => decide (p.prog = x) && decide (p.bytes.length ≤ 256) && decide (p.run = 0)
      | _ => false
    let addr (x : Program) := match ({ holding (clip .writing) with programs := [x] }.kick).op with
      | .program p => p.addr
      | _ => 0
    all.kick.op = .read r false ∧
      { all with refills := [] }.kick.erase = some { e with phase := .running, since := 0 } ∧
      { all with refills := [], erase := none }.kick.programs = [] ∧
      { all with refills := [], erase := none, programs := [] }.kick.eraseQueue = [254] ∧
      ({ all with refills := [], erase := none, programs := [] }.kick.clip 127).map Clip.state =
        some .erasing ∧
      { all with refills := [], erase := none, programs := [], runOpen := false }.kick.erase = none ∧
      { all with state := .scanning }.kick.op = .none ∧
      { all with state := .scanning }.kick.erase = some e ∧
      { all with erase := some { e with phase := .suspending } }.kick.op = .none ∧
      (run (.data 127 0 1) (holding (clip .writing)) && run (.header 127) (holding (clip .writing)) &&
        run (.protect 127 255) (holding (clip .valid)) && run (.zero 255) ready) = true ∧
      [addr (.data 127 254 1), addr (.header 127), addr (.protect 127 255), addr (.zero 255)] =
        [16776960, 16711680, 16711685, 16711680] ∧
      runs (exec .quietWindowExpiry (withStore { all with refills := [], quiet := some 0 } s0)) (fun t =>
        t.store.erase = some { e with phase := .running, since := 0 }) = true := by
  repeat' apply And.intro
  all_goals decide +kernel

/-- What a reset cuts short: an erase, a header program where no header stood, a zeroing of page 0; and the same
programs failing. -/
theorem wit_CutShortLeavesNoHeader :
    let c : Clip := { clip .writing with finishing := true }
    let p (x : Program) (bytes : List Byte) : RunningProgram :=
      { prog := x, addr := 16711680, bytes := bytes, run := 40, dropped := false }
    let header := p (.header 127) (headerBytes 127 c)
    let zero := p (.zero 255) (List.replicate 256 0)
    let cut (x : RunningProgram) := running c x
    let erase : State :=
      { erasing ready .running 24000 with flash := flashProgram [] 16711680 (headerBytes 127 c) }
    (headerReads erase.flash 255 = true ∧ Memory.wf erase.flash = true ∧ headerReads [] 255 = false ∧
      header.addr / 65536 = (255 : SectorIx).val ∧ zero.addr = 65536 * (255 : SectorIx).val ∧
      (cut header).store.op = .program header ∧ (cut zero).store.op = .program zero) ∧
      runs (exec .powerOn s0) (fun t => t.flash.isEmpty) = true ∧
      runs (exec .powerOn erase) (fun t => t.store.state = .scanning) = true ∧
      runs (exec .pinReset (cut header)) (fun t => t.store.state = .scanning) = true ∧
      runs (exec .programTimeout (cut header)) (fun t => t.store.sectors[255] = some .bad) = true ∧
      runs (exec .programTimeout (cut zero)) (fun t => t.router.notices.length = 1) = true ∧
      runs (exec .eraseTimeout erase) (fun t => t.store.sectors[255] = some .bad) = true := by
  repeat' apply And.intro
  all_goals decide +kernel

/-- A scan at a place, of a flash that holds one clip in sector 0 and one byte in sector 255. -/
def scanning (x : Scan) (sectors : Vector (Option SectorState) 256) : State :=
  { withStore { Store.scanStart with scan := x, sectors := sectors } s0 with
    flash := (flashProgram [] 0 (headerBytes 127 { clip .valid with first := 0 })) ++ [(16777215, 0)] }

theorem wit_StartUpScanFindsClips :
    let none_ : Vector (Option SectorState) 256 := Vector.replicate 256 none
    let done : Vector (Option SectorState) 256 := Vector.replicate 256 (some .erased)
    Memory.wf (scanning .awaitDevice none_).flash = true ∧
      runs (exec .flashDeviceReady s0) (fun t => t.store.scan = .readPage 0) = true ∧
      runs (exec .scanReadComplete (scanning (.readPage 0) none_)) (fun t =>
        (t.store.clip 127).isSome && t.store.scan = .readPage 1) = true ∧
      runs (exec .scanReadComplete (scanning (.readPage 254) none_)) (fun t =>
        t.store.scan = .readPage 255) = true ∧
      runs (exec .scanReadComplete (scanning (.readPage 255) none_)) (fun t =>
        t.store.scan = .blankCheck 0) = true ∧
      runs (exec .blankCheckComplete (scanning (.blankCheck 254) none_)) (fun t =>
        t.store.sectors[254] = some .erased && t.store.scan = .blankCheck 255) = true ∧
      runs (exec .blankCheckComplete (scanning (.blankCheck 255) (put done 255 none))) (fun t =>
        t.store.eraseQueue = [255] && t.store.state = .ready && t.router.notices.length = 2) = true ∧
      runs (exec .scanReadComplete (scanning (.blankCheck 0) none_)) (fun t =>
        t.store.scan = .blankCheck 0) = true := by
  decide +kernel

/-! ## Events -/

theorem wit_RoutNmodNfetServeRecords :
    let push : State := { s0 with router := { s0.router with mode := .push } }
    (s0.takes ∧ push.takes) ∧
      gives s0 (.rout 1 (EventKind.linkFault.tag ++ [0, 0xFF, 0xFF, 0xFF])) .ok = true ∧
      gives s0 (.rout 1 (EventKind.linkFault.tag ++ [1, 1, 31, 1])) .badarg = true ∧
      runs (exec (.rout 1 (EventKind.muteOn.tag ++ [1, 0, 31, 2])) s0) (fun t =>
        (t.router.route .muteOn).cue = some (31, .routine)) = true ∧
      gives s0 (.rout 1 (EventKind.started.tag ++ [1, 0, 0xFF, 0])) .ok = true ∧
      runs (exec (.nmod 1 [1]) s0) (fun t => t.router.mode = .push) = true ∧
      gives s0 (.nfet 1 [0]) .badarg = true ∧ gives s0 (.nfet 1 [9]) .badarg = true ∧
      gives push (.nfet 1 [8]) .state = true ∧
      runs (exec (.nfet 1 [8]) s0) (fun t => t.router.notices.isEmpty) = true ∧
      runs (exec (.nfet 1 [1]) s0) (fun t => t.router.notices.isEmpty) = true :=
  ⟨⟨takes_s0, takes_of _ rfl rfl⟩, by decide +kernel⟩

/-- The one route of a table: NOISE_HIGH, PARK_ALARM or COACH_ENDED to cue list 31 at ROUTINE. -/
def routing (k : EventKind) (s : State) : State :=
  { s with router := { s.router with
      routes := put s.router.routes k.index { notify := true, cue := some (31, .routine) } } }

theorem onlyRoute_routing (k : EventKind) (s : State)
    (h : s.router.routes = Vector.replicate 24 { notify := true, cue := none }) :
    (routing k s).onlyRoute k 31 .routine := by
  dsimp only [State.onlyRoute, routing]
  rw [h]; cases k <;> decide +kernel

/-- The routes of MUTE_ON, by PMUT, and of NOISE_HIGH, by the block end that completes the 2,000 ms. -/
theorem wit_MuteAndBlockEndPost :
    let c : Suppressor :=
      { Suppressor.reset with
        gather := List.replicate 64 0, learned := 500, speech := true, level := 0
        floor := -34, threshold := -35, highTimer := 1992 }
    let s (k : EventKind) := routing k (withCue 31 [.silence 10] (withSup 47 c (withPos 47 idlePos s0)))
    let d := (c.decideSpeech (c.gather.take 64)).learn (bandLevels (c.gather.take 64))
    let posts (o : Host.Outcome State Fault Refusal) := runs o fun t =>
      (look t.whisper 47).playing =
          .prompt { entry .routine false with origin := .route, resume := .restart } &&
        t.router.notices.length = 2
    (s .muteOn).takes ∧ (500 ≤ d.learned ∧ c.threshold < d.floor) ∧
      ((look (s .muteOn).pos 47).muted = false ∧ { idlePos with hostMute := true }.muted = true) ∧
      posts (exec (.pmut 1 [47, 1]) (s .muteOn)) = true ∧
      posts (exec (.analysisBlockEnd 47) (s .noiseHigh)) = true := by
  refine ⟨takes_of _ rfl rfl, ?_⟩
  repeat' apply And.intro
  all_goals decide +kernel

/-- A route met at an IDLE position, in LOOPBACK, with an empty list, with a full queue and behind the coach; at
a parked leg with an owner and without; and of a coach that leaves. -/
theorem wit_RoutesPost :
    let high (x : Position) (w : Whisper) (items : List Item) := routing .noiseHigh (withCue 31 items
      (withPos 47 x (withWhisper 47 w (withSup 47 { Suppressor.reset with highTimer := 2000 } s0))))
    let coach (n : Nat) : Whisper :=
      { queue := List.replicate n (entry .routine false), playing := .coach, stack := [] }
    let after (s : State) (notices queued : Nat) := runs (exec (.highTimerExpiry 47) s) fun t =>
      t.router.notices.length = notices && (look t.whisper 47).queue.length = queued
    let parked (owner : Option PosIx) : State := routing .parkAlarm
      { withLeg 63 { parkLeg with owner := owner } (withGroup 7 { Group.reset with alarm := 5 } s0) with
        router := { s0.router with stamp := 5000 } }
    let p : List Item := [.silence 10]
    (routing .coachEnded (paired false idlePos)).takes ∧
      ((look (parked none).legs 63).bound = none ∧ (parked none).postings = []) ∧
      after (high idlePos .reset p) 2 0 = true ∧
      after (high { idlePos with state := .loopback } .reset p) 3 0 = true ∧
      after (high idlePos .reset []) 3 0 = true ∧ after (high idlePos (coach 8) p) 3 8 = true ∧
      after (high idlePos (coach 7) p) 2 8 = true ∧
      runs (exec (.parkAlarmExpiry 63) (parked none)) (fun t => t.router.notices.length = 2) = true ∧
      runs (exec (.parkAlarmExpiry 63) (parked (some 47))) (fun t => t.router.notices.length = 3) = true ∧
      runs (exec (.cdet 1 [46]) (routing .coachEnded (paired false idlePos))) (fun t =>
        t.router.notices.length = 3) = true := by
  refine ⟨takes_of _ rfl rfl, ?_⟩
  repeat' apply And.intro
  all_goals decide +kernel

theorem wit_NclrEmptiesQueue :
    s0.takes ∧ runs (exec (.nclr 1 []) s0) (fun t => t.router.notices.isEmpty) = true :=
  ⟨takes_s0, by decide +kernel⟩

/-! ## Invariants -/

theorem clip_of_holding {c d : Clip} {id : ClipIx} (h : (holding c).clip id = some d) : id = 127 ∧ d = c := by
  by_cases hi : (127 : ClipIx).val = id.val
  · refine ⟨Fin.ext hi.symm, ?_⟩
    have := Option.some.inj ((Vector.getElem_set_self (xs := ready.dir) (x := some c) (i := 127) (by decide)).symm.trans
      (by simpa [Store.clip, look, put, holding, ← hi] using h))
    exact this.symm
  · have := Vector.getElem_set_ne (xs := ready.dir) (x := some c) (i := 127) (j := id.val) (by decide) id.isLt hi
    have h0 : (ready.dir)[id.val] = none := by simp [ready, Store.scanStart]
    simp [Store.clip, look, put, holding, this, h0] at h

/-- The playing store of wit_invariants is consistent beside whatever counts its one reference. -/
theorem consistent_of_playing (s : State) (hs : s.store = holding { clip .valid with refs := 1 })
    (hr : s.refsCounted) : s.storeConsistent := by
  unfold State.storeConsistent
  rw [hs]
  refine ⟨hr, ?_, ⟨?_, ?_⟩, ⟨?_, ?_⟩, ⟨?_, ?_, ?_⟩, ⟨?_, ?_, ?_, ?_, ?_⟩, ?_⟩
  · unfold Store.queueSound; decide +kernel
  · intro id c h; obtain ⟨rfl, rfl⟩ := clip_of_holding h
    refine ⟨by decide, by decide, ?_⟩
    show ∀ k ∈ _, _
    decide +kernel
  · intro i j a b hij ha hb
    exact absurd ((clip_of_holding ha).1.trans (clip_of_holding hb).1.symm) hij
  · decide +kernel
  · intro id c h hw; rw [(clip_of_holding h).2] at hw; cases hw
  · intro id k b h; cases h
  · intro id h; cases h
  · intro p h; cases h
  · intro h; cases h rfl
  · intro h; cases h
  · intro h; cases h
  · intro x h; cases h
  · intro x h; cases h
  · intro e h; cases h

/-- A restart of a READY store with a clip playing; the sector of a clip left RETIRING, and the clip written. -/
theorem wit_RestartKeepsStore :
    let l : Link :=
      { Link.reset 3000000 with
        tx := some (.reply []), requests := [asked (ascii4 'R' 'S' 'T' 'R') []] }
    let s := withCursor 55 playing (withLink l (withStore (holding { clip .valid with refs := 1 }) s0))
    let old := (holding { clip .retiring with refs := 2 }).dropAllRefs.queueRetiring 255
    let cut := { holding (clip .writing) with sectors := put ready.sectors 255 (some .reserved) }.dropWriting
    (s.link.restarting = true ∧ s.store.state ≠ .scanning ∧ s.storeConsistent) ∧
      (old.eraseQueue = [255] ∧ old.quiet = some 1600 ∧ (old.clip 127).map Clip.refs = some 0 ∧
        old.sectors[255] = some .queued) ∧
      (cut.clip 127).isNone = true ∧ cut.sectors[255] = some .erased ∧ cut.eraseQueue = [] := by
  refine ⟨⟨by decide, by decide +kernel, consistent_of_playing _ rfl ?_⟩, ?_⟩
  · unfold Media.refsCounted; decide +kernel
  decide +kernel

/-- A state that meets every invariant, with a clip that a cursor plays, a parked leg and a prompt over the
coach; and a step from it that answers a next state. -/
theorem wit_invariants :
    let s : State :=
      { withStore (holding { clip .valid with refs := 1 }) <| withCursor 55 playing <|
          withLeg 63 parkLeg <| withGroup 7 { Group.reset with members := [63] } <| withWhisper 47
            { queue := [entry .urgent false], playing := .coach
              stack := [entry .urgent false, entry .routine false] } s0 with
        pending := [.nclr 1 []] }
    (Memory.wf s.flash = true ∧ s.postings = [] ∧ s.link.requests.length ≤ 4 ∧
      s.router.notices.length ≤ 64 ∧ s.pool.legHeld ≤ s.pool.legLimit) ∧ s.bindingsConsistent ∧
      s.membersConsistent ∧ (∀ p, (look s.whisper p).sound) ∧ s.storeConsistent ∧
      runs (step s) (fun t => t.router.notices.isEmpty && t.pending.isEmpty) = true := by
  refine ⟨by decide +kernel, ?_, ?_, ?_, consistent_of_playing _ rfl ?_, by decide +kernel⟩
  · unfold Units.bindingsConsistent; decide +kernel
  · unfold Units.membersConsistent; decide +kernel
  · intro p
    by_cases hp : p = 47
    · subst hp; exact ⟨by decide, by decide, .inr (.inr ⟨_, _, rfl, rfl, rfl, rfl⟩)⟩
    · have : ∀ q : PosIx, q ≠ 47 → look (withWhisper 47
          { queue := [entry .urgent false], playing := .coach
            stack := [entry .urgent false, entry .routine false] } s0).whisper q = Whisper.reset := by
        decide +kernel
      exact (this p hp) ▸ ⟨by decide, fun _ => ⟨rfl, rfl⟩, .inl rfl⟩
  · unfold Media.refsCounted; decide +kernel

end Sys2Proof.Tests
end

section
/-! PROOFS. The reset state is sound (O5); the requests of a position that raise nothing: PCFG, PQRY and PLPB
(O20, O21, O23). -/

namespace Sys2Proof.Machine

/-! ## Reset -/

theorem reset_refsCounted : State.reset.refsCounted :=
  ⟨fun id => by simp [State.reset, Units.reset, Media.reset, Store.scanStart, Store.clip, Cursor.reset],
    fun c _ => by simp [State.reset, Units.reset, Media.reset, Cursor.reset]⟩

theorem scanStart_clip (id : ClipIx) : Store.scanStart.clip id = none := by
  simp [Store.scanStart, Store.clip]

theorem scanStart_sectors (k : SectorIx) : look Store.scanStart.sectors k = none := by
  simp [Store.scanStart]

theorem scanStart_queueSound : Store.scanStart.queueSound :=
  ⟨List.nodup_nil, fun k => by simp [scanStart_sectors, show Store.scanStart.eraseQueue = [] from rfl],
    nofun⟩

theorem scanStart_directorySound : Store.scanStart.directorySound :=
  ⟨fun id c h => by simp [scanStart_clip] at h, fun i j a b _ h => by simp [scanStart_clip] at h⟩

theorem scanStart_buffersSound : Store.scanStart.buffersSound :=
  ⟨fun b => by simp [Store.scanStart, PageBuf.empty], fun id c h => by simp [scanStart_clip] at h⟩

theorem scanStart_programsSound : Store.scanStart.programsSound :=
  ⟨nofun, nofun, nofun⟩

theorem scanStart_scanSound : Store.scanStart.scanSound :=
  ⟨fun _ => rfl, fun _ => ⟨rfl, rfl, rfl, fun id c h => by simp [scanStart_clip] at h⟩,
    fun _ => scanStart_sectors, nofun, nofun⟩

theorem reset_storeConsistent : State.reset.storeConsistent :=
  ⟨reset_refsCounted, scanStart_queueSound, scanStart_directorySound, scanStart_buffersSound,
    scanStart_programsSound, scanStart_scanSound, nofun⟩

theorem reset_bindingsConsistent : State.reset.bindingsConsistent := by
  simp [Units.bindingsConsistent, State.reset, Units.reset, Leg.reset, Position.reset]

theorem reset_membersConsistent : State.reset.membersConsistent := by
  simp [Units.membersConsistent, State.reset, Units.reset, Leg.reset, Group.reset]

theorem whisper_reset_sound : Whisper.reset.sound :=
  ⟨by simp [Whisper.reset], fun _ => ⟨rfl, rfl⟩, .inl rfl⟩

theorem pool_reset_withinLimit : Pool.reset.withinLimit := by
  have h : Pool.reset.legHeld = 0 := by
    rw [Pool.legHeld, Pool.reset, Vector.toList_replicate, List.countP_replicate]
    rfl
  rw [Pool.withinLimit, h]
  exact Nat.zero_le _

/-- Settles O5: each block's invariant at its reset values. -/
theorem resetStateIsSound : Obligations.ResetStateIsSound :=
  ⟨reset_bindingsConsistent, reset_membersConsistent,
    fun p => by
      rw [show State.reset.whisper = Vector.replicate 48 Whisper.reset from rfl, look_replicate]
      exact whisper_reset_sound,
    reset_storeConsistent,
    by simp [Router.bounded, State.reset, Units.reset, Media.reset, Router.reset, noticeLimit],
    pool_reset_withinLimit,
    by simp [Link.bounded, State.reset, Link.reset],
    rfl, rfl⟩

/-! ## Requests of a position that raise nothing -/


theorem configure_eq (c : Suppressor) (level : Nat) (threshold : Int) :
    c.configure level threshold =
      { c with
        level := level, threshold := threshold
        highTimer := if threshold = c.threshold then c.highTimer else 0
        lowTimer := if threshold = c.threshold then c.lowTimer else 0 } := by
  unfold Suppressor.configure
  split <;> simp_all

/-- What PCFG's owner does with a payload that spells values in their ranges. -/
theorem ownPcfg_eq (s : State) (p : PosIx) (role : Role) (floors : Byte) (g : GroupIx) (nesting : Bool)
    {gain threshold : Int} {duck level : Nat} (hg : -24 ≤ gain) (hg' : gain ≤ 12) (ht : -60 ≤ threshold)
    (ht' : threshold ≤ -20) (hd : duck ≤ 30) (hl : level ≤ 3) :
    ownPcfg [byte p, role.code, floors, byte g, flagByte nesting, sbyte gain, byte duck, byte level,
        sbyte threshold] s =
      if role = (look s.pos p).role ∨ (((look s.pos p).state = .absent ∨ (look s.pos p).state = .idle) ∧
          (look s.pos p).coach = none) then
        ({ s with
          pos := upd s.pos p fun x =>
            { x with
              role := role, floors := floors, defaultGroup := g, nesting := nesting, gain := gain,
              coachDuck := duck }
          sup := upd s.sup p fun c =>
            { c with
              level := level, threshold := threshold
              highTimer := if threshold = c.threshold then c.highTimer else 0
              lowTimer := if threshold = c.threshold then c.lowTimer else 0 } }, .ok [])
      else (s, .refuse .state) := by
  have hgain : (sbyte gain).toInt = gain := toInt_sbyte (by omega) (by omega)
  have hthr : (sbyte threshold).toInt = threshold := toInt_sbyte (by omega) (by omega)
  have hduck : (byte duck).toInt = duck := toInt_byte (by omega)
  have hlevel : (byte level).toNat = level := toNat_byte (by omega)
  have hd' : (duck : Int) ≤ 30 := by omega
  simp only [ownPcfg, readPos_byte, readRole_code, readGroup_byte, readFlag_flagByte, readSigned, readRange,
    hgain, hthr, hduck, hlevel, hg, hg', ht, ht', hd', hl, Int.natCast_nonneg, Nat.zero_le, and_self, if_true,
    Int.toNat_natCast, configure_eq]
  by_cases h : role = (look s.pos p).role ∨
    ((look s.pos p).state = .absent ∨ (look s.pos p).state = .idle) ∧ (look s.pos p).coach = none
  · rw [if_pos h, if_neg (by tauto)]; rfl
  · rw [if_neg h, if_pos (by tauto)]

/-- Settles O20: what the PCFG owner answers, through the request rule. -/
theorem pcfgStoresSettings : Obligations.PcfgStoresSettings := by
  intro s tag p role floors g nesting gain threshold duck level hs hg hg' ht ht' hd hl
  refine ⟨_, rfl, congrArg Host.Outcome.next ?_⟩
  have own := fun s => ownPcfg_eq s p role floors g nesting hg hg' ht ht' hd hl
  split
  next h => exact request_replied hs (by simp) (by rfl) ((own _).trans (if_pos h)) rfl hs.2
  next h => exact request_replied hs (by simp) (by rfl) ((own _).trans (if_neg h)) rfl hs.2

theorem ownPqry_eq (s : State) (p : PosIx) :
    ownPqry [byte p] s =
      ({ s with pos := upd s.pos p fun x => { x with presentChanged := false, muteChanged := false } },
        .ok (s.pqryBytes p)) := by
  rw [ownPqry, readPos_byte]; rfl

theorem pqryBytes_eq (s : State) (p : PosIx) :
    s.pqryBytes p =
      [(look s.pos p).role.code, (look s.pos p).state.code, flagByte (look s.pos p).present,
          flagByte (look s.pos p).linkValid, flagByte (look s.pos p).keyHeld,
          flagByte (look s.pos p).hostMute,
          flagByte ((look s.pos p).present && ((look s.pos p).keyHeld || (look s.pos p).hostMute)),
          flagByte (look s.pos p).presentChanged, flagByte (look s.pos p).muteChanged,
          (look s.pos p).floors, byte (look s.pos p).defaultGroup, flagByte (look s.pos p).nesting,
          sbyte (look s.pos p).gain, byte (look s.pos p).coachDuck, byte (look s.sup p).level,
          sbyte (look s.sup p).threshold, ixByte (look s.pos p).bound] ++
        ((look s.pos p).coach.elim [0xFF, 0xFF, 0]
          fun l => [byte l.partner, l.side.code, flagByte l.active]) := by
  unfold State.pqryBytes
  dsimp only
  cases (look s.pos p).coach <;> rfl

/-- Settles O21: the reply's bytes in the order of Table 12-3, through the request rule. -/
theorem pqryReportsAndClearsDeltas : Obligations.PqryReportsAndClearsDeltas := by
  intro s tag p hs
  rw [← pqryBytes_eq]
  exact congrArg Host.Outcome.next
    (request_replied hs (by simp) (by rfl) (ownPqry_eq _ p) rfl hs.2)

theorem noEntry_iff (w : Whisper) :
    w.noEntry = true ↔ w.queue = [] ∧ w.stack = [] ∧ (w.playing = .none ∨ w.playing = .coach) := by
  cases h : w.playing <;> simp [Whisper.noEntry, Playing.isPrompt, h]

/-- An owner that acts on `Units`, by what it answers there. -/
theorem onUnits_eq {own : List Byte → Units → Units × Reply} {payload : List Byte} {s : State} {u : Units}
    {rep : Reply} (h : own payload s.toUnits = (u, rep)) :
    onUnits own payload s = ({ s with toUnits := u }, rep) := by
  rw [onUnits, h]

theorem ownPlpb_on (u : Units) (p : PosIx) :
    ownPlpb [byte p, 1] u =
      if (look u.pos p).state = .idle ∧ (look u.whisper p).queue = [] ∧ (look u.whisper p).stack = [] ∧
          ((look u.whisper p).playing = .none ∨ (look u.whisper p).playing = .coach) then
        (u.onPos p fun x => { x with state := .loopback }, .ok [])
      else (u, .refuse .state) := by
  rw [ownPlpb, readPos_byte]
  simp only [← noEntry_iff]
  rfl

theorem ownPlpb_off (u : Units) (p : PosIx) :
    ownPlpb [byte p, 0] u =
      if (look u.pos p).state = .loopback then (u.onPos p fun x => { x with state := .idle }, .ok [])
      else (u, .refuse .state) := by
  rw [ownPlpb, readPos_byte]; rfl

/-- Settles O23: PLPB on and off, each accepted or refused by its owner's condition. -/
theorem plpbMovesLoopback : Obligations.PlpbMovesLoopback := by
  intro s tag p hs
  have replied {flag rep u} (h : ownPlpb [byte p, flag] s.toUnits = (u, rep)) (hu : u.postings = []) :
      s.request (onUnits ownPlpb) (ascii4 'P' 'L' 'P' 'B') tag [byte p, flag] =
        { s with toUnits := u }.replied tag (ascii4 'P' 'L' 'P' 'B') [byte p, flag] rep :=
    request_replied hs (by simp) (by rfl) (onUnits_eq h) rfl hu
  refine ⟨congrArg Host.Outcome.next ?_, congrArg Host.Outcome.next ?_⟩ <;> split
  next h => exact replied ((ownPlpb_on ..).trans (if_pos h)) hs.2
  next h => exact replied ((ownPlpb_on ..).trans (if_neg h)) hs.2
  next h => exact replied ((ownPlpb_off ..).trans (if_pos h)) hs.2
  next h => exact replied ((ownPlpb_off ..).trans (if_neg h)) hs.2

end Sys2Proof.Machine
end

section
/-! PROOFS. Effective mute and presence: PMUT (O22), what a status subframe sets (O24) and a headset arrival
(O25). -/

namespace Sys2Proof.Machine

/-! ## Effective mute: its events, its delta, and comfort noise -/

theorem put_upd {α : Type} {n : Nat} (v : Vector α n) (i : Fin n) (f : α → α) (x : α) :
    put (upd v i f) i x = put v i x := put_put ..

theorem upd_put {α : Type} {n : Nat} (v : Vector α n) (i : Fin n) (f : α → α) (x : α) :
    upd (put v i x) i f = put v i (f x) := by rw [upd, put_put, look_put_self]

/-- The event that a position's effective mute, once changed, raises (R6). -/
def Position.muteKind (x : Position) : EventKind := if x.muted then .muteOn else .muteOff

/-- Its detail (Table 12-5). -/
def Position.muteDetail (x : Position) : BitVec 16 := detail2 (flagByte x.keyHeld) (flagByte x.hostMute)

/-- A position event raised with its delta set: the delta stays set unless the record enters (R6, R168). -/
theorem raisePos_onPos (u : Units) (k : EventKind) (p : PosIx) (d : BitVec 16) (f g : Position → Position) :
    (u.onPos p f).raisePos k p d g =
      { u.raise k (.position p) d (some p) with
        pos := upd u.pos p fun x => if u.router.enters k then g (f x) else f x } := by
  unfold Units.raisePos
  dsimp only
  by_cases h : u.router.enters k
  · simp [Units.onPos, h, Units.raise, Units.onMedia]
  · simp [Units.onPos, h, Units.raise, Units.onMedia]

theorem muteChange_of_eq {u : Units} {p : PosIx} {was : Bool} (h : (look u.pos p).muted = was) :
    u.muteChange p was = u := by
  unfold Units.muteChange
  exact if_pos h

theorem muteChange_of_ne {u : Units} {p : PosIx} {was : Bool} (h : (look u.pos p).muted ≠ was) :
    u.muteChange p was =
      { u.raise (look u.pos p).muteKind (.position p) (look u.pos p).muteDetail (some p) with
        pos := upd u.pos p fun x => { x with muteChanged := !u.router.enters x.muteKind } } := by
  have hs : u.muteChange p was =
      (u.onPos p fun x => { x with muteChanged := true }).raisePos (look u.pos p).muteKind p
        (look u.pos p).muteDetail fun x => { x with muteChanged := false } := by
    unfold Units.muteChange
    exact if_neg h
  rw [hs, raisePos_onPos]
  simp only [upd]
  cases u.router.enters (look u.pos p).muteKind <;> rfl

/-- A change of effective mute is its delta, its record, and what its cue route posts. -/
theorem muteChange_eq (u : Units) (p : PosIx) (was : Bool) :
    u.muteChange p was =
      { u with
        pos := upd u.pos p fun x =>
          { x with muteChanged := if x.muted = was then x.muteChanged else !u.router.enters x.muteKind }
        router :=
          if (look u.pos p).muted = was then u.router
          else u.router.record (look u.pos p).muteKind (.position p) (look u.pos p).muteDetail
        postings := (u.muteChange p was).postings } := by
  by_cases h : (look u.pos p).muted = was
  · rw [muteChange_of_eq h, if_pos h, upd_id _ _ _ (by simp only [if_pos h])]
  · rw [muteChange_of_ne h, if_neg h]
    simp only [upd, if_neg h]
    rfl

@[simp] theorem muteChange_pos (u : Units) (p : PosIx) (was : Bool) :
    (u.muteChange p was).pos = upd u.pos p fun x =>
      { x with muteChanged := if x.muted = was then x.muteChanged else !u.router.enters x.muteKind } := by
  rw [muteChange_eq]

theorem muteChange_postings {u : Units} {p : PosIx} {was : Bool}
    (h : (look u.pos p).muted = was ∨ ∀ k : Fin 24, (look u.router.routes k).cue = none) :
    (u.muteChange p was).postings = u.postings := by
  by_cases hm : (look u.pos p).muted = was
  · rw [muteChange_of_eq hm]
  · rw [muteChange_of_ne hm]
    simp only [Units.raise_toMedia, Media.raise_postings,
      posting_nil _ _ _ ((h.resolve_left hm) _), List.append_nil]

/-- A position record set and its effective mute brought to what follows from it. -/
theorem onPos_muteChange_eq (u : Units) (p : PosIx) (f : Position → Position) (was : Bool) {x : Position}
    (hx : f (look u.pos p) = x) :
    (u.onPos p f).muteChange p was =
      { u with
        pos := put u.pos p
          { x with muteChanged := if x.muted = was then x.muteChanged else !u.router.enters x.muteKind }
        router := if x.muted = was then u.router else u.router.record x.muteKind (.position p) x.muteDetail
        postings := ((u.onPos p f).muteChange p was).postings } := by
  have hl : look (u.onPos p f).pos p = x := by rw [Units.onPos_pos, look_upd_self, hx]
  rw [muteChange_eq, hl, upd, hl, Units.onPos_pos, put_upd]
  rfl

/-- The generator of a position after it has been brought in step with effective mute: it runs exactly while
that is set, and one that already does so, or does not run, is as it was (R66). -/
theorem syncGenerator_eq (s : State) (p : PosIx) :
    ∃ (gen : Option Generator) (n : Nat),
      s.syncGenerator p =
        { s with nonce := n, sup := upd s.sup p fun c => { c with generator := gen } } ∧
      gen.isSome = (look s.pos p).muted ∧
      ((look s.sup p).generator.isSome = (look s.pos p).muted → gen = (look s.sup p).generator) := by
  have same : ∀ gen, (look s.sup p).generator = gen →
      s = { s with nonce := s.nonce, sup := upd s.sup p fun c => { c with generator := gen } } := by
    intro gen hg
    rw [upd_id _ _ _ (by rw [← hg])]
  unfold State.syncGenerator
  cases hm : (look s.pos p).muted <;> cases hg : (look s.sup p).generator
  case true.none => exact ⟨some (Generator.start s.nonce), s.nonce + 1, rfl, rfl, by simp⟩
  case false.some g => exact ⟨none, s.nonce, rfl, rfl, by simp⟩
  case true.some g => exact ⟨some g, s.nonce, same _ hg, rfl, fun _ => rfl⟩
  case false.none => exact ⟨none, s.nonce, same _ hg, rfl, fun _ => rfl⟩

/-! ## Settling -/

@[simp] theorem settle_pos (u : Units) : u.settle.pos = u.pos := (settle_keeps u).1

theorem settled_of_none {s : State} (h : s.postings = []) : s.settled = s := by
  rw [State.settled, State.onUnits, Units.settle_of_none _ h]

/-! ## PMUT -/

theorem ownPmut_eq (s : State) (p : PosIx) (mute : Bool) :
    ownPmut [byte p, flagByte mute] s =
      ((s.onUnits fun u =>
        (u.onPos p fun x => { x with hostMute := mute }).muteChange p (look s.pos p).muted).syncGenerator p,
        .ok []) := by
  rw [ownPmut, readPos_byte, readFlag_flagByte]

/-- Settles O22: PMUT sets the record's host mute, and effective mute and comfort noise follow. -/
theorem pmutSetsHostMute : Obligations.PmutSetsHostMute := by
  rintro s tag p mute x k hs hx rfl
  let f := fun x : Position => { x with hostMute := mute }
  let was := (look s.pos p).muted
  let l := s.link.accepted
    { tag := tag, name := ascii4 'P' 'M' 'U' 'T', payload := [byte p, flagByte mute], reply := none }
  have hu := onPos_muteChange_eq s.toUnits p f was hx.symm
  obtain ⟨gen, n, hsync, hsome, hkeep⟩ :=
    syncGenerator_eq { s with toUnits := (s.toUnits.onPos p f).muteChange p was, link := l } p
  have hmuted : (look ((s.toUnits.onPos p f).muteChange p was).pos p).muted = x.muted := by
    rw [hu, look_put_self]; rfl
  have run := request_eq hs.1 (by simp) (by rfl) ((ownPmut_eq _ p mute).trans (congrArg (·, _) hsync)) rfl
  refine ⟨_, gen, n, congrArg Host.Outcome.next run, hsome.trans hmuted,
    fun h => hkeep (h.trans hmuted.symm), rfl, ?_, fun h => ?_⟩
  · exact (settle_pos _).trans (by rw [hu]; rfl)
  · have hp : ((s.toUnits.onPos p f).muteChange p was).postings = [] := by
      refine (muteChange_postings ?_).trans hs.2
      rw [Units.onPos_pos, look_upd_self, ← show x = f _ from hx]
      exact h
    have hset := Units.settle_of_none { (s.toUnits.onPos p f).muteChange p was with nonce := n } hp
    simp only [State.onUnits, State.replied, hset]
    rw [hu, hp, hx, hs.2]
    rfl

/-! ## Status subframes -/

/-- A position that has heard a valid subframe (R4). -/
def Position.heard (x : Position) : Position := { x with linkValid := true, linkTimer := some linkTime }

/-- A position with the key of a valid subframe, which counts only while its headset is present (R6). -/
def Position.keyed (x : Position) (key : Bool) : Position :=
  { x with keyHeld := if x.present then key else x.keyHeld }

theorem subframe_invalid (s : State) (p : PosIx) (present key : Bool) :
    s.subframe p present key false = s := rfl

theorem subframe_valid (s : State) (p : PosIx) (present key : Bool) :
    s.subframe p present key true =
      ((s.onUnits fun u => u.onPos p Position.heard).takeKey p key).debounce p present key := rfl

theorem takeKey_absent {s : State} {p : PosIx} (key : Bool) (h : (look s.pos p).present = false) :
    s.takeKey p key = s := by
  unfold State.takeKey
  simp only [h]
  rfl

theorem keyed_absent {x : Position} (key : Bool) (h : x.present = false) : x.keyed key = x := by
  simp only [Position.keyed, h, Bool.false_eq_true, if_false]
  rw [← h]

/-- The key of a valid subframe: the record, what follows from a change of effective mute, and comfort noise. An
absent headset has no effective mute, and nothing of its suppressor is touched. -/
theorem takeKey_eq (s : State) (p : PosIx) (key : Bool) :
    ∃ (gen : Option Generator) (n : Nat),
      s.takeKey p key =
        { s with
          toUnits :=
            { (s.toUnits.onPos p fun x => x.keyed key).muteChange p (look s.pos p).muted with nonce := n }
          sup := upd s.sup p fun c => { c with generator := gen } } ∧
      ((look s.pos p).present = true → gen.isSome = ((look s.pos p).keyed key).muted) ∧
      ((look s.pos p).present = false ∨
          (look s.sup p).generator.isSome = ((look s.pos p).keyed key).muted →
        gen = (look s.sup p).generator) := by
  cases hp : (look s.pos p).present
  case false =>
    have hu : (s.toUnits.onPos p fun x => x.keyed key) = s.toUnits := by
      rw [Units.onPos, upd_id _ _ _ (keyed_absent key hp)]
    refine ⟨(look s.sup p).generator, s.nonce, ?_, nofun, fun _ => rfl⟩
    rw [takeKey_absent key hp, hu, muteChange_of_eq rfl, upd_id _ _ _ rfl]
  case true =>
    have hk : ∀ u : Units, look u.pos p = look s.pos p →
        (u.onPos p fun x => x.keyed key) = u.onPos p fun x => { x with keyHeld := key } := by
      intro u hu
      simp only [Units.onPos, upd, Position.keyed, hu, hp, if_true]
    let u := (s.toUnits.onPos p fun x => { x with keyHeld := key }).muteChange p (look s.pos p).muted
    obtain ⟨gen, n, hsync, hsome, hkeep⟩ := syncGenerator_eq { s with toUnits := u } p
    have hm : (look u.pos p).muted = ((look s.pos p).keyed key).muted := by
      rw [muteChange_pos, look_upd_self, Units.onPos_pos, look_upd_self, Position.keyed, hp]
      rfl
    refine ⟨gen, n, ?_, fun _ => hsome.trans hm, fun h => hkeep ?_⟩
    · rw [State.takeKey, if_pos hp, hk _ rfl]
      exact hsync
    · exact (h.resolve_left nofun).trans hm.symm

/-- A debounce that does not complete: abandoned, started or kept (R5). -/
theorem debounce_uncompleted {s : State} {p : PosIx} {present : Bool} (key : Bool)
    (h : present = (look s.pos p).present ∨ ∀ d, (look s.pos p).debounce = some d → d.run < 400) :
    s.debounce p present key = s.onUnits fun u => u.onPos p fun x =>
      { x with
        debounce :=
          if present = x.present then none else x.debounce <|> some { toPresent := present, run := 0 } } := by
  unfold State.debounce
  by_cases hp : present = (look s.pos p).present
  · simp only [State.onUnits, Units.onPos, upd, if_pos hp]
  · cases hd : (look s.pos p).debounce
    case none => simp only [State.onUnits, Units.onPos, upd, if_neg hp, hd]; rfl
    case some d =>
      have hr : d.run < debounceTime := h.resolve_left hp d hd
      simp only [if_neg hp, hd, if_pos hr]
      have kept : (if present = (look s.pos p).present then none
          else (look s.pos p).debounce <|> some { toPresent := present, run := 0 }) =
            (look s.pos p).debounce := by
        rw [if_neg hp, hd]; rfl
      rw [State.onUnits, Units.onPos, upd_id _ _ _ (by rw [kept])]

/-- A debounce that has run its 50 ms completes (R5). -/
theorem debounce_completed {s : State} {p : PosIx} {present : Bool} {d : Debounce} (key : Bool)
    (h : present ≠ (look s.pos p).present) (hd : (look s.pos p).debounce = some d) (hr : 400 ≤ d.run) :
    s.debounce p present key = if present then s.arrive p key else s.lose p .unplugged := by
  unfold State.debounce
  simp only [if_neg h, hd]
  exact if_neg (Nat.not_lt.mpr hr)

/-- The record a valid subframe leaves but for the debounce. -/
def Position.told (x : Position) (key : Bool) : Position := x.heard.keyed key

/-- A valid subframe but for its debounce. -/
theorem takeKey_heard_eq (s : State) (p : PosIx) (key : Bool) {x : Position}
    (hx : x = (look s.pos p).told key) :
    ∃ (gen : Option Generator) (n : Nat) (out : List Posting),
      (s.onUnits fun u => u.onPos p Position.heard).takeKey p key =
        { s with
          pos := put s.pos p
            { x with
              muteChanged := if x.muted = (look s.pos p).muted then x.muteChanged
                else !s.router.enters x.muteKind }
          router :=
            if x.muted = (look s.pos p).muted then s.router
            else s.router.record x.muteKind (.position p) x.muteDetail
          postings := out
          nonce := n
          sup := upd s.sup p fun c => { c with generator := gen } } ∧
      (x.present = true → gen.isSome = x.muted) ∧
      (x.present = false ∨ (look s.sup p).generator.isSome = x.muted →
        gen = (look s.sup p).generator) ∧
      (x.muted = (look s.pos p).muted ∨ s.noCueRoutes → out = s.postings) := by
  obtain ⟨gen, n, htake, hsome, hkeep⟩ := takeKey_eq (s.onUnits fun u => u.onPos p Position.heard) p key
  have h0 : look (s.toUnits.onPos p Position.heard).pos p = (look s.pos p).heard := look_upd_self ..
  have hm : (look s.pos p).heard.muted = (look s.pos p).muted := rfl
  rw [State.onUnits_toUnits, h0] at htake hsome hkeep
  let v := (s.toUnits.onPos p Position.heard).onPos p fun y => y.keyed key
  have hu := onPos_muteChange_eq (s.toUnits.onPos p Position.heard) p (fun y => y.keyed key)
    (look s.pos p).muted ((congrArg (·.keyed key) h0).trans hx.symm)
  rw [hm, hu] at htake
  refine ⟨gen, n, (v.muteChange p (look s.pos p).muted).postings, htake.trans ?_, hx ▸ hsome, hx ▸ hkeep,
    fun h => ?_⟩
  · simp only [Units.onPos, put_upd]
    rfl
  · refine muteChange_postings ?_
    rw [Units.onPos_pos, look_upd_self, h0, ← Position.told, ← hx]
    exact h

/-- Settles O24: a valid subframe's key, then a debounce that does not complete. -/
theorem subframeUpdatesRecord : Obligations.SubframeUpdatesRecord := by
  rintro s p present key x k hs hx rfl
  refine ⟨congrArg Host.Outcome.next (settled_of_none hs), fun hd => ?_⟩
  obtain ⟨gen, n, out, htake, hsome, hkeep, hout⟩ := takeKey_heard_eq s p key rfl
  have run := (congrArg (·.debounce p present key) htake).trans
    (debounce_uncompleted key (by simp only [look_put_self]; exact hd))
  refine ⟨_, gen, n, congrArg (fun t : State => (.next t.settled : Outcome)) run, ?_, ?_, rfl, ?_,
    fun h => ?_⟩
  · rw [hx]; exact hsome
  · rw [hx]; exact hkeep
  · refine (settle_pos _).trans ?_
    simp only [State.onUnits, Units.onPos, upd_put]
    rw [hx]
    rfl
  · rw [settled_of_none]
    · simp only [State.onUnits, Units.onPos, upd_put]
      rw [hx, hout (by rw [hx] at h; exact h)]
      rfl
    · exact (hout (by rw [hx] at h; exact h)).trans hs

/-! ## Arrival -/

/-- A change of presence: its delta and its record, then what follows for effective mute. -/
theorem presence_eq (u : Units) (p : PosIx) (k : EventKind) (d : BitVec 16) (f : Position → Position)
    (was : Bool) {y : Position} (hf : (f (look u.pos p)).presentChanged = true)
    (hy : y = { f (look u.pos p) with presentChanged := !u.router.enters k }) :
    ∃ out,
      ((u.onPos p f).raisePos k p d fun x => { x with presentChanged := false }).muteChange p was =
        { u with
          pos := put u.pos p
            { y with
              muteChanged := if y.muted = was then y.muteChanged
                else !(u.router.record k (.position p) d).enters y.muteKind }
          router :=
            if y.muted = was then u.router.record k (.position p) d
            else (u.router.record k (.position p) d).record y.muteKind (.position p) y.muteDetail
          postings := out } ∧
      ((∀ j : Fin 24, (look u.router.routes j).cue = none) → out = u.postings) := by
  let v := (u.onPos p f).raisePos k p d fun x => { x with presentChanged := false }
  have hset : f (look u.pos p) = { f (look u.pos p) with presentChanged := true } := by rw [← hf]
  have hv : v = { u.raise k (.position p) d (some p) with pos := put u.pos p y } := by
    simp only [v, raisePos_onPos, hy, upd]
    cases u.router.enters k
    · exact congrArg (fun x => { u.raise k (.position p) d (some p) with pos := put u.pos p x }) hset
    · rfl
  have hl : look v.pos p = y := by rw [hv, look_put_self]
  refine ⟨(v.muteChange p was).postings, ?_, fun h => ?_⟩
  · show v.muteChange p was = _
    rw [muteChange_eq, hl, upd, hl, hv, put_put]
    rfl
  · have hr := (record_keeps u.router k (.position p) d).1
    rw [muteChange_postings (.inr (by rw [hv]; exact hr ▸ h)), hv]
    simp only [Units.raise_toMedia, Media.raise_postings, posting_nil _ _ _ (h _), List.append_nil]

@[simp] theorem onPos_onPos (u : Units) (p : PosIx) (f g : Position → Position) :
    (u.onPos p f).onPos p g = u.onPos p fun x => g (f x) := by
  simp only [Units.onPos, upd_upd]

/-- A position as a completed debounce finds its headset there, with its deltas still to be settled (R8). -/
def Position.arrived (x : Position) (key : Bool) : Position :=
  { x with present := true, keyHeld := key, presentChanged := true, state := .idle, debounce := none }

theorem arrive_eq (u : Units) (p : PosIx) (f : Position → Position) (key : Bool) :
    (u.onPos p f).arrive p key =
      ((u.onPos p fun x => (f x).arrived key).raisePos .headsetOn p
        (detail1 (f (look u.pos p)).role.code) fun x => { x with presentChanged := false }).muteChange p
          false := by
  unfold Units.arrive
  simp only [onPos_onPos, Units.onPos_pos, look_upd_self]
  rfl

/-- Settles O25: a completed debounce is a change of presence and its suppressor's arrival. -/
theorem headsetArrives : Obligations.HeadsetArrives := by
  rintro s p key d r hs hp hd hr rfl
  let y := { (look s.pos p).heard.arrived key with presentChanged := !s.router.enters .headsetOn }
  obtain ⟨out, hu, hout⟩ := presence_eq s.toUnits p .headsetOn (detail1 (look s.pos p).role.code)
    (fun x => x.heard.arrived key) false (y := y) rfl rfl
  have hm : y.muted = (key || (look s.pos p).hostMute) := rfl
  let s0 := s.onUnits fun u => u.onPos p Position.heard
  have h0 : look s0.pos p = (look s.pos p).heard := look_upd_self ..
  have htake : s.subframe p true key true = s0.arrive p key := by
    rw [subframe_valid, takeKey_absent key (by rw [h0]; exact hp)]
    have h0p : (look s0.pos p).present = false := by rw [h0]; exact hp
    exact debounce_completed key (by rw [h0p]; decide) (by rw [h0]; exact hd) hr
  have harr := (arrive_eq s.toUnits p Position.heard key).trans hu
  let v := (s0.onUnits fun u => u.arrive p key).onSup p Suppressor.arrival
  have hv : v.toUnits = _ := (arrive_eq s.toUnits p Position.heard key).trans hu
  obtain ⟨gen, n, hsync, hsome, -⟩ := syncGenerator_eq v p
  have run := htake.trans hsync
  refine ⟨_, gen, n, congrArg (fun t : State => (.next t.settled : Outcome)) run, ?_, ?_, ?_, fun h => ?_⟩
  · rw [hsome, hv, look_put_self]; exact hm
  · exact upd_upd s.sup p Suppressor.arrival fun c => { c with generator := gen }
  · refine (settle_pos _).trans ?_
    rw [hv]
    simp only [upd, hm, Position.muteKind]
    cases key || (look s.pos p).hostMute <;> rfl
  · rw [settled_of_none (by rw [hv]; exact (hout h).trans hs)]
    rw [hv, hout h]
    simp only [hm, Position.muteKind]
    cases key || (look s.pos p).hostMute <;> rfl

end Sys2Proof.Machine
end

section
/-! PROOFS. One highway frame: what it puts on the slots (O29), and what it counts (O30). -/

namespace Sys2Proof.Machine

/-! ## What the frame of a cursor can change -/

/-- A record changes the notice queue and the overflow flag alone. -/
theorem record_eq (r : Router) (k : EventKind) (x : Subject) (d : BitVec 16) :
    ∃ ns b, r.record k x d = { r with notices := ns, overflow := b } := by
  unfold Router.record Router.enter
  split
  · split
    · exact ⟨_, _, rfl⟩
    · exact ⟨_, _, rfl⟩
  · exact ⟨_, _, rfl⟩

/-- A refill that joins the queue changes that, and what the flash does. -/
theorem addRefill_eq (st : Store) (r : Refill) :
    ∃ op erase, st.addRefill r = { st with refills := st.refills ++ [r], op := op, erase := erase } := by
  obtain ⟨x, xs, hx⟩ : ∃ x xs, st.refills ++ [r] = x :: xs := List.exists_cons_of_ne_nil (by simp)
  unfold Store.addRefill Store.kick Store.issueSuspend
  split
  · exact ⟨_, _, rfl⟩
  · simp only [hx]
    exact ⟨_, _, rfl⟩

/-- What the frames of cursors leave as it is: all but the cursors, the refills asked for, what the flash does,
and the notice queue. -/
structure Media.Framed (m t : Media) : Prop where
  can : t.can = m.can
  pool : t.pool = m.pool
  cues : t.cues = m.cues
  postings : t.postings = m.postings
  nonce : t.nonce = m.nonce
  store : ∃ rs op erase,
    t.store = { m.store with refills := m.store.refills ++ rs, op := op, erase := erase }
  router : ∃ ns b, t.router = { m.router with notices := ns, overflow := b }

namespace Media.Framed

theorem refl (m : Media) : m.Framed m :=
  ⟨rfl, rfl, rfl, rfl, rfl, ⟨[], _, _, by rw [List.append_nil]⟩, ⟨_, _, rfl⟩⟩

theorem trans {m t u : Media} (h : m.Framed t) (g : t.Framed u) : m.Framed u := by
  obtain ⟨rs, op, erase, hs⟩ := h.store
  obtain ⟨rs', op', erase', gs⟩ := g.store
  obtain ⟨ns, b, hr⟩ := h.router
  obtain ⟨ns', b', gr⟩ := g.router
  exact ⟨g.can.trans h.can, g.pool.trans h.pool, g.cues.trans h.cues, g.postings.trans h.postings,
    g.nonce.trans h.nonce, ⟨rs ++ rs', op', erase', by rw [gs, hs, List.append_assoc]⟩,
    ⟨ns', b', by rw [gr, hr]⟩⟩

theorem clip {m t : Media} (h : m.Framed t) (id : ClipIx) : t.store.clip id = m.store.clip id := by
  obtain ⟨_, _, _, hs⟩ := h.store
  rw [hs]; rfl

theorem samplesOf {m t : Media} (h : m.Framed t) (id : ClipIx) :
    t.store.samplesOf id = m.store.samplesOf id := by
  rw [Store.samplesOf, h.clip, Store.samplesOf]

theorem atEnd {m t : Media} (h : m.Framed t) (cur : Cursor) : cur.atEnd t.store = cur.atEnd m.store := by
  unfold Cursor.atEnd
  split <;> simp only [h.samplesOf]

end Media.Framed

theorem onCur_framed (m : Media) (c : CurIx) (f : Cursor → Cursor) : m.Framed (m.onCur c f) :=
  ⟨rfl, rfl, rfl, rfl, rfl, ⟨[], _, _, by rw [List.append_nil]; rfl⟩, ⟨_, _, rfl⟩⟩

theorem raise_framed (m : Media) (k : EventKind) (x : Subject) (d : BitVec 16) :
    m.Framed (m.raise k x d none) :=
  ⟨rfl, rfl, rfl, List.append_nil _, rfl, ⟨[], _, _, by rw [List.append_nil]; rfl⟩, record_eq ..⟩

theorem issueRefill_framed (m : Media) (c : CurIx) : m.Framed (m.issueRefill c) := by
  unfold Media.issueRefill
  split
  · exact .refl m
  · next rf _ =>
    obtain ⟨op, erase, h⟩ := addRefill_eq m.store rf
    exact ⟨rfl, rfl, rfl, rfl, rfl, ⟨[rf], op, erase, h⟩, ⟨_, _, rfl⟩⟩

theorem issueRefill_cursors (m : Media) {c d : CurIx} (h : d ≠ c) :
    look (m.issueRefill c).cursors d = look m.cursors d := by
  unfold Media.issueRefill
  split
  · rfl
  · exact look_upd_of_ne _ h.symm _

/-- A ring after a sample of its segment `b` has been read, with the samples `xs` of that left. -/
def ringRead (r : Vector RingSeg 2) (b : Fin 2) (xs : List Sample) : Vector RingSeg 2 :=
  playNext (put r b { look r b with state := if xs.isEmpty then .empty else .playing, data := xs })

/-- Whether a cursor whose ring stands so has samples of its clip left and none to play (R97). -/
def Cursor.starves (cur : Cursor) (ring : Vector RingSeg 2) (samples : Nat) : Bool :=
  (playingSeg ring).isNone && decide (cur.place + 1 < samples)

/-- A cursor that has read a sample, before it asks for more. -/
def Cursor.read (cur : Cursor) (ring : Vector RingSeg 2) (samples : Nat) : Cursor :=
  { cur with ring := some ring, place := cur.place + 1, underrun := cur.underrun || cur.starves ring samples }

/-- CURSOR_UNDERRUN, where it is due. -/
def Media.underrunIf (m : Media) (due : Bool) (c : CurIx) (id : ClipIx) : Media :=
  if due then m.raise .cursorUnderrun (ownerSubject c) (detail1 (byte id)) none else m

/-- A cursor that reads a sample of its PLAYING segment. -/
theorem clipFrame_read {m : Media} {c : CurIx} {id : ClipIx} {gain : Int} {r : Vector RingSeg 2} {b : Fin 2}
    {x : Sample} {xs : List Sample} (hr : (look m.cursors c).ring = some r) (hb : playingSeg r = some b)
    (hd : (look r b).data = x :: xs) :
    m.clipFrame c id gain =
      (((m.onCur c fun cur => cur.read (ringRead r b xs) (m.store.samplesOf id)).underrunIf
          ((look m.cursors c).starves (ringRead r b xs) (m.store.samplesOf id) &&
            !(look m.cursors c).underrun) c id).issueRefill c,
        limit16 (gainDb gain x.toInt)) := by
  unfold Media.clipFrame
  simp only [hr, hb, hd]
  rfl

/-- A cursor with nothing to read gives silence and stays as it is. -/
theorem clipFrame_still {m : Media} {c : CurIx} {id : ClipIx} {gain : Int}
    (h : ∀ r b, (look m.cursors c).ring = some r → playingSeg r = some b → (look r b).data = []) :
    m.clipFrame c id gain = (m, 0) := by
  unfold Media.clipFrame
  cases hr : (look m.cursors c).ring with
  | none => simp only [hr]
  | some r =>
    cases hb : playingSeg r with
    | none => simp only [hr, hb]
    | some b => simp only [hr, hb, h r b hr hb]

/-- What the frame of one cursor leaves: the other cursors too. -/
theorem clipFrame_framed (m : Media) (c : CurIx) (id : ClipIx) (gain : Int) :
    m.Framed (m.clipFrame c id gain).1 ∧
      ∀ d, d ≠ c → look (m.clipFrame c id gain).1.cursors d = look m.cursors d := by
  by_cases h : ∀ r b, (look m.cursors c).ring = some r → playingSeg r = some b → (look r b).data = []
  · rw [clipFrame_still h]
    exact ⟨.refl m, fun _ _ => rfl⟩
  · push Not at h
    obtain ⟨r, b, hr, hb, hd⟩ := h
    obtain ⟨x, xs, hd⟩ := List.exists_cons_of_ne_nil hd
    rw [clipFrame_read hr hb hd]
    refine ⟨.trans ?_ (issueRefill_framed ..), fun d hd => (issueRefill_cursors _ hd).trans ?_⟩
    · unfold Media.underrunIf
      split
      · exact (onCur_framed m c _).trans (raise_framed ..)
      · exact onCur_framed m c _
    · unfold Media.underrunIf
      split <;> exact look_upd_of_ne m.cursors hd.symm _

theorem cursorFrame_framed (m : Media) (c : CurIx) :
    m.Framed (m.cursorFrame c).1 ∧
      ∀ d, d ≠ c → look (m.cursorFrame c).1.cursors d = look m.cursors d := by
  unfold Media.cursorFrame
  dsimp only
  split
  · exact ⟨.refl m, fun _ _ => rfl⟩
  · split
    · exact clipFrame_framed ..
    all_goals exact ⟨onCur_framed m c _, fun d hd => look_upd_of_ne m.cursors hd.symm _⟩

section

variable {m : Media} {c : CurIx}

/-- A cursor that does not play, or has come to its item's end, gives silence and stays as it is. -/
theorem cursorFrame_still
    (h : (look m.cursors c).state ≠ .playing ∨ (look m.cursors c).atEnd m.store = true) :
    m.cursorFrame c = (m, 0) := by
  unfold Media.cursorFrame
  exact if_pos h

variable (hp : (look m.cursors c).state = .playing) (he : (look m.cursors c).atEnd m.store = false)
include hp he

theorem cursorFrame_clip {id : ClipIx} {gain : Int} (hi : (look m.cursors c).item = some (.clip id gain)) :
    m.cursorFrame c = m.clipFrame c id gain := by
  unfold Media.cursorFrame
  simp only [hp, he, hi]
  rfl

theorem cursorFrame_silence
    (hi : (look m.cursors c).item = none ∨ ∃ ms, (look m.cursors c).item = some (.silence ms)) :
    m.cursorFrame c = (m.onCur c fun cur => { cur with place := cur.place - 1 }, 0) := by
  unfold Media.cursorFrame
  obtain hi | ⟨ms, hi⟩ := hi <;>
  · simp only [hp, he, hi]
    rfl

theorem cursorFrame_tone {k : Fin 8} {ms : Nat} (hi : (look m.cursors c).item = some (.tone k ms)) :
    m.cursorFrame c =
      (m.onCur c fun cur =>
          { cur with place := cur.place - 1, phase := cur.phase + 50 * toneHz k },
        toneAt (look m.cursors c).phase) := by
  unfold Media.cursorFrame
  simp only [hp, he, hi]
  rfl

end

/-! ## All cursors -/

/-- The frames of some cursors, one after another. -/
def Media.framesOf (cs : List CurIx) (acc : Media × Vector Sample 56) : Media × Vector Sample 56 :=
  cs.foldl (fun acc c => ((acc.1.cursorFrame c).1, put acc.2 c (acc.1.cursorFrame c).2)) acc

theorem cursorsFrame_eq (m : Media) :
    m.cursorsFrame = Media.framesOf (List.finRange 56) (m, Vector.replicate 56 0) := rfl

theorem framesOf_framed (cs : List CurIx) (acc : Media × Vector Sample 56) :
    acc.1.Framed (Media.framesOf cs acc).1 ∧
      ∀ d, d ∉ cs → look (Media.framesOf cs acc).1.cursors d = look acc.1.cursors d ∧
        look (Media.framesOf cs acc).2 d = look acc.2 d := by
  induction cs generalizing acc with
  | nil => exact ⟨.refl _, fun _ _ => ⟨rfl, rfl⟩⟩
  | cons c cs ih =>
    obtain ⟨h, hc⟩ := cursorFrame_framed acc.1 c
    obtain ⟨ih, ihc⟩ := ih ((acc.1.cursorFrame c).1, put acc.2 c (acc.1.cursorFrame c).2)
    refine ⟨h.trans ih, fun d hd => ?_⟩
    obtain ⟨hne, hd⟩ := not_or.mp (mt List.mem_cons.mpr hd)
    exact ⟨(ihc d hd).1.trans (hc d hne), (ihc d hd).2.trans (look_put_of_ne _ (Ne.symm hne) _)⟩

theorem framesOf_idle (cs : List CurIx) (acc : Media × Vector Sample 56)
    (h : ∀ d ∈ cs, (look acc.1.cursors d).state ≠ .playing) : (Media.framesOf cs acc).1 = acc.1 := by
  induction cs generalizing acc with
  | nil => rfl
  | cons c cs ih =>
    have hc : (acc.1.cursorFrame c).1 = acc.1 := by rw [cursorFrame_still (.inl (h c (by simp)))]
    refine (ih ((acc.1.cursorFrame c).1, _) fun d hd => ?_).trans hc
    rw [hc]
    exact h d (by simp [hd])

/-- With no cursor playing, the frame leaves all as it is. -/
theorem cursorsFrame_idle {m : Media} (h : ∀ c, (look m.cursors c).state ≠ .playing) :
    m.cursorsFrame.1 = m := framesOf_idle _ _ fun d _ => h d

theorem cursorsFrame_framed (m : Media) : m.Framed m.cursorsFrame.1 :=
  (framesOf_framed (List.finRange 56) (m, Vector.replicate 56 0)).1

/-- The frame of one cursor among all: it finds its own record, and what the frames before it leave; and what it
leaves of its record and gives stands at the end. With no other cursor playing, its frame is all there is. -/
theorem cursorsFrame_at (m : Media) (c : CurIx) :
    ∃ t : Media, m.Framed t ∧ look t.cursors c = look m.cursors c ∧
      (t.cursorFrame c).1.Framed m.cursorsFrame.1 ∧
      look m.cursorsFrame.1.cursors c = look (t.cursorFrame c).1.cursors c ∧
      look m.cursorsFrame.2 c = (t.cursorFrame c).2 ∧
      ((∀ d, d ≠ c → (look m.cursors d).state ≠ .playing) →
        t = m ∧ m.cursorsFrame.1 = (m.cursorFrame c).1) := by
  obtain ⟨before, after, hl⟩ := List.append_of_mem (List.mem_finRange c)
  have hnd := hl ▸ List.nodup_finRange 56
  obtain ⟨hb, ha⟩ : c ∉ before ∧ c ∉ after := by
    simp only [List.nodup_append, List.nodup_cons, List.mem_cons] at hnd
    exact ⟨fun h => hnd.2.2 c h c (.inl rfl) rfl, hnd.2.1.1⟩
  let acc := Media.framesOf before (m, Vector.replicate 56 0)
  let at_ := ((acc.1.cursorFrame c).1, put acc.2 c (acc.1.cursorFrame c).2)
  have hall : m.cursorsFrame = Media.framesOf after at_ := by
    rw [cursorsFrame_eq, hl, Media.framesOf, List.foldl_append]
    rfl
  obtain ⟨hfb, hcb⟩ := framesOf_framed before (m, Vector.replicate 56 0)
  obtain ⟨hfa, hca⟩ := framesOf_framed after at_
  refine ⟨acc.1, hfb, (hcb c hb).1, hall ▸ hfa, hall ▸ (hca c ha).1, ?_, fun h => ?_⟩
  · rw [hall, (hca c ha).2]
    exact look_put_self ..
  · have hm : acc.1 = m := framesOf_idle before _ fun d hd => h d fun e => hb (e ▸ hd)
    have : (Media.framesOf after at_).1 = at_.1 := framesOf_idle after _ fun d hd => by
      have hne : d ≠ c := fun e => ha (e ▸ hd)
      rw [(cursorFrame_framed acc.1 c).2 d hne, hm]
      exact h d hne
    refine ⟨hm, ?_⟩
    rw [hall, this]
    exact congrArg (fun m => (m.cursorFrame c).1) hm

/-! ## The sample a cursor gives -/

theorem atEnd_clip {cur : Cursor} {st : Store} {id : ClipIx} {gain : Int}
    (hi : cur.item = some (.clip id gain)) :
    cur.atEnd st = decide (st.samplesOf id ≤ cur.place) := by
  unfold Cursor.atEnd
  simp only [hi]

theorem atEnd_of_not_clip {cur : Cursor} {st : Store} (hi : ∀ id gain, cur.item ≠ some (.clip id gain)) :
    cur.atEnd st = decide (cur.place = 0) := by
  unfold Cursor.atEnd
  split
  next id gain h => exact absurd h (hi id gain)
  all_goals rfl

/-- The samples its ring holds ready for a cursor in a CLIP item. -/
theorem clipFrame_sample (m : Media) (c : CurIx) (id : ClipIx) (gain : Int) :
    (m.clipFrame c id gain).2 =
      ((look m.cursors c).ring.bind fun r => (playingSeg r).bind fun b => (look r b).data.head?).elim 0
        fun x => limit16 (gainDb gain x.toInt) := by
  cases hr : (look m.cursors c).ring with
  | none => rw [clipFrame_still (by simp [hr])]; rfl
  | some r =>
    cases hb : playingSeg r with
    | none =>
      rw [clipFrame_still fun r' b' h h' => by cases hr.symm.trans h; cases hb.symm.trans h']
      simp [hb]
    | some b =>
      cases hd : (look r b).data with
      | nil =>
        rw [clipFrame_still fun r' b' h h' => by cases hr.symm.trans h; cases hb.symm.trans h'; exact hd]
        simp [hb, hd]
      | cons x xs => rw [clipFrame_read hr hb hd]; simp [hb, hd]

/-- The sample of a cursor's frame, whatever frames of other cursors have come before. -/
theorem cursorFrame_sample {s : State} {m : Media} {c : CurIx} (hm : s.toMedia.Framed m)
    (hc : look m.cursors c = look s.cursors c) : (m.cursorFrame c).2 = s.sampleOf c := by
  unfold State.sampleOf
  simp only [← hc, ← hm.samplesOf]
  by_cases hp : (look m.cursors c).state = .playing
  case neg => rw [cursorFrame_still (.inl hp), if_pos hp]
  rw [if_neg (not_not.mpr hp)]
  cases he : (look m.cursors c).atEnd m.store
  case true =>
    rw [cursorFrame_still (.inr he)]
    split
    next id gain hi => rw [if_pos (of_decide_eq_true ((atEnd_clip hi).symm.trans he))]
    next hi => rw [if_pos (of_decide_eq_true ((atEnd_of_not_clip (by simp [hi])).symm.trans he))]
    all_goals rfl
  case false =>
    split
    next id gain hi =>
      rw [cursorFrame_clip hp he hi, clipFrame_sample,
        if_neg (of_decide_eq_false ((atEnd_clip hi).symm.trans he))]
    next hi =>
      rw [cursorFrame_tone hp he hi,
        if_neg (of_decide_eq_false ((atEnd_of_not_clip (by simp [hi])).symm.trans he))]
    next ms hi => rw [cursorFrame_silence hp he (.inr ⟨ms, hi⟩)]
    next hi => rw [cursorFrame_silence hp he (.inl hi)]

/-- The samples that the cursors give in a frame. -/
theorem cursorsFrame_sample (s : State) (c : CurIx) : look s.toMedia.cursorsFrame.2 c = s.sampleOf c := by
  obtain ⟨t, hf, hc, -, -, hx, -⟩ := cursorsFrame_at s.toMedia c
  rw [hx, cursorFrame_sample hf hc]

/-! ## The parts of a frame -/

/-- The blocks as the outbound and earpiece mixes read them: after the cursors' frames. -/
def State.mixUnits (s : State) : Units := { s.toUnits with toMedia := s.toMedia.cursorsFrame.1 }

@[simp] theorem mixUnits_toMedia (s : State) : s.mixUnits.toMedia = s.toMedia.cursorsFrame.1 := by
  rw [State.mixUnits]
@[simp] theorem mixUnits_pos (s : State) : s.mixUnits.pos = s.pos := by rw [State.mixUnits]
@[simp] theorem mixUnits_legs (s : State) : s.mixUnits.legs = s.legs := by rw [State.mixUnits]
@[simp] theorem mixUnits_whisper (s : State) : s.mixUnits.whisper = s.whisper := by rw [State.mixUnits]
@[simp] theorem mixUnits_pairs (s : State) : s.mixUnits.pairs = s.pairs := by rw [State.mixUnits]

/-- The samples the outbound mix takes. -/
def State.sources (s : State) : Sources :=
  { mic := (Vector.ofFn s.suppressorOut).map fun x => x.2.1
    noise := (Vector.ofFn s.suppressorOut).map fun x => x.2.2
    cursor := s.toMedia.cursorsFrame.2, clean := Vector.replicate 64 0 }

/-- The canceller of a leg in a frame, and the trunk receive it leaves. -/
def State.canFrame (s : State) (trunk : List Sample) (n : LegIx) : Canceller × Sample :=
  (look s.mixUnits.can n).frame s.mixUnits.nonce n (s.mixUnits.outboundOf s.sources n) (slotSample trunk n)

/-- The samples the earpiece mix takes. -/
def State.earSources (s : State) (trunk : List Sample) : Sources :=
  { s.sources with clean := (Vector.ofFn (s.canFrame trunk)).map Prod.snd }

section

variable (s : State) (mic trunk : List Sample)

/-- One highway frame by its parts. -/
theorem frame_eq :
    s.frame mic trunk = State.tick
      { s with
        toUnits := s.mixUnits.onMedia fun m =>
          { m with can := (Vector.ofFn (s.canFrame trunk)).map Prod.fst, nonce := m.nonce + 1 }
        sup := mapIx ((Vector.ofFn s.suppressorOut).map Prod.fst) fun p c =>
          if (look s.pos p).present then c.intake (slotSample mic p) else c
        outbound := Vector.ofFn (s.mixUnits.outboundOf s.sources)
        earpiece := Vector.ofFn (s.mixUnits.earpieceOf (s.earSources trunk)) } := by
  have hcan : (fun n => (look s.mixUnits.can n).frame s.mixUnits.nonce n
      (look (Vector.ofFn (s.mixUnits.outboundOf s.sources)) n) (slotSample trunk n)) = s.canFrame trunk := by
    funext n
    rw [look_ofFn, State.canFrame]
  rw [State.earSources, ← hcan, State.frame]
  unfold State.sources State.mixUnits
  generalize s.toMedia.cursorsFrame = x
  rfl

theorem frame_outbound (n : LegIx) :
    look (s.frame mic trunk).outbound n = s.mixUnits.outboundOf s.sources n := by
  rw [frame_eq]
  exact look_ofFn ..

theorem frame_earpiece (p : PosIx) :
    look (s.frame mic trunk).earpiece p = s.mixUnits.earpieceOf (s.earSources trunk) p := by
  rw [frame_eq]
  exact look_ofFn ..

theorem frame_can (n : LegIx) : look (s.frame mic trunk).can n = (s.canFrame trunk n).1 := by
  rw [frame_eq]
  exact (look_map ..).trans (congrArg Prod.fst (look_ofFn ..))

end

/-! ## What a frame reads of the blocks -/

theorem refilling_snapshot (cur : Cursor) (rf : Refill) : (cur.refilling rf).snapshot = cur.snapshot := rfl

theorem issueRefill_snapshot (m : Media) (c : CurIx) :
    (look (m.issueRefill c).cursors c).snapshot = (look m.cursors c).snapshot := by
  unfold Media.issueRefill
  split
  · rfl
  · next rf _ =>
    rw [Media.onStore_cursors, Media.onCur_cursors, look_upd_self]
    rfl

theorem underrunIf_cursors (m : Media) (due : Bool) (c : CurIx) (id : ClipIx) :
    (m.underrunIf due c id).cursors = m.cursors := by
  unfold Media.underrunIf
  split <;> rfl

theorem clipFrame_snapshot (m : Media) (c : CurIx) (id : ClipIx) (gain : Int) :
    (look (m.clipFrame c id gain).1.cursors c).snapshot = (look m.cursors c).snapshot := by
  by_cases h : ∀ r b, (look m.cursors c).ring = some r → playingSeg r = some b → (look r b).data = []
  · rw [clipFrame_still h]
  · push Not at h
    obtain ⟨r, b, hr, hb, hd⟩ := h
    obtain ⟨x, xs, hd⟩ := List.exists_cons_of_ne_nil hd
    rw [clipFrame_read hr hb hd]
    refine (issueRefill_snapshot ..).trans ?_
    rw [underrunIf_cursors, Media.onCur_cursors, look_upd_self]
    rfl

theorem cursorFrame_snapshot (m : Media) (c : CurIx) :
    (look (m.cursorFrame c).1.cursors c).snapshot = (look m.cursors c).snapshot := by
  unfold Media.cursorFrame
  dsimp only
  split
  · rfl
  · split
    · exact clipFrame_snapshot ..
    all_goals rw [Media.onCur_cursors, look_upd_self]

theorem mixUnits_snapshot (s : State) (c : CurIx) :
    (look s.mixUnits.cursors c).snapshot = (look s.cursors c).snapshot := by
  obtain ⟨t, -, hc, -, hm, -⟩ := cursorsFrame_at s.toMedia c
  rw [mixUnits_toMedia, hm, cursorFrame_snapshot, hc]

theorem mixUnits_can (s : State) : s.mixUnits.can = s.can := by
  rw [mixUnits_toMedia, (cursorsFrame_framed s.toMedia).can]

theorem suppressorOut_present {s : State} {p : PosIx} (h : (look s.pos p).present = true) :
    s.suppressorOut p =
      (((look s.sup p).micFrame.1.noiseFrame).1, (look s.sup p).micFrame.2,
        ((look s.sup p).micFrame.1.noiseFrame).2) := by
  unfold State.suppressorOut
  exact if_pos h

theorem suppressorOut_absent {s : State} {p : PosIx} (h : (look s.pos p).present = false) :
    s.suppressorOut p = (look s.sup p, 0, 0) := by
  unfold State.suppressorOut
  simp only [h]
  rfl

theorem micFrame_eq (c : Suppressor) :
    c.micFrame = ({ c with deliver := c.deliver.drop 1 }, c.deliver.headD 0) := by
  unfold Suppressor.micFrame
  cases h : c.deliver with
  | nil =>
    show (c, 0) = _
    rw [List.drop_nil, List.headD_nil, ← h]
  | cons x xs => rfl

theorem sources_mic (s : State) (p : PosIx) : (look s.sources.mic p).toInt = s.micOf p := by
  rw [State.sources, look_map, look_ofFn, State.micOf]
  cases h : (look s.pos p).present
  case true => rw [suppressorOut_present h, micFrame_eq]; rfl
  case false => rw [suppressorOut_absent h]; rfl

/-- The comfort noise of a frame (R66, R67). -/
theorem noiseFrame_sample (c : Suppressor) :
    (c.noiseFrame).2 = c.generator.elim 0 fun g =>
      limit16
        (if g.ran % 64 ≠ 0 then Config.noiseSample g.seq g.ran g.total g.bands
        else if c.learned < 500 then Config.noiseSample g.seq g.ran (-70) none
        else
          Config.noiseSample g.seq g.ran (max (-90) (min (-30) c.floor))
            (some (c.bands.map fun b => b + 10 * (max (-90) (min (-30) c.floor) - c.floor)))) := by
  unfold Suppressor.noiseFrame
  cases c.generator with
  | none => rfl
  | some g =>
    dsimp only [Option.elim, blockFrames]
    by_cases hr : g.ran % 64 = 0
    · by_cases hl : c.learned < 500
      · simp only [hr, Suppressor.noiseContent, learnedEnough, hl, if_true, ne_eq, not_true, if_false]
      · simp only [hr, Suppressor.noiseContent, learnedEnough, hl, if_true, ne_eq, not_true, if_false]
    · simp only [hr, ne_eq, not_false_eq_true, if_true, if_false]

theorem sources_noise {s : State} {p : PosIx} (h : (look s.pos p).present = true) :
    (look s.sources.noise p).toInt = s.noiseOf p := by
  rw [State.sources, look_map, look_ofFn, suppressorOut_present h, noiseFrame_sample, micFrame_eq,
    State.noiseOf]
  dsimp only
  cases (look s.sup p).generator <;> rfl

theorem muted_iff (x : Position) : x.muted = true ↔ x.present ∧ (x.keyHeld ∨ x.hostMute) := by
  simp [Position.muted]

theorem openMic_eq (s : State) (src : Sources) (p : PosIx) (h : src.mic = s.sources.mic) :
    s.mixUnits.openMic src p = s.openMicOf p := by
  unfold Units.openMic State.openMicOf
  rw [h, sources_mic]
  simp only [muted_iff, mixUnits_pos]

/-! ## Outbound -/

theorem sources_cursor (s : State) (c : CurIx) : look s.sources.cursor c = s.sampleOf c := by
  rw [State.sources, cursorsFrame_sample]

theorem pairOfAgent_mix (s : State) (p : PosIx) :
    s.mixUnits.pairOfAgent p = s.pairs.find? fun x => x.agent = p := by
  rw [Units.pairOfAgent, mixUnits_pairs]

theorem barge_eq (s : State) (p : PosIx) :
    s.mixUnits.barge s.sources p =
      (s.pairs.find? fun x => x.agent = p).elim 0 fun x =>
        if x.active ∧ x.mode = .barge then s.openMicOf x.supervisor else 0 := by
  unfold Units.barge
  rw [pairOfAgent_mix]
  cases s.pairs.find? fun x => x.agent = p with
  | none => rfl
  | some x => simp only [Option.elim, openMic_eq s s.sources _ rfl]

theorem outbound_free {s : State} {n : LegIx} (h : (look s.legs n).state = .free) :
    s.mixUnits.outboundOf s.sources n = 0 := by
  unfold Units.outboundOf
  simp only [mixUnits_legs, h]

theorem outbound_group {s : State} {n : LegIx} {g : GroupIx}
    (h : (look s.legs n).state = .parked ∨ (look s.legs n).state = .connecting)
    (hg : (look s.legs n).group = some g) :
    s.mixUnits.outboundOf s.sources n = s.sampleOf (groupCursor g) := by
  unfold Units.outboundOf
  obtain h | h := h <;> simp only [mixUnits_legs, h, hg, sources_cursor]

theorem outbound_talking {s : State} {n : LegIx} {p : PosIx} (h : (look s.legs n).state = .talking)
    (hp : (look s.legs n).bound = some p) :
    s.mixUnits.outboundOf s.sources n =
      limit16
        ((if (look s.pos p).present ∧ ((look s.pos p).keyHeld ∨ (look s.pos p).hostMute) then s.noiseOf p
          else s.micOf p) +
        (s.pairs.find? fun x => x.agent = p).elim 0 fun x =>
          if x.active ∧ x.mode = .barge then s.openMicOf x.supervisor else 0) := by
  unfold Units.outboundOf
  simp only [mixUnits_legs, mixUnits_pos, h, hp, barge_eq, muted_iff, sources_mic]
  split
  next hm => rw [sources_noise hm.1]
  next => rfl

/-! ## Earpiece -/

/-- The trunk receive of a leg after its canceller, as the earpieces take it (R40, R44). -/
def State.cleanOf (s : State) (trunk : List Sample) (n : LegIx) : Int := (s.canFrame trunk n).2.toInt

theorem earSources_clean (s : State) (trunk : List Sample) (n : LegIx) :
    (look (s.earSources trunk).clean n).toInt = s.cleanOf trunk n := by
  rw [State.earSources, look_map, look_ofFn, State.cleanOf]

theorem cleanOf_eq (s : State) (mic trunk : List Sample) (n : LegIx) :
    s.cleanOf trunk n =
      if (look s.can n).state ∈ [.held, .converging, .converged] then
        (limit16 ((trunk.getD n.val 0).toInt -
          echoEstimate (look s.can n).taps
            ((look (s.frame mic trunk).outbound n :: (look s.can n).history).take 1024))).toInt
      else (trunk.getD n.val 0).toInt := by
  rw [State.cleanOf, State.canFrame, mixUnits_can, frame_outbound]
  unfold Canceller.frame
  cases (look s.can n).state <;> rfl

theorem trunkPart_eq (s : State) (trunk : List Sample) (n : Option LegIx) (duck : Nat) :
    s.mixUnits.trunkPart (s.earSources trunk) n duck =
      n.elim 0 fun n =>
        if (look s.legs n).state = .talking then gainDb (-duck) (s.cleanOf trunk n) else 0 := by
  unfold Units.trunkPart
  cases n with
  | none => rfl
  | some n => simp only [mixUnits_legs, earSources_clean]; rfl

theorem cueDuck_eq (s : State) (p : PosIx) :
    s.mixUnits.cueDuck p =
      if (look s.whisper p).playing = .none ∨ (look s.whisper p).playing = .coach then 0
      else (look s.cursors (posCursor p)).snapshot.elim 0 Snapshot.duck := by
  unfold Units.cueDuck
  rw [mixUnits_snapshot, mixUnits_whisper]
  cases (look s.whisper p).playing with
  | none => rfl
  | coach => rfl
  | prompt e => cases (look s.cursors (posCursor p)).snapshot <;> rfl

theorem duck_eq (s : State) (p : PosIx) :
    s.mixUnits.duck p =
      if (look s.whisper p).playing = .coach then (look s.pos p).coachDuck else s.mixUnits.cueDuck p := by
  unfold Units.duck
  rw [cueDuck_eq, mixUnits_whisper, mixUnits_pos]
  cases (look s.whisper p).playing with
  | none => rfl
  | coach => exact Nat.max_eq_right (Nat.zero_le _)
  | prompt e => rfl

theorem coachAudio_eq (s : State) (trunk : List Sample) (p : PosIx) :
    s.mixUnits.coachAudio (s.earSources trunk) p =
      (look s.pos p).coach.elim 0 fun l =>
        if l.side = .agent ∧ l.active then s.openMicOf l.partner else 0 := by
  unfold Units.coachAudio Units.activeCoach
  rw [mixUnits_pos]
  cases (look s.pos p).coach with
  | none => rfl
  | some l =>
    by_cases h : l.side = .agent ∧ l.active
    · simp only [Option.elim, if_pos h, openMic_eq s (s.earSources trunk) _ rfl]
    · simp only [Option.elim, if_neg h]

theorem listenMix_eq (s : State) (trunk : List Sample) (p : PosIx) :
    s.mixUnits.listenMix (s.earSources trunk) p =
      (look s.pos p).coach.elim 0 fun l =>
        if l.side = .supervisor ∧ l.active then
          s.mixUnits.trunkPart (s.earSources trunk) (look s.pos l.partner).bound (s.mixUnits.cueDuck p) +
            s.openMicOf l.partner
        else 0 := by
  unfold Units.listenMix
  rw [mixUnits_pos]
  cases (look s.pos p).coach with
  | none => rfl
  | some l => simp only [Option.elim, openMic_eq s (s.earSources trunk) _ rfl]

theorem earSources_cursor (s : State) (trunk : List Sample) (c : CurIx) :
    look (s.earSources trunk).cursor c = s.sampleOf c := by
  rw [← sources_cursor, State.earSources]

theorem earSources_mic (s : State) (trunk : List Sample) (p : PosIx) :
    (look (s.earSources trunk).mic p).toInt = s.micOf p := sources_mic s p

/-- Settles O29: the part of a frame that each clause names, by its own lemma above. -/
theorem highwayFrameMixesSamples : Obligations.HighwayFrameMixesSamples := by
  intro s mic trunk
  refine ⟨s.frame mic trunk, s.cleanOf trunk, s.mixUnits.trunkPart (s.earSources trunk), rfl,
    cleanOf_eq s mic trunk, fun _ => trunkPart_eq .., fun _ _ => trunkPart_eq .., ?_, ?_, ?_, ?_⟩
  · intro n h
    rw [frame_outbound, outbound_free h]
  · intro n g h hg
    rw [frame_outbound, outbound_group h hg]
  · intro n p h hp
    rw [frame_outbound, outbound_talking h hp]
  · rintro p pos prompt cue rfl rfl hcue
    rw [← cueDuck_eq] at hcue
    rw [frame_earpiece, Units.earpieceOf, mixUnits_pos, Units.earpieceMix]
    simp only [mixUnits_pos, duck_eq, coachAudio_eq, listenMix_eq, earSources_cursor, earSources_mic, hcue]
    cases (look s.pos p).state <;> rfl

end Sys2Proof.Machine
end

section
/-! PROOFS. What one highway frame counts, and how it moves the cursors (O30). -/

namespace Sys2Proof.Machine

/-! ## Ring segments -/

theorem playingSeg_state {r : Vector RingSeg 2} {b : Fin 2} (h : playingSeg r = some b) :
    (look r b).state = .playing := by
  unfold playingSeg at h
  split at h
  · cases h; assumption
  · split at h
    · cases h; assumption
    · cases h

theorem playingSeg_isNone (r : Vector RingSeg 2) :
    (playingSeg r).isNone = decide (∀ b, (look r b).state ≠ .playing) := by
  unfold playingSeg
  by_cases h0 : (look r 0).state = .playing <;> by_cases h1 : (look r 1).state = .playing <;>
    simp [h0, h1, Fin.forall_fin_two]

/-- With the segment `b` no longer FULL or PLAYING, the other plays if it is FULL (R96). -/
theorem playNext_empty {r : Vector RingSeg 2} {b o : Fin 2} {g : RingSeg} (ho : o ≠ b)
    (hg : g.state = .empty) :
    playNext (put r b g) =
      if (look r o).state = .full then put (put r b g) o { look r o with state := .playing }
      else put r b g := by
  have hb : look (put r b g) b = g := look_put_self ..
  have hl : look (put r b g) o = look r o := look_put_of_ne _ ho.symm _
  generalize put r b g = q at hb hl ⊢
  unfold playNext playingSeg nextFull
  match b, o with
  | 0, 1 | 1, 0 => cases hs : (look r _).state <;> simp [hb, hl, hg, hs]
  | 0, 0 | 1, 1 => exact absurd rfl ho

theorem playNext_playing {r : Vector RingSeg 2} {b : Fin 2} (h : (look r b).state = .playing) :
    playNext r = r := by
  unfold playNext playingSeg
  match b with
  | 0 => simp [h]
  | 1 => by_cases h0 : (look r 0).state = .playing <;> simp [h, h0]

/-- What a reading leaves of both segments: the one read is EMPTY after its last sample, and then the other plays
if it is FULL (R96). -/
theorem ringRead_segs {r ring : Vector RingSeg 2} {b o : Fin 2} {xs : List Sample}
    (ho : o ≠ b)
    (hrb : look ring b = { look r b with state := if xs = [] then .empty else .playing, data := xs })
    (hro : look ring o =
      { look r o with
        state := if xs = [] ∧ (look r o).state = .full then .playing else (look r o).state }) :
    ringRead r b xs = ring := by
  have hall : ∀ i, i = b ∨ i = o := by omega
  refine look_ext fun i => ?_
  unfold ringRead
  cases xs with
  | nil =>
    rw [playNext_empty ho rfl]
    obtain rfl | rfl := hall i
    · rw [hrb]
      split <;> simp [look_put, ho]
    · rw [hro]
      split <;> simp [look_put, ho.symm, *]
  | cons x xs =>
    rw [playNext_playing (b := b) (by rw [look_put_self]; rfl)]
    obtain rfl | rfl := hall i
    · rw [hrb, look_put_self]; rfl
    · rw [hro, look_put_of_ne _ ho.symm]; simp

/-- The segment a refill goes to (R94). -/
theorem emptySeg_eq {r : Vector RingSeg 2} {e : Fin 2} (he : (look r e).state = .empty)
    (h : e = 1 → (look r 0).state ≠ .empty) : emptySeg r = some e := by
  unfold emptySeg
  match e with
  | 0 => rw [if_pos he]
  | 1 => rw [if_neg (h rfl), if_pos he]

theorem emptySeg_some {r : Vector RingSeg 2} {e : Fin 2} (h : emptySeg r = some e) :
    (look r e).state = .empty ∧ (e = 1 → (look r 0).state ≠ .empty) := by
  unfold emptySeg at h
  split at h
  next h0 => cases h; exact ⟨h0, nofun⟩
  next h0 =>
    split at h
    next h1 => cases h; exact ⟨h1, fun _ => h0⟩
    next => cases h

/-! ## The next refill -/

theorem issueRefill_cursor (m : Media) (c : CurIx) :
    look (m.issueRefill c).cursors c =
      ((look m.cursors c).nextRefill c m.store).elim (look m.cursors c) (look m.cursors c).refilling := by
  unfold Media.issueRefill
  split
  next h => rw [h]; rfl
  next rf h => rw [h, Media.onStore_cursors, Media.onCur_cursors, look_upd_self]; rfl

theorem issueRefill_mem {m : Media} {c : CurIx} {rf : Refill}
    (h : (look m.cursors c).nextRefill c m.store = some rf) : rf ∈ (m.issueRefill c).store.refills := by
  unfold Media.issueRefill
  obtain ⟨op, erase, hs⟩ := addRefill_eq m.store rf
  simp only [h, Media.onStore_store, Media.onCur_store, hs, List.mem_append, List.mem_singleton, or_true]

theorem issueRefill_router (m : Media) (c : CurIx) : (m.issueRefill c).router = m.router := by
  unfold Media.issueRefill
  split <;> rfl

theorem samplesOf_eq (st : Store) (id : ClipIx) : st.samplesOf id = (st.clip id).elim 0 Clip.samples := by
  unfold Store.samplesOf
  cases st.clip id <;> rfl

/-- Whether a refill into a segment is due (R94). -/
def Cursor.refillDue (cur : Cursor) (ring : Vector RingSeg 2) (samples : Nat) (e : Fin 2) : Prop :=
  cur.refill = none ∧ cur.requested < samples ∧ (look ring e).state = .empty ∧
    (e = 1 → (look ring 0).state ≠ .empty)

section

variable {cur : Cursor} {ring : Vector RingSeg 2} {id : ClipIx} {gain : Int} (c : CurIx) (st : Store)
  (hr : cur.ring = some ring) (hc : cur.clip = some id)
include hr hc

theorem nextRefill_due (hi : cur.item = some (.clip id gain)) {e : Fin 2}
    (h : cur.refillDue ring (st.samplesOf id) e) :
    cur.nextRefill c st =
      some
        { cursor := c, clip := id, seg := e, first := cur.requested
          count := min 256 (st.samplesOf id - cur.requested) } := by
  obtain ⟨hf, hq, he, h0⟩ := h
  have hin : cur.inClip = true := by unfold Cursor.inClip; simp only [hi]
  unfold Cursor.nextRefill
  simp only [hr, hc, hf, emptySeg_eq he h0, hin, hq, and_self, if_true]

theorem nextRefill_not_due (h : ∀ e, ¬ cur.refillDue ring (st.samplesOf id) e) :
    cur.nextRefill c st = none := by
  unfold Cursor.nextRefill
  simp only [hr, hc]
  cases hf : cur.refill with
  | some _ => rfl
  | none =>
    cases he : emptySeg ring with
    | none => simp only [he]
    | some e =>
      have hq : ¬ cur.requested < st.samplesOf id := fun hq => h e ⟨hf, hq, emptySeg_some he⟩
      simp only [he, hq, and_false, if_false]

end

/-! ## A sample read -/

section

variable {m : Media} {c : CurIx} {id : ClipIx} {gain : Int} {r : Vector RingSeg 2} {b : Fin 2} {x : Sample}
  {xs : List Sample} (hr : (look m.cursors c).ring = some r) (hb : playingSeg r = some b)
  (hd : (look r b).data = x :: xs)
include hr hb hd

/-- The cursor's record after a sample has been read and the next refill, if one is due, has been asked for. -/
theorem clipFrame_cursor {cur : Cursor}
    (hcur : cur = (look m.cursors c).read (ringRead r b xs) (m.store.samplesOf id)) :
    look (m.clipFrame c id gain).1.cursors c = (cur.nextRefill c m.store).elim cur cur.refilling ∧
      ∀ rf, cur.nextRefill c m.store = some rf → rf ∈ (m.clipFrame c id gain).1.store.refills := by
  let t := (m.onCur c fun cur => cur.read (ringRead r b xs) (m.store.samplesOf id)).underrunIf
    ((look m.cursors c).starves (ringRead r b xs) (m.store.samplesOf id) && !(look m.cursors c).underrun) c id
  have ht : look t.cursors c = cur := by
    rw [underrunIf_cursors, Media.onCur_cursors, look_upd_self, hcur]
  have hs : t.store = m.store := by unfold t Media.underrunIf; split <;> rfl
  rw [clipFrame_read hr hb hd]
  show look (t.issueRefill c).cursors c = _ ∧ ∀ rf, _ → rf ∈ (t.issueRefill c).store.refills
  rw [← hs, issueRefill_cursor, ht]
  exact ⟨rfl, fun rf h => issueRefill_mem (by rw [ht]; exact h)⟩

theorem clipFrame_router :
    (m.clipFrame c id gain).1.router =
      if (look m.cursors c).starves (ringRead r b xs) (m.store.samplesOf id) &&
          !(look m.cursors c).underrun then
        m.router.record .cursorUnderrun (ownerSubject c) (detail1 (byte id))
      else m.router := by
  rw [clipFrame_read hr hb hd]
  refine (issueRefill_router ..).trans ?_
  unfold Media.underrunIf
  split <;> rfl

end

/-- A cursor in a CLIP item with no segment PLAYING stands still (R97). -/
theorem clipFrame_starved {m : Media} {c : CurIx} {id : ClipIx} {gain : Int}
    (h : ∀ r, (look m.cursors c).ring = some r → ∀ b, (look r b).state ≠ .playing) :
    m.clipFrame c id gain = (m, 0) :=
  clipFrame_still fun r b hr hb => absurd (playingSeg_state hb) (h r hr b)

/-- What the refill issued after a reading leaves, in the words of the statements. -/
theorem asksFor_of {t : State} {c : CurIx} {cur nxt : Cursor} {ring : Vector RingSeg 2} {id : ClipIx} {gain : Int}
    {st : Store} (hr : nxt.ring = some ring) (hc : nxt.clip = some id) (hi : nxt.item = some (.clip id gain))
    (hf : nxt.refill = cur.refill) (hq : nxt.requested = cur.requested) (hs : t.store.clip id = st.clip id)
    (hnew : look t.cursors c = (nxt.nextRefill c st).elim nxt nxt.refilling)
    (hmem : ∀ rf, nxt.nextRefill c st = some rf → rf ∈ t.store.refills) : t.asksFor c cur ring id := by
  unfold State.asksFor
  rw [hs, ← samplesOf_eq, ← hf, ← hq]
  refine ⟨fun e he => ?_, fun hnone => ?_⟩
  · have hn := nextRefill_due c st hr hc hi he
    rw [hn] at hnew
    refine ⟨?_, ?_, ?_, hmem _ hn⟩
    · rw [hnew]
      simp only [Option.elim, Cursor.refilling, hr, Option.map_some]
    · rw [hnew]; rfl
    · rw [hnew]; rfl
  · rw [nextRefill_not_due c st hr hc hnone] at hnew
    rw [hnew]
    exact ⟨hr, rfl, rfl⟩

/-! ## The cancellers and suppressors -/

theorem adaptFrom_num (nonce leg k : Nat) (hs : List HeldSeg) :
    (adaptFrom nonce leg k hs).map HeldSeg.num = hs.map HeldSeg.num := by
  induction hs generalizing k with
  | nil => rfl
  | cons h hs ih => simp only [adaptFrom, List.map_cons, ih]

/-- What a frame keeps of a canceller, and what it counts (R44, R51). -/
theorem can_frame_spec (nonce : Nat) (n : LegIx) (c : Canceller) (outbound trunk : Sample) :
    (c.frame nonce n outbound trunk).1.state = c.state ∧
      (c.frame nonce n outbound trunk).1.history = (outbound :: c.history).take 1024 ∧
      (c.frame nonce n outbound trunk).1.held.map HeldSeg.num = c.held.map HeldSeg.num ∧
      (c.frame nonce n outbound trunk).1.window.count = c.window.count +
        (if c.state = .converging ∨ c.state = .converged then 1 else 0) := by
  unfold Canceller.frame
  cases c.state
  case converging | converged =>
    refine ⟨rfl, rfl, ?_, rfl⟩
    dsimp only
    split
    · exact adaptFrom_num ..
    · rfl
  all_goals exact ⟨rfl, rfl, rfl, rfl⟩

theorem noiseFrame_deliver (c : Suppressor) :
    c.noiseFrame.1.gather = c.gather ∧ c.noiseFrame.1.deliver = c.deliver := by
  unfold Suppressor.noiseFrame
  cases c.generator <;> exact ⟨rfl, rfl⟩


/-! ## The fields a frame leaves -/

section

variable (s : State) (mic trunk : List Sample)

theorem frame_pos (p : PosIx) :
    look (s.frame mic trunk).pos p =
      { look s.pos p with
        linkTimer := (look s.pos p).linkTimer.map (· - 1)
        debounce := (look s.pos p).debounce.map fun d => { d with run := d.run + 1 } } := by
  rw [frame_eq]
  simp only [State.tick, Units.onMedia, look_mapIx, mixUnits_pos]
  rfl

theorem frame_legs (n : LegIx) :
    look (s.frame mic trunk).legs n =
      { look s.legs n with timer := (look s.legs n).timer.map (· - 1) } := by
  rw [frame_eq]
  simp only [State.tick, Units.onMedia, look_mapIx, mixUnits_legs]
  rfl

theorem frame_slots (k : SlotIx) :
    look (s.frame mic trunk).slots k = (look s.slots k).map fun a => { a with left := a.left - 1 } := by
  rw [frame_eq]
  exact look_mapIx ..

theorem frame_sup (p : PosIx) :
    (look (s.frame mic trunk).sup p).gather =
        (look s.sup p).gather ++ (if (look s.pos p).present then [mic.getD p.val 0] else []) ∧
      (look (s.frame mic trunk).sup p).deliver =
        (look s.sup p).deliver.drop (if (look s.pos p).present then 1 else 0) := by
  have hs : look (s.frame mic trunk).sup p =
      if (look s.pos p).present then (s.suppressorOut p).1.intake (slotSample mic p)
      else (s.suppressorOut p).1 := by
    rw [frame_eq]
    refine (look_mapIx ..).trans ?_
    rw [look_map, look_ofFn]
  rw [hs]
  cases h : (look s.pos p).present
  case true =>
    obtain ⟨hg, hd⟩ := noiseFrame_deliver (look s.sup p).micFrame.1
    rw [suppressorOut_present h]
    exact ⟨congrArg (· ++ [_]) (hg.trans (by rw [micFrame_eq])), hd.trans (by rw [micFrame_eq]; rfl)⟩
  case false =>
    rw [suppressorOut_absent h]
    exact ⟨(List.append_nil _).symm, rfl⟩

theorem frame_cursors : (s.frame mic trunk).cursors = s.toMedia.cursorsFrame.1.cursors := by
  rw [frame_eq]
  simp only [State.tick, Units.onMedia, mixUnits_toMedia]

theorem frame_store : (s.frame mic trunk).store = s.toMedia.cursorsFrame.1.store.tick := by
  rw [frame_eq]
  simp only [State.tick, Units.onMedia, mixUnits_toMedia]

theorem frame_router : (s.frame mic trunk).router = s.toMedia.cursorsFrame.1.router.tick := by
  rw [frame_eq]
  simp only [State.tick, Units.onMedia, mixUnits_toMedia]

/-- What a frame leaves as it is. -/
theorem frame_keeps :
    (s.frame mic trunk).whisper = s.whisper ∧ (s.frame mic trunk).groups = s.groups ∧
      (s.frame mic trunk).pairs = s.pairs ∧ (s.frame mic trunk).cues = s.cues ∧
      (s.frame mic trunk).pool = s.pool ∧ (s.frame mic trunk).flash = s.flash ∧
      (s.frame mic trunk).pending = s.pending ∧ (s.frame mic trunk).postings = s.postings := by
  have h := cursorsFrame_framed s.toMedia
  rw [frame_eq]
  simp only [State.tick, Units.onMedia, mixUnits_toMedia]
  exact ⟨mixUnits_whisper s, by rw [State.mixUnits], mixUnits_pairs s, h.cues, h.pool,
    trivial, trivial, h.postings⟩

theorem frame_link :
    (s.frame mic trunk).link =
      { s.link with gap := if s.link.assembler = .hunting then 0 else s.link.gap + 1 } := by
  rw [frame_eq]
  simp only [State.tick]
  cases s.link.assembler <;> rfl

theorem tick_notices (r : Router) : r.tick.notices = r.notices ∧ r.tick.overflow = r.overflow := by
  unfold Router.tick
  split <;> exact ⟨rfl, rfl⟩

theorem frame_router_eq :
    (s.frame mic trunk).router =
      { s.router with
        phase := if 7 ≤ s.router.phase then 0 else s.router.phase + 1
        stamp := if 7 ≤ s.router.phase then s.router.stamp + 1 else s.router.stamp
        notices := (s.frame mic trunk).router.notices, overflow := (s.frame mic trunk).router.overflow } := by
  obtain ⟨ns, b, hr⟩ := (cursorsFrame_framed s.toMedia).router
  rw [frame_router, hr]
  unfold Router.tick
  by_cases h : 7 ≤ s.router.phase
  · simp only [if_pos h]
  · simp only [if_neg h]

theorem frame_clip (id : ClipIx) : (s.frame mic trunk).store.clip id = s.store.clip id := by
  have tick_clip : ∀ st : Store, st.tick.clip id = st.clip id := fun _ => rfl
  rw [frame_store, tick_clip, (cursorsFrame_framed s.toMedia).clip id]

theorem frame_quiet : (s.frame mic trunk).store.quiet = s.store.quiet.map (· - 1) := by
  obtain ⟨rs, op, erase, hs⟩ := (cursorsFrame_framed s.toMedia).store
  rw [frame_store, hs]
  rfl

/-- With no cursor playing, a frame adds nothing but time to the store and the router. -/
theorem frame_idle (h : ∀ c, (look s.cursors c).state ≠ .playing) :
    (s.frame mic trunk).cursors = s.cursors ∧
      (s.frame mic trunk).router.notices = s.router.notices ∧
      (s.frame mic trunk).router.overflow = s.router.overflow ∧
      (∀ p, s.store.op = .program p →
        (s.frame mic trunk).store.op = .program { p with run := p.run + 1 }) ∧
      (∀ e, s.store.erase = some e →
        (s.frame mic trunk).store.erase =
          some (if e.phase = .running then { e with run := e.run + 1, since := e.since + 1 } else e)) := by
  rw [frame_cursors, frame_router, frame_store, cursorsFrame_idle h]
  refine ⟨rfl, (tick_notices _).1, (tick_notices _).2, fun p hp => ?_, fun e he => ?_⟩
  · simp only [Store.tick, hp]
  · simp only [Store.tick, he, Option.map_some]

/-! ## How a frame moves a cursor -/

/-- The frame of one cursor, as the frame of all leaves its record, the refills and the notice queue. -/
theorem frame_cursor_at (c : CurIx) :
    ∃ m : Media, s.toMedia.Framed m ∧ look m.cursors c = look s.cursors c ∧
      look (s.frame mic trunk).cursors c = look (m.cursorFrame c).1.cursors c ∧
      (∀ rf ∈ (m.cursorFrame c).1.store.refills, rf ∈ (s.frame mic trunk).store.refills) ∧
      ((∀ d, d ≠ c → (look s.cursors d).state ≠ .playing) →
        m = s.toMedia ∧
        (s.frame mic trunk).router.notices = (m.cursorFrame c).1.router.notices ∧
        (s.frame mic trunk).store.refills = (m.cursorFrame c).1.store.refills) := by
  obtain ⟨m, hf, hc, hg, hcur, -, honly⟩ := cursorsFrame_at s.toMedia c
  obtain ⟨rs, op, erase, hs⟩ := hg.store
  refine ⟨m, hf, hc, by rw [frame_cursors, hcur], fun rf h => ?_, fun h => ?_⟩
  · rw [frame_store, hs]
    exact List.mem_append_left _ h
  · obtain ⟨rfl, hall⟩ := honly h
    rw [frame_router, frame_store, hall]
    exact ⟨rfl, (tick_notices _).1, rfl⟩

theorem frame_cursor_still {c : CurIx}
    (h : (look s.cursors c).state ≠ .playing ∨ (look s.cursors c).atEnd s.store = true) :
    look (s.frame mic trunk).cursors c = look s.cursors c := by
  obtain ⟨m, hf, hc, ht, -⟩ := frame_cursor_at s mic trunk c
  rw [ht, cursorFrame_still (by rw [hc, hf.atEnd]; exact h), hc]

section

variable {c : CurIx} (hp : (look s.cursors c).state = .playing) (he : (look s.cursors c).atEnd s.store = false)
include hp he

theorem frame_cursor_tone {k : Fin 8} {ms : Nat} (hi : (look s.cursors c).item = some (.tone k ms)) :
    look (s.frame mic trunk).cursors c =
      { look s.cursors c with
        place := (look s.cursors c).place - 1, phase := (look s.cursors c).phase + 50 * toneHz k } := by
  obtain ⟨m, hf, hc, ht, -⟩ := frame_cursor_at s mic trunk c
  rw [← hc] at hp hi
  rw [ht, cursorFrame_tone hp (by rw [hc, hf.atEnd]; exact he) hi, Media.onCur_cursors, look_upd_self, hc]

theorem frame_cursor_silence
    (hi : (look s.cursors c).item = none ∨ ∃ ms, (look s.cursors c).item = some (.silence ms)) :
    look (s.frame mic trunk).cursors c =
      { look s.cursors c with place := (look s.cursors c).place - 1 } := by
  obtain ⟨m, hf, hc, ht, -⟩ := frame_cursor_at s mic trunk c
  rw [← hc] at hp hi
  rw [ht, cursorFrame_silence hp (by rw [hc, hf.atEnd]; exact he) hi, Media.onCur_cursors, look_upd_self, hc]

/-- In an underrun, or before the first refill, a cursor stands still and nothing is entered or asked for. -/
theorem frame_cursor_starved {id : ClipIx} {gain : Int} (hi : (look s.cursors c).item = some (.clip id gain))
    (hn : ∀ r, (look s.cursors c).ring = some r → ∀ b, (look r b).state ≠ .playing) :
    look (s.frame mic trunk).cursors c = look s.cursors c ∧
      ((∀ d, d ≠ c → (look s.cursors d).state ≠ .playing) →
        (s.frame mic trunk).router.notices = s.router.notices ∧
          (s.frame mic trunk).store.refills = s.store.refills) := by
  obtain ⟨m, hf, hc, ht, -, honly⟩ := frame_cursor_at s mic trunk c
  rw [← hc] at hp hi hn
  have hframe : m.cursorFrame c = (m, 0) :=
    (cursorFrame_clip hp (by rw [hc, hf.atEnd]; exact he) hi).trans (clipFrame_starved hn)
  refine ⟨by rw [ht, hframe, hc], fun h => ?_⟩
  obtain ⟨rfl, hnotices, hrefills⟩ := honly h
  rw [hnotices, hrefills, hframe]
  exact ⟨rfl, rfl⟩

/-- A sample read: the offset moves on, and the underrun mark, the ring and the next refill follow. -/
theorem frame_cursor_reads {cur : Cursor} {id : ClipIx} {gain : Int} {r : Vector RingSeg 2} {b : Fin 2}
    {x : Sample} {xs : List Sample} (hcur : cur = look s.cursors c) (hi : cur.item = some (.clip id gain))
    (hr : cur.ring = some r) (hb : playingSeg r = some b) (hd : (look r b).data = x :: xs) :
    (look (s.frame mic trunk).cursors c).place = cur.place + 1 ∧
      (look (s.frame mic trunk).cursors c).index = cur.index ∧
      (look (s.frame mic trunk).cursors c).state = .playing ∧
      (look (s.frame mic trunk).cursors c).snapshot = cur.snapshot ∧
      (look (s.frame mic trunk).cursors c).clip = cur.clip ∧
      (look (s.frame mic trunk).cursors c).underrun =
        (cur.underrun || cur.starves (ringRead r b xs) (s.store.samplesOf id)) ∧
      (cur.clip = some id → (s.frame mic trunk).asksFor c cur (ringRead r b xs) id) ∧
      ((∀ d, d ≠ c → (look s.cursors d).state ≠ .playing) →
        (s.frame mic trunk).router.notices =
          (if cur.starves (ringRead r b xs) (s.store.samplesOf id) && !cur.underrun then
            s.router.record .cursorUnderrun (ownerSubject c) (detail1 (byte id))
          else s.router).notices) := by
  obtain ⟨m, hf, hc, ht, hmem, honly⟩ := frame_cursor_at s mic trunk c
  subst hcur
  rw [← hc] at hp hi hr ⊢
  have hframe : m.cursorFrame c = m.clipFrame c id gain :=
    cursorFrame_clip hp (by rw [hc, hf.atEnd]; exact he) hi
  rw [hframe] at ht hmem honly
  let nxt := (look m.cursors c).read (ringRead r b xs) (m.store.samplesOf id)
  obtain ⟨hnew, hrf⟩ := clipFrame_cursor (id := id) (gain := gain) hr hb hd (cur := nxt) rfl
  rw [ht, hnew, ← hf.samplesOf]
  have keeps : ∀ {α : Type} (f : Cursor → α), (∀ cur rf, f (Cursor.refilling cur rf) = f cur) →
      f ((nxt.nextRefill c m.store).elim nxt nxt.refilling) = f nxt := by
    intro α f h
    cases nxt.nextRefill c m.store with
    | none => rfl
    | some rf => exact h nxt rf
  refine ⟨keeps _ fun _ _ => rfl, keeps _ fun _ _ => rfl, (keeps _ fun _ _ => rfl).trans hp, keeps _ fun _ _ => rfl,
    keeps _ fun _ _ => rfl, keeps _ fun _ _ => rfl, fun hclip => ?_, fun h => ?_⟩
  · exact asksFor_of (nxt := nxt) rfl hclip hi rfl rfl ((frame_clip s mic trunk id).trans (hf.clip id).symm)
      (ht.trans hnew) fun rf h => hmem rf (hrf rf h)
  · obtain ⟨rfl, hnotices, -⟩ := honly h
    rw [hnotices, clipFrame_router hr hb hd]

end

end

/-- Settles O30: the fields of a frame and the moves of a cursor, by the lemmas above. -/
theorem highwayFrameCountsTime : Obligations.HighwayFrameCountsTime := by
  intro s mic trunk
  obtain ⟨hwhisper, hgroups, hpairs, hcues, hpool, hflash, hpending, hpostings⟩ := frame_keeps s mic trunk
  refine ⟨s.frame mic trunk, rfl, frame_pos s mic trunk, frame_legs s mic trunk, frame_slots s mic trunk,
    fun n => ?_, frame_sup s mic trunk, ?_, hwhisper, hgroups, hpairs, hcues, hpool, hflash, hpending, hpostings,
    frame_link s mic trunk, frame_quiet s mic trunk, frame_router_eq s mic trunk, frame_idle s mic trunk⟩
  · have h := can_frame_spec s.mixUnits.nonce n (look s.can n) (look (s.frame mic trunk).outbound n)
      (slotSample trunk n)
    rw [frame_can, State.canFrame, mixUnits_can, ← frame_outbound s mic trunk]
    exact h
  · rintro c cur rfl
    refine ⟨frame_cursor_still s mic trunk, fun hp he => ⟨fun k ms => frame_cursor_tone s mic trunk hp he,
      frame_cursor_silence s mic trunk hp he, fun id gain => frame_cursor_starved s mic trunk hp he, ?_⟩⟩
    intro id gain r b x xs hi hr hb hd
    obtain ⟨hplace, hindex, hstate, hsnap, hclip, hunder, hasks, hnotices⟩ :=
      frame_cursor_reads s mic trunk hp he rfl hi hr hb hd
    refine ⟨hplace, hindex, hstate, hsnap, hclip, fun o ring starved hc ho hrb hro hst => ?_⟩
    have hring := ringRead_segs ho hrb hro
    have hs : starved = (look s.cursors c).starves ring (s.store.samplesOf id) := by
      rw [hst, Cursor.starves, playingSeg_isNone, Bool.and_comm]
    rw [hring, ← hs] at hunder hnotices
    exact ⟨hring ▸ hasks hc, hunder, hnotices⟩

end Sys2Proof.Machine
end

section
/-! PROOFS. What hold groups and prompts leave of legs and whisper states: the layer below a headset loss. -/

namespace Sys2Proof.Machine

/-! ## Members of a hold group -/

section

variable (u : Units) (g : GroupIx) (n : LegIx)

theorem startTest_legs : (u.startTest g).legs = u.legs := by
  unfold Units.startTest
  dsimp only
  split
  · rfl
  · split <;> rfl

theorem startTest_whisper : (u.startTest g).whisper = u.whisper := by
  unfold Units.startTest
  dsimp only
  split
  · rfl
  · split <;> rfl

theorem startTest_members (h : GroupIx) :
    (look (u.startTest g).groups h).members = (look u.groups h).members := by
  unfold Units.startTest
  dsimp only
  split
  · rfl
  · split
    · rw [Units.onMedia_groups, Units.onGroup_groups, look_upd]
      split
      next hg => rw [hg]
      next => rfl
    · rfl

theorem leave_legs : (u.leave g n).legs = u.legs := by
  unfold Units.leave
  dsimp only
  split <;> rfl

theorem leave_whisper : (u.leave g n).whisper = u.whisper := by
  unfold Units.leave
  dsimp only
  split <;> rfl

theorem lastLeave_members (h : GroupIx) :
    (look (u.lastLeave g).groups h).members = (look u.groups h).members := by
  unfold Units.lastLeave
  dsimp only
  rw [Units.onGroup_groups, Units.onMedia_groups, look_upd]
  split
  next hg => rw [hg]
  next => rfl

theorem leave_members (h : GroupIx) :
    (look (u.leave g n).groups h).members =
      if g = h then (look u.groups h).members.filter (· ≠ n) else (look u.groups h).members := by
  have hs : (look (u.onGroup g fun gr => { gr with members := gr.members.filter (· ≠ n) }).groups h).members =
      if g = h then (look u.groups h).members.filter (· ≠ n) else (look u.groups h).members := by
    rw [Units.onGroup_groups, look_upd]
    split
    next hg => rw [hg]
    next => rfl
  unfold Units.leave
  dsimp only
  split
  · rw [lastLeave_members, hs]
  · exact hs

theorem join_legs : (u.join g n).legs = u.legs := startTest_legs ..
theorem join_whisper : (u.join g n).whisper = u.whisper := startTest_whisper ..

theorem join_members : (look (u.join g n).groups g).members = (look u.groups g).members ++ [n] := by
  rw [Units.join, startTest_members, Units.onGroup_groups, look_upd_self]

variable (old : Option GroupIx)

theorem moveTo_legs : (u.moveTo old g n).legs = u.legs := by
  unfold Units.moveTo
  split
  · exact join_legs ..
  · split
    · rfl
    · rw [join_legs, leave_legs]

theorem moveTo_whisper : (u.moveTo old g n).whisper = u.whisper := by
  unfold Units.moveTo
  split
  · exact join_whisper ..
  · split
    · rfl
    · rw [join_whisper, leave_whisper]

/-- A leg moved to a group stands at its tail (R23). -/
theorem moveTo_tail : (look (u.moveTo old g n).groups g).members.getLast? = some n := by
  unfold Units.moveTo
  split
  · rw [join_members, List.getLast?_concat]
  · split
    · rw [Units.moveTail, Units.onGroup_groups, look_upd_self, List.getLast?_concat]
    · rw [join_members, List.getLast?_concat]

end

/-- The last of a list stays last where others are taken out. -/
theorem getLast?_filter_of_ne {α : Type} [DecidableEq α] {l : List α} {a x : α}
    (h : l.getLast? = some a) (hx : a ≠ x) :
    (l.filter (· ≠ x)).getLast? = some a := by
  obtain ⟨l', rfl⟩ := List.getLast?_eq_some_iff.mp h
  simp [List.filter_append, hx]

/-! ## Prompts of one position -/

/-- Whether a leg waits for the report of its connect entry (R29). -/
def Leg.awaits (l : Leg) : Prop := l.state = .connecting ∧ l.connectRef = true

/-- What the prompts of a position `q` can do beside what `Units.Keeps` says: other positions keep their whisper
states, and a leg that waits for no report keeps its record and, if it has one, its place at a group's tail. -/
structure Units.ActsAt (q : PosIx) (u t : Units) : Prop where
  whisper : ∀ p, p ≠ q → look t.whisper p = look u.whisper p
  leg : ∀ n, ¬ (look u.legs n).awaits → look t.legs n = look u.legs n
  tail : ∀ n, ¬ (look u.legs n).awaits → ∀ g,
    (look u.groups g).members.getLast? = some n → (look t.groups g).members.getLast? = some n

namespace Units.ActsAt

variable {q : PosIx} {u t v : Units}

theorem of_eq (hw : ∀ p, p ≠ q → look t.whisper p = look u.whisper p) (hl : t.legs = u.legs)
    (hg : t.groups = u.groups) : u.ActsAt q t :=
  ⟨hw, fun _ _ => by rw [hl], fun _ _ _ h => by rw [hg]; exact h⟩

theorem refl : u.ActsAt q u := of_eq (fun _ _ => rfl) rfl rfl

theorem trans (h : u.ActsAt q t) (k : t.ActsAt q v) : u.ActsAt q v where
  whisper p hp := (k.whisper p hp).trans (h.whisper p hp)
  leg n hn := (k.leg n (by rw [h.leg n hn]; exact hn)).trans (h.leg n hn)
  tail n hn g hg := k.tail n (by rw [h.leg n hn]; exact hn) g (h.tail n hn g hg)

end Units.ActsAt

section

variable (u : Units) (q : PosIx)

theorem onWhisper_acts (f : Whisper → Whisper) : u.ActsAt q (u.onWhisper q f) :=
  .of_eq (fun _ hp => look_upd_of_ne _ hp.symm _) rfl rfl

theorem onMedia_acts (f : Media → Media) : u.ActsAt q (u.onMedia f) := .of_eq (fun _ _ => rfl) rfl rfl

theorem raise_acts (k : EventKind) (x : Subject) (d : BitVec 16) (t : Option PosIx) :
    u.ActsAt q (u.raise k x d t) := onMedia_acts ..

theorem cutThrough_acts {n : LegIx} (cause : CutCause) (h : (look u.legs n).awaits) :
    u.ActsAt q (u.cutThrough n cause) := by
  have hne : ∀ m, ¬ (look u.legs m).awaits → n ≠ m := fun m hm e => hm (e ▸ h)
  let v := u.onLeg n fun l =>
    { l with state := .talking, group := none, parkTime := none, timer := none, connectRef := false }
  have hv : u.ActsAt q v :=
    ⟨fun _ _ => rfl, fun m hm => look_upd_of_ne _ (hne m hm) _, fun _ _ _ hg => hg⟩
  unfold Units.cutThrough
  dsimp only
  refine .trans ?_ (raise_acts ..)
  refine .trans ?_ (onMedia_acts ..)
  split
  next g _ =>
    refine ⟨fun p hp => by rw [leave_whisper]; exact hv.whisper p hp,
      fun m hm => by rw [leave_legs]; exact hv.leg m hm, fun m hm g' hg => ?_⟩
    rw [leave_members]
    split
    · exact getLast?_filter_of_ne hg (hne m hm).symm
    · exact hg
  next => exact hv

theorem connectReport_acts (p : PosIx) (cause : CutCause) : u.ActsAt q (u.connectReport p cause) := by
  unfold Units.connectReport
  dsimp only
  split
  · exact .refl
  · split
    next h => exact cutThrough_acts u q cause h
    · exact .refl

theorem startEntry_acts (e : Entry) : u.ActsAt q (u.startEntry q e).1 :=
  .of_eq (fun _ hp => look_upd_of_ne _ hp.symm _) rfl rfl

theorem completeEntry_acts (e : Entry) : u.ActsAt q (u.completeEntry q e) := by
  unfold Units.completeEntry
  dsimp only
  split
  · exact (onWhisper_acts u q _).trans (connectReport_acts ..)
  · exact (onWhisper_acts u q _).trans (raise_acts ..)

theorem pushPlaying_acts (byCoach : Bool) : u.ActsAt q (u.pushPlaying q byCoach) := by
  unfold Units.pushPlaying
  split
  · exact .refl
  · exact .refl
  · dsimp only
    refine .trans ?_ (onWhisper_acts ..)
    split <;> exact .of_eq (fun _ _ => rfl) rfl rfl

theorem nextLoop_acts (fuel : Nat) : u.ActsAt q (u.nextLoop q fuel) := by
  induction fuel generalizing u with
  | zero => exact .refl
  | succ fuel ih =>
    have go : ∀ (v : Units) (e : Entry), u.ActsAt q v →
        u.ActsAt q (if (v.startEntry q e).2 = true then
          ((v.startEntry q e).1.completeEntry q e).nextLoop q fuel else (v.startEntry q e).1) := by
      intro v e h
      split
      · exact ((h.trans (startEntry_acts ..)).trans (completeEntry_acts ..)).trans (ih _)
      · exact h.trans (startEntry_acts ..)
    unfold Units.nextLoop
    dsimp only
    split
    · split
      · refine go _ _ (.trans ?_ (onWhisper_acts ..))
        split
        · exact .of_eq (fun _ _ => rfl) rfl rfl
        · exact .refl
      · split
        · exact ((onWhisper_acts u q _).trans (onWhisper_acts ..)).trans (onMedia_acts ..)
        · exact go _ _ (onWhisper_acts ..)
    · exact go _ _ (onWhisper_acts ..)
    · exact .refl

theorem next_acts : u.ActsAt q (u.next q) := by
  unfold Units.next
  dsimp only
  split
  · exact nextLoop_acts ..
  · exact .refl
  · exact .refl

theorem startHead_acts : u.ActsAt q (u.startHead q) := by
  unfold Units.startHead
  split
  · exact .refl
  · dsimp only
    split
    · exact (((onWhisper_acts u q _).trans (startEntry_acts ..)).trans (completeEntry_acts ..)).trans
        (next_acts ..)
    · exact (onWhisper_acts u q _).trans (startEntry_acts ..)

theorem schedule_acts : u.ActsAt q (u.schedule q) := by
  unfold Units.schedule
  split
  · exact startHead_acts ..
  · exact .refl
  · split
    · exact (pushPlaying_acts ..).trans (startHead_acts ..)
    · exact .refl

theorem post_acts (cue : CueIx) (lvl : Level) (o : Origin) : u.ActsAt q (u.post q cue lvl o).1 := by
  unfold Units.post
  split
  · exact raise_acts ..
  · exact (onWhisper_acts u q _).trans (schedule_acts ..)

theorem removeEntries_acts (f : Entry → Bool) : u.ActsAt q (u.removeEntries q f).1 := by
  unfold Units.removeEntries
  dsimp only
  split
  · exact (onWhisper_acts u q _).trans (onMedia_acts ..)
  · exact onWhisper_acts ..

theorem removeConnect_acts : u.ActsAt q (u.removeConnect q) := by
  unfold Units.removeConnect
  dsimp only
  split
  · exact (removeEntries_acts ..).trans (next_acts ..)
  · exact removeEntries_acts ..

theorem emptyWhisper_acts : u.ActsAt q (u.emptyWhisper q) :=
  (removeEntries_acts ..).trans (onWhisper_acts ..)

theorem dropCoach_acts : u.ActsAt q (u.dropCoach q) := by
  unfold Units.dropCoach
  split
  · exact (onWhisper_acts u q _).trans (next_acts ..)
  · exact .refl
  · exact .refl

end

/-! ## Settling -/

/-- A posting for an ABSENT position is dropped (R121). -/
theorem post_absent {u : Units} {p : PosIx} (h : (look u.pos p).state = .absent) (cue : CueIx) (lvl : Level)
    (o : Origin) : (u.post p cue lvl o).1.whisper = u.whisper := by
  have hd : u.dropReason p cue = some .state := by
    unfold Units.dropReason
    exact if_pos (.inl h)
  unfold Units.post
  simp only [hd]
  rfl

/-- What settling leaves: the whisper states of ABSENT positions, and the legs that wait for no report. -/
theorem settle_acts (u : Units) :
    (∀ p, (look u.pos p).state = .absent → look u.settle.whisper p = look u.whisper p) ∧
      (∀ n, ¬ (look u.legs n).awaits → look u.settle.legs n = look u.legs n) ∧
      ∀ n, ¬ (look u.legs n).awaits → ∀ g, (look u.groups g).members.getLast? = some n →
        (look u.settle.groups g).members.getLast? = some n := by
  suffices h : ∀ (xs : List Posting) (v : Units),
      (∀ p, (look v.pos p).state = .absent → look (xs.foldl Units.postRouted v).whisper p = look v.whisper p) ∧
      (∀ n, ¬ (look v.legs n).awaits → look (xs.foldl Units.postRouted v).legs n = look v.legs n) ∧
      ∀ n, ¬ (look v.legs n).awaits → ∀ g, (look v.groups g).members.getLast? = some n →
        (look (xs.foldl Units.postRouted v).groups g).members.getLast? = some n from
    h u.postings { u with postings := [] }
  intro xs
  induction xs with
  | nil => exact fun v => ⟨fun _ _ => rfl, fun _ _ => rfl, fun _ _ _ h => h⟩
  | cons x xs ih =>
    intro v
    have hk := post_keeps v x.pos x.cue x.level .route
    have ha := post_acts v x.pos x.cue x.level .route
    obtain ⟨hw, hl, ht⟩ := ih (v.postRouted x)
    have hpos : (v.postRouted x).pos = v.pos := hk.pos
    refine ⟨fun p hp => (hw p (by rw [hpos]; exact hp)).trans ?_, fun n hn => ?_, fun n hn g hg => ?_⟩
    · by_cases hx : p = x.pos
      · subst hx
        exact congrArg (look · x.pos) (post_absent hp ..)
      · exact ha.whisper p hx
    · have hleg : look (v.postRouted x).legs n = look v.legs n := ha.leg n hn
      exact (hl n (by rw [hleg]; exact hn)).trans hleg
    · have hleg : look (v.postRouted x).legs n = look v.legs n := ha.leg n hn
      exact ht n (by rw [hleg]; exact hn) g (ha.tail n hn g hg)

end Sys2Proof.Machine
end

section
/-! PROOFS. What raises no event while nothing waits for segments, and the steps of a headset loss: auto-park
and the end of a coach pair. -/

namespace Sys2Proof.Machine

/-! ## Stopping a cursor while nothing waits for segments -/

/-- A change at one cursor that raises nothing and lets nobody wait, so long as nobody waits before it. -/
structure Media.Quiet (c : CurIx) (m t : Media) : Prop where
  router : m.pool.wait = [] → t.router = m.router
  wait : m.pool.wait = [] → t.pool.wait = []
  cursor : m.pool.wait = [] → ∀ d, d ≠ c → look t.cursors d = look m.cursors d

namespace Media.Quiet

variable {c : CurIx} {m t v : Media}

theorem refl : m.Quiet c m := ⟨fun _ => rfl, id, fun _ _ _ => rfl⟩

theorem trans (h : m.Quiet c t) (k : t.Quiet c v) : m.Quiet c v where
  router hm := (k.router (h.wait hm)).trans (h.router hm)
  wait hm := k.wait (h.wait hm)
  cursor hm d hd := (k.cursor (h.wait hm) d hd).trans (h.cursor hm d hd)

end Media.Quiet

section

variable (legs : Vector Leg 64) (m : Media) (c : CurIx)

/-- A pass with an empty wait list does nothing (R77). -/
theorem pass_of_wait_nil {m : Media} (h : m.pool.wait = []) : m.pass legs = m := by
  simp only [Media.pass, Media.passLoop, h]

theorem onCur_quiet (f : Cursor → Cursor) : m.Quiet c (m.onCur c f) :=
  ⟨fun _ => rfl, id, fun _ _ hd => look_upd_of_ne _ hd.symm _⟩

theorem onStore_quiet (f : Store → Store) : m.Quiet c (m.onStore f) := ⟨fun _ => rfl, id, fun _ _ _ => rfl⟩

theorem dropReference_quiet : m.Quiet c (m.dropReference c) := by
  unfold Media.dropReference
  split
  · exact .refl
  · exact (onCur_quiet ..).trans (onStore_quiet ..)

theorem withdrawRefill_quiet : m.Quiet c (m.withdrawRefill c) := (onCur_quiet ..).trans (onStore_quiet ..)

theorem release_quiet (segs : List SegIx) : m.Quiet c (m.release legs segs) := by
  have pass (h : m.pool.wait = []) : m.release legs segs = m.onPool fun p => p.mark segs .free :=
    pass_of_wait_nil legs h
  exact ⟨fun h => by rw [pass h]; rfl, fun h => by rw [pass h]; exact h, fun h _ _ => by rw [pass h]; rfl⟩

theorem withdraw_quiet (who : Requester) : m.Quiet c (m.withdraw legs who) := by
  have same (h : m.pool.wait = []) : m.withdraw legs who = m := by
    unfold Media.withdraw
    rw [Pool.waits, h]
    rfl
  exact ⟨fun h => by rw [same h], fun h => by rw [same h]; exact h, fun h _ _ => by rw [same h]⟩

theorem giveRing_quiet : m.Quiet c (m.giveRing legs c) := by
  unfold Media.giveRing
  split
  · exact (onCur_quiet ..).trans (release_quiet ..)
  · exact withdraw_quiet ..

theorem stopCursor_quiet : m.Quiet c (m.stopCursor legs c) := by
  unfold Media.stopCursor
  split
  · exact .refl
  · exact ((dropReference_quiet ..).trans (withdrawRefill_quiet ..)).trans
      ((giveRing_quiet ..).trans (onCur_quiet ..))

end

/-! ## Hold groups while nothing waits -/

theorem groupCursor_injective : Function.Injective groupCursor := fun _ _ h => Fin.ext (Fin.mk.inj h)

section

variable (u : Units)

theorem leave_quiet (o : GroupIx) (n : LegIx) :
    u.toMedia.Quiet (groupCursor o) (u.leave o n).toMedia := by
  unfold Units.leave
  dsimp only
  split
  · exact stopCursor_quiet ..
  · exact .refl

theorem lastLeave_source (o g : GroupIx) : (look (u.lastLeave o).groups g).source = (look u.groups g).source := by
  unfold Units.lastLeave
  dsimp only
  rw [Units.onGroup_groups, Units.onMedia_groups, look_upd]
  split
  next hg => rw [hg]
  next => rfl

theorem leave_source (o g : GroupIx) (n : LegIx) :
    (look (u.leave o n).groups g).source = (look u.groups g).source := by
  have hs : (look (u.onGroup o fun gr => { gr with members := gr.members.filter (· ≠ n) }).groups g).source =
      (look u.groups g).source := by
    rw [Units.onGroup_groups, look_upd]
    split
    next hg => rw [hg]
    next => rfl
  unfold Units.leave
  dsimp only
  split
  · rw [lastLeave_source, hs]
  · exact hs

/-- What keeps a join from starting the group's cursor (R105). -/
def Units.startsNone (g : GroupIx) : Prop :=
  (look u.cursors (groupCursor g)).state ≠ .stopped ∨ (look u.groups g).source = none

theorem startTest_of_startsNone {u : Units} {g : GroupIx} (h : u.startsNone g) : u.startTest g = u := by
  unfold Units.startTest
  dsimp only
  split
  · rfl
  next q hq =>
    have hsource : (look u.groups g).source ≠ none := by
      intro hn
      unfold Units.playable at hq
      rw [hn] at hq
      cases hq
    exact if_neg fun hc => h.resolve_right hsource hc.1

theorem join_toMedia {u : Units} {g : GroupIx} (n : LegIx) (h : u.startsNone g) :
    (u.join g n).toMedia = u.toMedia := by
  unfold Units.join
  rw [startTest_of_startsNone]
  · rfl
  · unfold Units.startsNone at h ⊢
    rwa [Units.onGroup_groups, look_upd_self]

theorem moveTo_quiet {old : Option GroupIx} {g : GroupIx} (n : LegIx) (h : u.pool.wait = [])
    (hg : u.startsNone g) :
    (u.moveTo old g n).router = u.router ∧ (u.moveTo old g n).pool.wait = [] := by
  unfold Units.moveTo
  split
  · rw [join_toMedia n hg]
    exact ⟨rfl, h⟩
  next o =>
    split
    · exact ⟨rfl, h⟩
    next ho =>
      have hl := leave_quiet u o n
      have hne : groupCursor g ≠ groupCursor o := fun e => ho (groupCursor_injective e).symm
      have hl' : (u.leave o n).startsNone g := by
        unfold Units.startsNone at hg ⊢
        rwa [hl.cursor h _ hne, leave_source]
      rw [join_toMedia n hl']
      exact ⟨hl.router h, hl.wait h⟩

end

/-! ## Auto-park -/

section

variable (u : Units) (p : PosIx) (n : LegIx)

/-- A leg whose connect timer and reference are cleared where it is CONNECTING (R32, R33 step 1). -/
def Leg.cancelled (l : Leg) : Leg :=
  { l with
    timer := if l.state = .connecting then none else l.timer
    connectRef := if l.state = .connecting then false else l.connectRef }

theorem cancelled_not_awaits (l : Leg) : ¬ l.cancelled.awaits := by
  rintro ⟨hs, hc⟩
  have hs : l.state = .connecting := hs
  simp [Leg.cancelled, hs] at hc

theorem cancelConnect_of_talking {u : Units} {n : LegIx} (h : (look u.legs n).state = .talking) :
    u.cancelConnect n = u := by
  unfold Units.cancelConnect
  exact if_neg (by rw [h]; decide)

theorem cancelConnect_keeps : u.Keeps (u.cancelConnect n) := by
  unfold Units.cancelConnect
  dsimp only
  split
  · split
    · exact (units_onLeg_keeps ..).trans (removeConnect_keeps ..)
    · exact units_onLeg_keeps ..
  · exact .refl

/-- What the cancelling of a bound leg's connect does to its record, and leaves of other whisper states. -/
theorem cancelConnect_bound {u : Units} {p : PosIx} {n : LegIx} (h : (look u.legs n).bound = some p) :
    look (u.cancelConnect n).legs n = (look u.legs n).cancelled ∧
      ∀ q, q ≠ p → look (u.cancelConnect n).whisper q = look u.whisper q := by
  unfold Units.cancelConnect
  dsimp only
  by_cases hs : (look u.legs n).state = .connecting
  · simp only [hs, if_true, h]
    let v := u.onLeg n fun l => { l with timer := none, connectRef := false }
    have hv : look v.legs n = (look u.legs n).cancelled := by
      rw [Units.onLeg_legs, look_upd_self, Leg.cancelled, if_pos hs, if_pos hs]
    have ha := removeConnect_acts v p
    exact ⟨(ha.leg n (by rw [hv]; exact cancelled_not_awaits _)).trans hv, ha.whisper⟩
  · rw [if_neg hs, Leg.cancelled, if_neg hs, if_neg hs]
    exact ⟨rfl, fun _ _ => rfl⟩

variable (g : GroupIx)

/-- A leg as it stands in a group anew (R22). -/
def Leg.standing (l : Leg) (g : GroupIx) (stamp : BitVec 32) : Leg :=
  { l with group := some g, parkTime := some stamp, fired := false }

theorem standIn_keeps : u.Keeps (u.standIn n g) := (units_onLeg_keeps ..).trans (moveTo_keeps ..)

theorem standIn_legs : (u.standIn n g).legs = upd u.legs n fun l => l.standing g u.router.stamp :=
  moveTo_legs ..

theorem standIn_whisper : (u.standIn n g).whisper = u.whisper := moveTo_whisper ..

theorem standIn_tail : (look (u.standIn n g).groups g).members.getLast? = some n := moveTo_tail ..

theorem standIn_quiet {u : Units} {g : GroupIx} (n : LegIx) (h : u.pool.wait = []) (hg : u.startsNone g) :
    (u.standIn n g).router = u.router ∧ (u.standIn n g).pool.wait = [] :=
  moveTo_quiet (u.onLeg n fun l => l.standing g u.router.stamp) n h hg

theorem echoPark_keeps : u.Keeps (u.echoPark n) := by
  have h : u.toMedia.Keeps ((u.onPool fun x => x.remove (.leg n)).restate u.legs n) :=
    (onPool_keeps u.toMedia (fun x => x.remove (.leg n)) rfl).trans (restate_keeps ..)
  refine units_onMedia_keeps _ _ ?_
  dsimp only
  split
  · exact h.trans (pass_keeps ..)
  · exact h

theorem echoPark_quiet {u : Units} (n : LegIx) (h : u.pool.wait = []) :
    (u.echoPark n).router = u.router ∧ (u.echoPark n).pool.wait = [] := by
  have hw : ((u.onPool fun x => x.remove (.leg n)).restate u.legs n).pool.wait = [] := by
    show u.pool.wait.filter _ = []
    rw [h, List.filter_nil]
  rw [Units.echoPark, Units.onMedia_toMedia]
  dsimp only
  rw [pass_of_wait_nil _ hw, ite_self]
  exact ⟨rfl, hw⟩

/-- A leg as an auto-park leaves it (R32). -/
def Leg.autoParked (l : Leg) (g : GroupIx) (stamp : BitVec 32) : Leg :=
  { { l.cancelled with bound := none }.standing g stamp with state := .parked }

/-- A position and its leg parted, before the leg is parked. -/
def Units.parted (u : Units) (p : PosIx) (n : LegIx) : Units :=
  ((u.cancelConnect n).onLeg n fun l => { l with bound := none }).onPos p fun x => { x with bound := none }

/-- An auto-park before its event. -/
def Units.autoParkQuiet (u : Units) (p : PosIx) (n : LegIx) : Units :=
  (((u.parted p n).standIn n (look u.pos p).defaultGroup).onLeg n fun l => { l with state := .parked }).echoPark n

theorem autoPark_eq (l : Leg) (hl : l = look (u.autoParkQuiet p n).legs n) :
    u.autoPark p n = (u.autoParkQuiet p n).raise .legAutoParked (.leg n)
      (detail2 (ixByte l.owner) (ixByte l.group)) l.target := by
  have hg : (look (u.parted p n).pos p).defaultGroup = (look u.pos p).defaultGroup := by
    rw [Units.parted, Units.onPos_pos, look_upd_self, Units.onLeg_pos, (cancelConnect_keeps u n).pos]
  subst hl
  rw [Units.autoParkQuiet, ← hg]
  rfl

end

/-- What a headset loss does to the bound leg: an auto-park, if there is one. -/
def Units.parkBound (u : Units) (p : PosIx) : Option LegIx → Units
  | some n => u.autoPark p n
  | none => u

/-- The record of an auto-park (Table 12-5), if there is one. -/
def Router.parks (r : Router) (legs : Vector Leg 64) (g : GroupIx) : Option LegIx → Router
  | some n => r.record .legAutoParked (.leg n) (detail2 (ixByte (look legs n).owner) (byte g))
  | none => r

/-- What the auto-park of a position's leg, if it has one, does and leaves (R32). -/
structure Units.Parks (u t : Units) (p : PosIx) (b : Option LegIx) (g : GroupIx) : Prop where
  pos : t.pos = upd u.pos p fun x => { x with bound := none }
  pairs : t.pairs = u.pairs
  media : u.toMedia.Keeps t.toMedia
  whisper : ∀ q, q ≠ p → look t.whisper q = look u.whisper q
  leg : ∀ n, b = some n → look t.legs n = (look u.legs n).autoParked g u.router.stamp
  tail : ∀ n, b = some n → (look t.groups g).members.getLast? = some n
  router : u.pool.wait = [] → (∀ n, b = some n → (look u.legs n).state = .talking) → u.startsNone g →
    t.router = u.router.parks u.legs g b
  wait : u.pool.wait = [] → (∀ n, b = some n → (look u.legs n).state = .talking) → u.startsNone g →
    t.pool.wait = []

section

variable {u : Units} {p : PosIx} {n : LegIx}

theorem autoParkQuiet_leg (h : (look u.legs n).bound = some p) :
    look (u.autoParkQuiet p n).legs n =
      (look u.legs n).autoParked (look u.pos p).defaultGroup u.router.stamp := by
  have hstamp : (u.parted p n).router.stamp = u.router.stamp := (cancelConnect_keeps u n).media.stamp
  rw [Units.autoParkQuiet, Units.echoPark, Units.onMedia_legs, Units.onLeg_legs, look_upd_self, standIn_legs,
    look_upd_self, hstamp, Units.parted, Units.onPos_legs, Units.onLeg_legs, look_upd_self,
    (cancelConnect_bound h).1]
  rfl

theorem autoParkQuiet_keeps (u : Units) (p : PosIx) (n : LegIx) : (u.parted p n).Keeps (u.autoParkQuiet p n) :=
  ((standIn_keeps ..).trans (units_onLeg_keeps ..)).trans (echoPark_keeps ..)

theorem autoParkQuiet_quiet (hw : u.pool.wait = []) (ht : (look u.legs n).state = .talking)
    (hg : u.startsNone (look u.pos p).defaultGroup) :
    (u.autoParkQuiet p n).router = u.router ∧ (u.autoParkQuiet p n).pool.wait = [] := by
  have hp : u.parted p n =
      (u.onLeg n fun l => { l with bound := none }).onPos p fun x => { x with bound := none } := by
    rw [Units.parted, cancelConnect_of_talking ht]
  obtain ⟨hr, hs⟩ := standIn_quiet (u := u.parted p n) n (by rw [hp]; exact hw) (by rw [hp]; exact hg)
  obtain ⟨hr', hs'⟩ := echoPark_quiet
    (u := ((u.parted p n).standIn n (look u.pos p).defaultGroup).onLeg n fun l => { l with state := .parked }) n hs
  exact ⟨hr'.trans (hr.trans (by rw [hp]; rfl)), hs'⟩

/-- The auto-park of a bound leg. -/
theorem autoPark_parks (h : (look u.legs n).bound = some p) :
    u.Parks (u.autoPark p n) p (some n) (look u.pos p).defaultGroup := by
  have hleg := autoParkQuiet_leg h
  have hcancel := cancelConnect_keeps u n
  have hparted : (u.parted p n).pos = upd u.pos p fun x => { x with bound := none } := by
    rw [Units.parted, Units.onPos_pos, Units.onLeg_pos, hcancel.pos]
  have hkeep := autoParkQuiet_keeps u p n
  have hmedia : u.toMedia.Keeps (u.autoParkQuiet p n).toMedia :=
    Media.Keeps.trans (t := (u.parted p n).toMedia) hcancel.media hkeep.media
  have hwhisper : (u.autoParkQuiet p n).whisper = (u.cancelConnect n).whisper := by
    rw [Units.autoParkQuiet, Units.echoPark, Units.onMedia_whisper, Units.onLeg_whisper, standIn_whisper]
    rfl
  have htail : (look (u.autoParkQuiet p n).groups (look u.pos p).defaultGroup).members.getLast? = some n := by
    rw [Units.autoParkQuiet, Units.echoPark, Units.onMedia_groups, Units.onLeg_groups, standIn_tail]
  have hquiet := autoParkQuiet_quiet (u := u) (p := p) (n := n)
  have hpos := hkeep.pos.trans hparted
  have hpairs : (u.autoParkQuiet p n).pairs = u.pairs := hkeep.pairs.trans hcancel.pairs
  rw [autoPark_eq u p n _ hleg.symm]
  generalize u.autoParkQuiet p n = v at *
  exact {
    pos := hpos
    pairs := hpairs
    media := hmedia.trans (raise_keeps ..)
    whisper := fun q hq => by rw [Units.raise_whisper, hwhisper, (cancelConnect_bound h).2 q hq]
    leg := fun m hm => by cases hm; exact hleg
    tail := fun m hm => by cases hm; exact htail
    router := fun hw ht hg => congrArg (Router.record · _ _ _) (hquiet hw (ht n rfl) hg).1
    wait := fun hw ht hg => (hquiet hw (ht n rfl) hg).2 }

theorem parkBound_parks (h : ∀ n, (look u.pos p).bound = some n → (look u.legs n).bound = some p) :
    u.Parks (u.parkBound p (look u.pos p).bound) p (look u.pos p).bound (look u.pos p).defaultGroup := by
  cases hb : (look u.pos p).bound
  case some n => exact autoPark_parks (h n hb)
  case none =>
    have hsame : { look u.pos p with bound := none } = look u.pos p := by rw [← hb]
    exact {
      pos := (upd_id _ _ _ hsame).symm
      pairs := rfl
      media := .rfl'
      whisper := fun _ _ => rfl
      leg := nofun
      tail := nofun
      router := fun _ _ _ => rfl
      wait := fun hw _ _ => hw }

end

/-! ## The end of a coach pair -/

section

variable (u : Units) (p : PosIx) (x : Pair)

theorem pairOf_mem {u : Units} {p : PosIx} {x : Pair} (h : u.pairOf p = some x) :
    x.supervisor = p ∨ x.agent = p := by
  have := List.find?_some h
  simpa using this

theorem dropCoach_keeps : u.Keeps (u.dropCoach p) := by
  unfold Units.dropCoach
  split
  · exact (units_onWhisper_keeps ..).trans (next_keeps ..)
  · exact .refl
  · exact .refl

/-- A coach leaves a playing place that has nothing to go on with: nothing but the place changes (R131). -/
theorem dropCoach_toMedia {u : Units} {p : PosIx}
    (h : (look u.whisper p).queue = [] ∧ (look u.whisper p).stack = []) : (u.dropCoach p).toMedia = u.toMedia := by
  unfold Units.dropCoach
  split
  · have hw : look (u.onWhisper p fun w => { w with playing := .none }).whisper p =
        { queue := [], playing := .none, stack := [] } := by
      rw [Units.onWhisper_whisper, look_upd_self, h.1, h.2]
    unfold Units.next
    simp only [hw, Units.nextLoop]
    rfl
  · rfl
  · rfl

/-- A supervisor whose pair has ended (R131). -/
def Position.uncoached (x : Position) : Position :=
  { x with coach := none, state := if x.state = .coaching then .idle else x.state }

/-- The end of a pair but for what it does to the whisper state of its agent. -/
def Units.unpaired (u : Units) (x : Pair) : Units :=
  (({ u with pairs := u.pairs.filter fun y => y ≠ x }).onPos x.agent fun p => { p with coach := none }).onPos
    x.supervisor Position.uncoached

theorem endPair_eq (reason : EndReason) :
    ∃ v, u.endPair x reason =
        (v.unpaired x).raise .coachEnded (.position x.agent) (detail2 (byte x.supervisor) reason.code)
          (some x.agent) ∧
      (v = u ∨ v = u.dropCoach x.agent ∧ x.active = true ∧ (look u.pos x.agent).state ≠ .absent) := by
  by_cases h : (x.active && decide ((look u.pos x.agent).state ≠ .absent)) = true
  · refine ⟨u.dropCoach x.agent, ?_, .inr ⟨rfl, by simpa using h⟩⟩
    unfold Units.endPair
    simp only [h, if_true]
    rfl
  · refine ⟨u, ?_, .inl rfl⟩
    unfold Units.endPair
    simp only [if_neg h]
    rfl

theorem unpaired_pos {q : PosIx} (hq : q = x.supervisor ∨ q = x.agent) :
    look (u.unpaired x).pos q =
      { look u.pos q with
        coach := none
        state := if q = x.supervisor ∧ (look u.pos q).state = .coaching then .idle else (look u.pos q).state } := by
  unfold Units.unpaired
  simp only [Units.onPos_pos]
  by_cases hs : q = x.supervisor
  · rw [hs, look_upd_self, look_upd]
    split
    next h => simp only [Position.uncoached, true_and, h]
    next => simp only [Position.uncoached, true_and]
  · have ha := hq.resolve_left hs
    subst ha
    simp only [look_upd_of_ne _ (Ne.symm hs), look_upd_self, hs, false_and, if_false]

/-- The record of a pair's end by a headset loss (Table 12-5), if there is a pair. -/
def Router.endsPair (r : Router) : Option Pair → Router
  | some x => r.record .coachEnded (.position x.agent) (detail2 (byte x.supervisor) EndReason.headsetLost.code)
  | none => r

/-- Whether the agent of a position's active pair, where that is another, has nothing to go on with. -/
def Units.agentIdle (u : Units) (p : PosIx) : Prop :=
  ∀ x, u.pairOf p = some x → x.agent ≠ p → x.active = true →
    (look u.whisper x.agent).queue = [] ∧ (look u.whisper x.agent).stack = []

/-- The WHU's part of a headset loss of an ABSENT position: what it does and leaves (R125, R131). -/
structure Units.EndsWhisper (u t : Units) (p : PosIx) : Prop where
  pairs : t.pairs = u.pairs.filter fun x => some x ≠ u.pairOf p
  media : u.toMedia.Keeps t.toMedia
  own : look t.pos p =
    { look u.pos p with coach := if (u.pairOf p).isSome then none else (look u.pos p).coach }
  partner : ∀ x q, u.pairOf p = some x → q = x.supervisor ∨ q = x.agent →
    look t.pos q =
      { look u.pos q with
        coach := none
        state := if q = x.supervisor ∧ (look u.pos q).state = .coaching then .idle else (look u.pos q).state }
  whisper : look t.whisper p = Whisper.reset
  leg : ∀ n, ¬ (look u.legs n).awaits → look t.legs n = look u.legs n
  tail : ∀ n, ¬ (look u.legs n).awaits → ∀ g,
    (look u.groups g).members.getLast? = some n → (look t.groups g).members.getLast? = some n
  router : u.pool.wait = [] → u.agentIdle p → t.router = u.router.endsPair (u.pairOf p)

theorem emptyWhisper_whisper : look (u.emptyWhisper p).whisper p = Whisper.reset := look_upd_self ..

theorem emptyWhisper_router {u : Units} (h : u.pool.wait = []) : (u.emptyWhisper p).router = u.router := by
  unfold Units.emptyWhisper Units.removeEntries
  dsimp only
  split
  · exact (stopCursor_quiet ..).router h
  · rfl

theorem whisperLoss_endsWhisper {u : Units} {p : PosIx} (hp : (look u.pos p).state = .absent) :
    u.EndsWhisper (u.whisperLoss p) p := by
  have hk := emptyWhisper_keeps u p
  have ha := emptyWhisper_acts u p
  have hw := emptyWhisper_whisper u p
  have hpair : (u.emptyWhisper p).pairOf p = u.pairOf p := by rw [Units.pairOf, hk.pairs]; rfl
  unfold Units.whisperLoss
  dsimp only
  rw [hpair]
  cases hx : u.pairOf p
  case none =>
    exact {
      pairs := by rw [hx]; simpa using hk.pairs
      media := hk.media
      own := by rw [hx]; exact congrArg (look · p) hk.pos
      partner := fun x q h => by rw [hx] at h; cases h
      whisper := hw
      leg := ha.leg
      tail := ha.tail
      router := fun h _ => by rw [hx]; exact emptyWhisper_router p h }
  case some x =>
    obtain ⟨v, hv, hdrop⟩ := endPair_eq (u.emptyWhisper p) x .headsetLost
    have hvk : (u.emptyWhisper p).Keeps v := by
      rcases hdrop with rfl | ⟨rfl, -⟩
      · exact .refl
      · exact dropCoach_keeps ..
    have hva : (u.emptyWhisper p).ActsAt x.agent v := by
      rcases hdrop with rfl | ⟨rfl, -⟩
      · exact .refl
      · exact dropCoach_acts ..
    have hvw : look v.whisper p = look (u.emptyWhisper p).whisper p := by
      rcases hdrop with rfl | ⟨-, -, h⟩
      · rfl
      · refine hva.whisper p ?_
        rintro rfl
        exact h (by rw [hk.pos]; exact hp)
    have hpartner : ∀ q, q = x.supervisor ∨ q = x.agent → look (v.unpaired x).pos q =
        { look u.pos q with
          coach := none
          state := if q = x.supervisor ∧ (look u.pos q).state = .coaching then .idle else (look u.pos q).state } := by
      intro q hq
      rw [unpaired_pos v x hq, hvk.pos, hk.pos]
    dsimp only
    rw [hv]
    exact {
      pairs := by
        have he : (v.unpaired x).pairs = v.pairs.filter fun y => y ≠ x := rfl
        rw [hx, Units.raise_pairs, he, hvk.pairs, hk.pairs]
        simp only [ne_eq, Option.some.injEq]
      media := (hk.media.trans hvk.media).trans (raise_keeps ..)
      own := by
        rw [hx]
        refine (hpartner p ((pairOf_mem hx).imp Eq.symm Eq.symm)).trans ?_
        simp [hp]
      partner := fun y q h hq => by
        cases hx.symm.trans h
        exact hpartner q hq
      whisper := hvw.trans hw
      leg := fun n hn => (hva.leg n (by rw [ha.leg n hn]; exact hn)).trans (ha.leg n hn)
      tail := fun n hn g hg => hva.tail n (by rw [ha.leg n hn]; exact hn) g (ha.tail n hn g hg)
      router := fun h hidle => by
        rw [hx]
        have hvm : v.router = (u.emptyWhisper p).router := by
          rcases hdrop with rfl | ⟨rfl, hactive, hpresent⟩
          · rfl
          · have hne : x.agent ≠ p := by
              rintro rfl
              exact hpresent (by rw [hk.pos]; exact hp)
            rw [dropCoach_toMedia]
            rw [ha.whisper _ hne]
            exact hidle x hx hne hactive
        show v.router.record _ _ _ = _
        rw [hvm, emptyWhisper_router p h]
        rfl }

end

end Sys2Proof.Machine
end

section
/-! PROOFS. A headset loss and what settling leaves of it (O26). -/

namespace Sys2Proof.Machine

/-! ## A loss: its events, the auto-park, the end of the pair -/

/-- A position as a loss leaves it, with its deltas still to be settled (R10). -/
def Position.lost (x : Position) : Position :=
  { x with present := false, keyHeld := false, presentChanged := true, state := .absent, debounce := none }

theorem lose_eq {u : Units} {p : PosIx} (cause : LossCause)
    (h : (look u.pos p).bound.isSome = decide ((look u.pos p).state = .engaged)) :
    u.lose p cause =
      (((((u.onPos p Position.lost).raisePos .headsetOff p (detail2 cause.code (look u.pos p).state.code)
        fun x => { x with presentChanged := false }).muteChange p (look u.pos p).muted).parkBound p
          (look u.pos p).bound).whisperLoss p) := by
  unfold Units.lose
  dsimp only
  cases hb : (look u.pos p).bound
  case none => cases (look u.pos p).state <;> rfl
  case some n =>
    have hs : (look u.pos p).state = .engaged := by simpa [hb] using h
    rw [hs]
    rfl

/-- The record of a loss (Table 12-5). -/
def Router.loses (r : Router) (p : PosIx) (x : Position) (cause : LossCause) : Router :=
  r.record .headsetOff (.position p) (detail2 cause.code x.state.code)

/-- The record of the effective mute that ends with a headset, if it was set. -/
def Router.unmutes (r : Router) (p : PosIx) (x : Position) : Router :=
  if x.muted then r.record .muteOff (.position p) (detail2 0 (flagByte x.hostMute)) else r

/-- What a headset loss does and leaves in `Units` (R10, R32, R125). -/
structure Units.Lost (u t : Units) (p : PosIx) (cause : LossCause) : Prop where
  own : look t.pos p =
    { look u.pos p with
      state := .absent, present := false, keyHeld := false, bound := none, debounce := none
      presentChanged := !u.router.enters .headsetOff
      muteChanged := if (look u.pos p).muted then !(u.router.loses p (look u.pos p) cause).enters .muteOff
        else (look u.pos p).muteChanged
      coach := if (u.pairOf p).isSome then none else (look u.pos p).coach }
  pairs : t.pairs = u.pairs.filter fun x => some x ≠ u.pairOf p
  partner : ∀ x q, u.pairOf p = some x → q ≠ p → q = x.supervisor ∨ q = x.agent →
    look t.pos q =
      { look u.pos q with
        coach := none
        state := if q = x.supervisor ∧ (look u.pos q).state = .coaching then .idle else (look u.pos q).state }
  postings : (∀ k : Fin 24, (look u.router.routes k).cue = none) → t.postings = u.postings
  router : u.pool.wait = [] → (∀ n, (look u.pos p).bound = some n → (look u.legs n).state = .talking) →
    u.startsNone (look u.pos p).defaultGroup → u.agentIdle p →
    t.router = (((u.router.loses p (look u.pos p) cause).unmutes p (look u.pos p)).parks u.legs
      (look u.pos p).defaultGroup (look u.pos p).bound).endsPair (u.pairOf p)
  whisper : look t.whisper p = Whisper.reset
  leg : ∀ n, (look u.pos p).bound = some n →
    look t.legs n = (look u.legs n).autoParked (look u.pos p).defaultGroup u.router.stamp
  tail : ∀ n, (look u.pos p).bound = some n →
    (look t.groups (look u.pos p).defaultGroup).members.getLast? = some n

/-- The position record of a loss once its events are taken. -/
def Position.offRecord (x : Position) (p : PosIx) (r : Router) (cause : LossCause) : Position :=
  { x.lost with
    presentChanged := !r.enters .headsetOff
    muteChanged := if x.muted then !(r.loses p x cause).enters .muteOff else x.muteChanged }

theorem loss_events (u : Units) (p : PosIx) (cause : LossCause) :
    ∃ out,
      ((u.onPos p Position.lost).raisePos .headsetOff p (detail2 cause.code (look u.pos p).state.code)
          fun x => { x with presentChanged := false }).muteChange p (look u.pos p).muted =
        { u with
          pos := put u.pos p ((look u.pos p).offRecord p u.router cause)
          router := (u.router.loses p (look u.pos p) cause).unmutes p (look u.pos p)
          postings := out } ∧
      ((∀ j : Fin 24, (look u.router.routes j).cue = none) → out = u.postings) := by
  let y := { (look u.pos p).lost with presentChanged := !u.router.enters .headsetOff }
  obtain ⟨out, hv, hout⟩ := presence_eq u p .headsetOff (detail2 cause.code (look u.pos p).state.code)
    Position.lost (look u.pos p).muted (y := y) rfl rfl
  refine ⟨out, hv.trans ?_, hout⟩
  have hy : y.muted = false := rfl
  simp only [hy, Position.muteKind, Position.offRecord, Router.unmutes]
  cases (look u.pos p).muted <;> rfl

/-- The records of a loss leave everything of the router but its queue. -/
theorem loss_router_keeps (r : Router) (p : PosIx) (x : Position) (cause : LossCause) :
    ((r.loses p x cause).unmutes p x).routes = r.routes ∧ ((r.loses p x cause).unmutes p x).mode = r.mode ∧
      ((r.loses p x cause).unmutes p x).stamp = r.stamp ∧ ((r.loses p x cause).unmutes p x).phase = r.phase := by
  unfold Router.unmutes Router.loses
  split
  · simp only [record_keeps, and_self]
  · exact record_keeps ..

theorem parked_not_awaits (l : Leg) (g : GroupIx) (stamp : BitVec 32) : ¬ (l.autoParked g stamp).awaits :=
  fun h => nomatch (show LegState.parked = .connecting from h.1)

theorem lose_lost {u : Units} {p : PosIx} (cause : LossCause)
    (h : (look u.pos p).bound.isSome = decide ((look u.pos p).state = .engaged))
    (hb : ∀ n, (look u.pos p).bound = some n → (look u.legs n).bound = some p) :
    u.Lost (u.lose p cause) p cause := by
  obtain ⟨out, hv, hout⟩ := loss_events u p cause
  rw [lose_eq cause h, hv]
  let v : Units :=
    { u with
      pos := put u.pos p ((look u.pos p).offRecord p u.router cause)
      router := (u.router.loses p (look u.pos p) cause).unmutes p (look u.pos p)
      postings := out }
  have hl : look v.pos p = (look u.pos p).offRecord p u.router cause := look_put_self ..
  have hbound : (look v.pos p).bound = (look u.pos p).bound := by rw [hl]; rfl
  have hgroup : (look v.pos p).defaultGroup = (look u.pos p).defaultGroup := by rw [hl]; rfl
  obtain ⟨hroutes, hmode, hstamp, hphase⟩ := loss_router_keeps u.router p (look u.pos p) cause
  have hmedia : u.toMedia.Keeps v.toMedia := ⟨rfl, rfl, hroutes, hmode, hstamp, hphase, hout⟩
  have hpark := parkBound_parks (u := v) (p := p) (by rw [hbound]; exact hb)
  rw [hbound, hgroup] at hpark
  show u.Lost ((v.parkBound p (look u.pos p).bound).whisperLoss p) p cause
  generalize v.parkBound p (look u.pos p).bound = w at hpark
  have hwpos : look w.pos p = { (look u.pos p).offRecord p u.router cause with bound := none } := by
    rw [hpark.pos, look_upd_self, hl]
  have hwother : ∀ q, q ≠ p → look w.pos q = look u.pos q := fun q hq => by
    rw [hpark.pos, look_upd_of_ne _ hq.symm, look_put_of_ne _ hq.symm]
  have hpair : w.pairOf p = u.pairOf p := by rw [Units.pairOf, hpark.pairs]; rfl
  have hend := whisperLoss_endsWhisper (u := w) (p := p) (by rw [hwpos]; rfl)
  have hleg : ∀ n, (look u.pos p).bound = some n →
      look w.legs n = (look u.legs n).autoParked (look u.pos p).defaultGroup u.router.stamp :=
    fun n hn => (hpark.leg n hn).trans (congrArg _ hstamp)
  have hawaits : ∀ n, (look u.pos p).bound = some n → ¬ (look w.legs n).awaits :=
    fun n hn => by rw [hleg n hn]; exact parked_not_awaits _ _ _
  exact {
    own := by rw [hend.own, hwpos, hpair]; rfl
    pairs := by rw [hend.pairs, hpark.pairs, hpair]
    partner := fun x q hx hq hside => by
      rw [hend.partner x q (hpair.trans hx) hside, hwother q hq]
    postings := ((hmedia.trans hpark.media).trans hend.media).postings
    router := fun hwait htalk hcursor hidle => by
      have hwidle : w.agentIdle p := fun x hx hne hactive => by
        rw [hpark.whisper _ hne]
        exact hidle x (hpair.symm.trans hx) hne hactive
      rw [hend.router (hpark.wait hwait htalk hcursor) hwidle, hpark.router hwait htalk hcursor, hpair]
    whisper := hend.whisper
    leg := fun n hn => (hend.leg n (hawaits n hn)).trans (hleg n hn)
    tail := fun n hn => hend.tail n (hawaits n hn) _ (hpark.tail n hn) }

/-! ## The instructions that lose a headset -/

/-- A state with the record of a position set, its events taken, and its comfort noise in step. -/
def State.taken (s : State) (p : PosIx) (x : Position) (r : Router) (out : List Posting) (n : Nat)
    (gen : Option Generator) : State :=
  { s with
    pos := put s.pos p x, router := r, postings := out, nonce := n
    sup := upd s.sup p fun c => { c with generator := gen } }

/-- The record a loss finds: of a subframe that has told of its key, or of a link that has run out. -/
def Position.beforeLoss (x : Position) (key linkValid : Bool) (timer : Option Nat) (d : Option Debounce)
    (muteChanged : Bool) : Position :=
  { x with
    keyHeld := key, linkValid := linkValid, linkTimer := timer, debounce := d, muteChanged := muteChanged }

theorem beforeLoss_muted {x : Position} (hp : x.present = true) (key linkValid : Bool) (timer : Option Nat)
    (d : Option Debounce) (muteChanged : Bool) :
    (x.beforeLoss key linkValid timer d muteChanged).muted = (key || x.hostMute) := by
  show (x.present && _) = _
  rw [hp, Bool.true_and]
  rfl

theorem linkLost_not_due {s : State} {p : PosIx} (ht : (look s.pos p).linkTimer ≠ some 0) : s.linkLost p = s :=
  if_neg ht

/-- The link of an absent headset runs out: no loss (R4). -/
theorem linkLost_absent {s : State} {p : PosIx} (ht : (look s.pos p).linkTimer = some 0)
    (hp : (look s.pos p).present = false) :
    s.linkLost p = s.onUnits fun u => u.onPos p fun x =>
      { x with linkValid := false, linkTimer := none, debounce := none } := by
  unfold State.linkLost
  rw [if_pos ht]
  exact if_neg (by simp [hp])

theorem linkLost_lose {s : State} {p : PosIx} (ht : (look s.pos p).linkTimer = some 0)
    (hp : (look s.pos p).present = true) :
    s.linkLost p =
      (s.taken p ((look s.pos p).beforeLoss (look s.pos p).keyHeld false none none (look s.pos p).muteChanged)
        s.router s.postings s.nonce (look s.sup p).generator).lose p .linkLost := by
  unfold State.linkLost
  rw [if_pos ht]
  refine (if_pos (by simp [hp])).trans (congrArg (State.lose · p .linkLost) ?_)
  rw [State.taken, upd_id s.sup _ _ rfl]
  rfl

/-- What a valid subframe makes of the router when it changes effective mute from `was` to `now`. -/
def Router.tellsMute (r : Router) (p : PosIx) (was now key hostMute : Bool) : Router :=
  if now = was then r
  else r.record (if now then .muteOn else .muteOff) (.position p) (detail2 (flagByte key) (flagByte hostMute))

theorem tellsMute_keeps (r : Router) (p : PosIx) (was now key hostMute : Bool) :
    (r.tellsMute p was now key hostMute).routes = r.routes ∧
      (r.tellsMute p was now key hostMute).stamp = r.stamp := by
  unfold Router.tellsMute
  split
  · exact ⟨rfl, rfl⟩
  · exact ⟨(record_keeps ..).1, (record_keeps ..).2.2.1⟩

theorem subframe_lose {s : State} {p : PosIx} {d : Debounce} {was now : Bool} (key : Bool)
    (hp : (look s.pos p).present = true) (hd : (look s.pos p).debounce = some d) (hr : 400 ≤ d.run)
    (hwas : was = ((look s.pos p).keyHeld || (look s.pos p).hostMute))
    (hnow : now = (key || (look s.pos p).hostMute)) :
    ∃ out n gen,
      s.subframe p false key true =
        (s.taken p
          ((look s.pos p).beforeLoss key true (some linkTime) (some d)
            (if now = was then (look s.pos p).muteChanged
              else !s.router.enters (if now then .muteOn else .muteOff)))
          (s.router.tellsMute p was now key (look s.pos p).hostMute) out n gen).lose p .unplugged ∧
      (s.noCueRoutes → out = s.postings) := by
  obtain ⟨gen, n, out, htake, -, -, hout⟩ := takeKey_heard_eq s p key (x := (look s.pos p).told key) rfl
  have hmuted : (look s.pos p).muted = was := by rw [Position.muted, hp, hwas]; rfl
  have htold : (look s.pos p).told key =
      (look s.pos p).beforeLoss key true (some linkTime) (some d) (look s.pos p).muteChanged := by
    simp only [Position.told, Position.heard, Position.keyed, Position.beforeLoss, hp, if_true]
    rw [← hd]
  have hkey : ((look s.pos p).told key).muted = now := by rw [htold, hnow, beforeLoss_muted hp]
  rw [hmuted, hkey, Position.muteKind, hkey, htold] at htake
  refine ⟨out, n, gen, ?_, fun h => hout (.inr h)⟩
  rw [subframe_valid, htake]
  refine (debounce_completed (d := d) key ?_ (by rw [look_put_self]; rfl) hr).trans rfl
  rw [look_put_self]
  exact fun h => absurd (h.trans hp) (by decide)

/-- Both instructions that lose a present headset set its record, take the events of its key, and lose it. -/
theorem exec_lose {s : State} {p : PosIx} {c : Instr} {key was now : Bool}
    (hc : (c = .linkTimerExpiry p ∧ (look s.pos p).linkTimer = some 0 ∧ key = (look s.pos p).keyHeld) ∨
      ∃ d, c = .statusSubframe p false key true ∧ (look s.pos p).debounce = some d ∧ 400 ≤ d.run)
    (hp : (look s.pos p).present = true)
    (hwas : was = ((look s.pos p).keyHeld || (look s.pos p).hostMute))
    (hnow : now = (key || (look s.pos p).hostMute)) :
    ∃ cause d out n gen,
      exec c s = .next ((s.taken p
        ((look s.pos p).beforeLoss key (decide (c ≠ .linkTimerExpiry p))
          (if c = .linkTimerExpiry p then none else some linkTime) d
          (if now = was then (look s.pos p).muteChanged
            else !s.router.enters (if now then .muteOn else .muteOff)))
        (s.router.tellsMute p was now key (look s.pos p).hostMute) out n gen).lose p cause).settled ∧
      cause.code = (if c = .linkTimerExpiry p then 1 else 0) ∧ (s.noCueRoutes → out = s.postings) := by
  rcases hc with ⟨rfl, ht, hkey⟩ | ⟨d, rfl, hd, hr⟩
  · have hsame : now = was := by rw [hnow, hwas, hkey]
    refine ⟨.linkLost, none, s.postings, s.nonce, (look s.sup p).generator, ?_, ?_, fun _ => rfl⟩
    · have run := linkLost_lose ht hp
      simp only [ne_eq, not_true_eq_false, decide_false, if_true, hsame, Router.tellsMute, hkey]
      exact congrArg (fun t : State => (.next t.settled : Outcome)) run
    · rw [if_pos rfl]; rfl
  · obtain ⟨out, n, gen, run, hout⟩ := subframe_lose key hp hd hr hwas hnow
    refine ⟨.unplugged, some d, out, n, gen, ?_, ?_, hout⟩
    · simp only [ne_eq, reduceCtorEq, not_false_eq_true, decide_true, if_false]
      exact congrArg (fun t : State => (.next t.settled : Outcome)) run
    · simp only [reduceCtorEq, if_false]; rfl

/-- What settling leaves of a loss whose position has no more part in prompts. -/
theorem lost_settle {u t : Units} {p : PosIx} {cause : LossCause} (h : u.Lost t p cause) :
    look t.settle.whisper p = Whisper.reset ∧
      ∀ n, (look u.pos p).bound = some n →
        look t.settle.legs n = (look u.legs n).autoParked (look u.pos p).defaultGroup u.router.stamp ∧
        (look t.settle.groups (look u.pos p).defaultGroup).members.getLast? = some n := by
  obtain ⟨hw, hl, ht⟩ := settle_acts t
  refine ⟨(hw p (by rw [h.own])).trans h.whisper, fun n hn => ?_⟩
  have hawaits : ¬ (look t.legs n).awaits := by rw [h.leg n hn]; exact parked_not_awaits _ _ _
  exact ⟨(hl n hawaits).trans (h.leg n hn), ht n hawaits _ (h.tail n hn)⟩

/-- The mute delta of a loss: of the mute that it ends, or else as the key of the same subframe left it. -/
theorem muteDelta_of_loss (now was ends before told old : Bool)
    (h : now = false → before = if was then told else old) :
    (if now then ends else before) = if now then ends else if was then told else old := by
  cases now
  · exact h rfl
  · rfl

/-- Settles O26: a loss handed on (`Units.Lost`) after the events of the key, then what settling leaves of it. -/
theorem headsetLossParksLeg : Obligations.HeadsetLossParksLeg := by
  rintro s p ⟨-, hengaged, -, hbind⟩ hs
  refine ⟨fun ht => ?_, fun ht hp => ?_, ?_⟩
  · exact congrArg Host.Outcome.next ((congrArg State.settled (linkLost_not_due ht)).trans (settled_of_none hs))
  · exact congrArg Host.Outcome.next ((congrArg State.settled (linkLost_absent ht hp)).trans (settled_of_none hs))
  rintro c hc hp key was now pair r0 r1 r2 r3 hkey hwas hnow rfl hr0 rfl rfl rfl
  have hc' : (c = .linkTimerExpiry p ∧ (look s.pos p).linkTimer = some 0 ∧ key = (look s.pos p).keyHeld) ∨
      ∃ d, c = .statusSubframe p false key true ∧ (look s.pos p).debounce = some d ∧ 400 ≤ d.run := by
    rcases hc with ⟨rfl, ht⟩ | ⟨k, d, rfl, hd⟩
    · exact .inl ⟨rfl, ht, hkey⟩
    · exact .inr ⟨d, by rw [hkey], hd⟩
  obtain ⟨cause, d, out, n, gen, hrun, hcode, hout⟩ := exec_lose hc' hp hwas hnow
  obtain ⟨hroutes, hstamp⟩ := tellsMute_keeps s.router p was now key (look s.pos p).hostMute
  rw [show s.router.tellsMute p was now key (look s.pos p).hostMute = r0 from hr0.symm] at hrun hroutes hstamp
  let x := (look s.pos p).beforeLoss key (decide (c ≠ .linkTimerExpiry p))
    (if c = .linkTimerExpiry p then none else some linkTime) d
    (if now = was then (look s.pos p).muteChanged else !s.router.enters (if now then .muteOn else .muteOff))
  let s1 := s.taken p x r0 out n gen
  have hown : look s1.pos p = x := look_put_self ..
  have hother : ∀ q, q ≠ p → look s1.pos q = look s.pos q := fun q hq => look_put_of_ne _ hq.symm _
  have hmuted : x.muted = now := by rw [hnow, beforeLoss_muted hp]
  have hlost : s1.toUnits.Lost (s1.toUnits.lose p cause) p cause :=
    lose_lost cause (by rw [hown]; exact hengaged p) fun m hm => (hbind m p).mpr (by rw [hown] at hm; exact hm)
  obtain ⟨hwhisper, hparked⟩ := lost_settle hlost
  have hrecord : r0.loses p x cause = r0.record .headsetOff (.position p)
      (detail2 (if c = .linkTimerExpiry p then 1 else 0) (look s.pos p).state.code) := by
    rw [← hcode]; rfl
  obtain ⟨hlown, hlpairs, hlpartner, hlpostings, hlrouter, -, -, -⟩ := hlost
  rw [hown] at hlown hlrouter hparked
  have hrouter : s1.router = r0 := rfl
  rw [hrouter, hrecord, hmuted] at hlown
  refine ⟨(s1.lose p cause).settled, hrun, ?_, ?_, fun y q hy hq hside => ?_,
    fun hcue hwait htalk hcursor hidle => ?_, hwhisper, ?_, fun m hm => ?_⟩
  · refine (congrArg (look · p) (settle_pos _)).trans (hlown.trans ?_)
    rw [muteDelta_of_loss now was _ x.muteChanged (!s.router.enters .muteOff) (look s.pos p).muteChanged]
    · rfl
    · rintro rfl
      cases was <;> rfl
  · exact (settle_keeps _).2.1.trans hlpairs
  · refine (congrArg (look · q) (settle_pos _)).trans ?_
    rw [← hother q hq]
    exact hlpartner y q hy hq hside
  · have hcue1 : ∀ k : Fin 24, (look s1.router.routes k).cue = none := fun k => by
      rw [hrouter, hroutes]
      exact hcue k
    have hsettle : (s1.lose p cause).settled = s1.lose p cause :=
      settled_of_none ((hlpostings hcue1).trans ((hout hcue).trans hs))
    rw [hsettle]
    have htake := hlrouter hwait htalk hcursor hidle
    rw [hrouter, hrecord, Router.unmutes, hmuted] at htake
    exact htake
  · exact upd_upd ..
  · have hleg := hparked m hm
    rw [hrouter, hstamp] at hleg
    exact hleg

end Sys2Proof.Machine
end

section
/-! PROOFS. What cursors and grant passes can do in `Media`: events only join the queue, clips keep state and
length, and legs and cursors that neither hold nor wait are left alone. -/

namespace Sys2Proof.Machine

/-! ## Records taken -/

/-- Records are only added, and the overflow flag stays set. -/
structure Router.Grows (r t : Router) : Prop where
  notices : ∀ x ∈ r.notices, x ∈ t.notices
  overflow : r.overflow = true → t.overflow = true

namespace Router.Grows

theorem refl {r : Router} : r.Grows r := ⟨fun _ => id, id⟩

theorem of_eq {r t : Router} (h : t = r) : r.Grows t := h ▸ refl

theorem trans {r t v : Router} (h : r.Grows t) (k : t.Grows v) : r.Grows v :=
  ⟨fun x hx => k.notices x (h.notices x hx), fun hx => k.overflow (h.overflow hx)⟩

end Router.Grows

theorem record_grows (r : Router) (k : EventKind) (x : Subject) (d : BitVec 16) :
    r.Grows (r.record k x d) := by
  unfold Router.record Router.enter
  split
  · split
    · exact ⟨fun _ hx => List.mem_append_left _ hx, id⟩
    · exact ⟨fun _ => id, fun _ => rfl⟩
  · exact .refl

/-- An event that is notified stands last in the queue, or the queue was full (R168). -/
theorem record_last {r : Router} {k : EventKind} (x : Subject) (d : BitVec 16) (h : (r.route k).notify = true) :
    (r.record k x d).overflow = true ∨
      (r.record k x d).notices.getLast? = some { kind := k, subject := x, stamp := r.stamp, detail := d } := by
  unfold Router.record Router.enter
  rw [if_pos h]
  split
  · exact .inr List.getLast?_concat
  · exact .inl rfl

/-! ## Who waits -/

@[simp] theorem waits_mark (p : Pool) (segs : List SegIx) (o : SegOwner) (w : Requester) :
    (p.mark segs o).waits w = p.waits w := rfl

@[simp] theorem waits_remove (p : Pool) (who w : Requester) :
    (p.remove who).waits w = (p.waits w && decide (w ≠ who)) := by
  rw [Bool.eq_iff_iff]
  simp only [Pool.waits, Pool.remove, List.any_filter, List.any_eq_true, Bool.and_eq_true, decide_eq_true_eq]
  constructor
  · rintro ⟨e, he, hne, rfl⟩
    exact ⟨⟨e, he, rfl⟩, hne⟩
  · rintro ⟨⟨e, he, rfl⟩, hne⟩
    exact ⟨e, he, hne, rfl⟩

@[simp] theorem waits_changeNeed (p : Pool) (who w : Requester) (need : Nat) :
    (p.changeNeed who need).waits w = p.waits w := by
  simp only [Pool.waits, Pool.changeNeed, List.any_map]
  congr 1
  funext e
  simp only [Function.comp]
  split <;> rfl

@[simp] theorem waits_insert (p : Pool) (e : WaitEntry) (w : Requester) :
    (p.insert e).waits w = (p.waits w || decide (e.who = w)) := by
  unfold Pool.insert
  cases he : e.who with
  | leg n => simp [Pool.waits, he]
  | cursor c =>
    have hsplit : p.waits w = ((p.wait.takeWhile WaitEntry.isCursor).any (fun e => e.who = w) ||
        (p.wait.dropWhile WaitEntry.isCursor).any fun e => e.who = w) := by
      rw [← List.any_append, List.takeWhile_append_dropWhile, Pool.waits]
    rw [hsplit]
    simp only [Pool.waits, List.any_append, List.any_cons, he]
    ac_rfl

/-! ## Cancellers -/

@[simp] theorem enter_tail (c : Canceller) (x : CanState) : (c.enter x).tail = c.tail := by
  unfold Canceller.enter
  split <;> rfl

@[simp] theorem enter_reclaimed (c : Canceller) (x : CanState) : (c.enter x).reclaimed = c.reclaimed := by
  unfold Canceller.enter
  split <;> rfl

@[simp] theorem granted_tail (c : Canceller) (segs : List SegIx) : (c.granted segs).tail = c.tail := by
  unfold Canceller.granted
  dsimp only
  split <;> rfl

@[simp] theorem granted_reclaimed (c : Canceller) (segs : List SegIx) :
    (c.granted segs).reclaimed = c.reclaimed := by
  unfold Canceller.granted
  dsimp only
  split <;> rfl

/-! ## Clips as cursors know them -/

/-- What a cursor reads of a clip: its state and its length. -/
def Clip.info (c : Clip) : ClipState × Nat := (c.state, c.samples)

/-- What a cursor reads of the clip of an id, if there is one. -/
def Store.info (st : Store) (id : ClipIx) : Option (ClipState × Nat) := (st.clip id).map Clip.info

theorem info_of_dir {st st' : Store} (h : st'.dir = st.dir) (id : ClipIx) : st'.info id = st.info id := by
  unfold Store.info Store.clip
  rw [h]

theorem info_setClip {st : Store} {id : ClipIx} {c : Clip} (h : st.clip id = some c) (c' : Clip)
    (hi : c'.info = c.info) (j : ClipIx) : (st.setClip id (some c')).info j = st.info j := by
  unfold Store.info
  rw [Store.setClip_clip]
  split
  next hj => rw [← hj, h, Option.map_some, Option.map_some, hi]
  next => rfl

theorem takeRef_info (st : Store) (id j : ClipIx) : (st.takeRef id).info j = st.info j := by
  unfold Store.takeRef
  split
  next c hc => exact info_setClip hc { c with refs := c.refs + 1 } rfl j
  next => rfl

theorem appendErase_dir (st : Store) (ss : List SectorIx) : (st.appendErase ss).dir = st.dir := by
  unfold Store.appendErase
  split <;> rfl

theorem queueClip_info (st : Store) (id j : ClipIx) : (st.queueClip id).info j = st.info j := by
  unfold Store.queueClip
  split
  · rfl
  next c hc => exact (info_of_dir (appendErase_dir ..) j).trans (info_setClip hc { c with eraseLeft := c.sectors, goneBad := 0 } rfl j)

theorem dropRef_info (st : Store) (id j : ClipIx) : (st.dropRef id).info j = st.info j := by
  unfold Store.dropRef
  split
  · rfl
  next c hc =>
    have hset := info_setClip hc { c with refs := c.refs - 1 } rfl j
    dsimp only
    split
    · exact (queueClip_info ..).trans hset
    · exact hset

theorem grants_of_info {st st' : Store} {id : ClipIx} (h : st'.info id = st.info id) :
    st'.grants id = st.grants id := by
  have heq : ∀ x : Store, x.grants id = (x.info id).any fun i => decide (i.1 = .valid) := fun x => by
    unfold Store.grants Store.info
    cases x.clip id <;> rfl
  rw [heq, heq, h]

theorem grants_iff (st : Store) (id : ClipIx) : st.grants id = true ↔ st.valid id := by
  unfold Store.grants Store.valid
  cases st.clip id <;> simp

theorem endsBy_of_info {st st' : Store} (h : ∀ id, st'.info id = st.info id) (elapsed : Nat) (it : Item) :
    it.endsBy st' elapsed = it.endsBy st elapsed := by
  cases it with
  | clip id gain =>
    have heq : ∀ x : Store,
        (Item.clip id gain).endsBy x elapsed = (x.info id).any fun i => decide (i.2 ≤ elapsed) := fun x => by
      unfold Store.info
      rw [Option.any_map]
      rfl
    rw [heq, heq, h]
  | silence ms => rfl
  | tone k ms => rfl

/-! ## What cursors do -/

/-- What an operation of the cursor `c`, or a grant pass alone for none, leaves as it was: clips, the tails of
cancellers, the reclaimed marks of legs not parked, the cancellers that hold nothing and do not wait, and the
other cursors that do not wait or are STOPPED. -/
structure Media.Plays (legs : Vector Leg 64) (c : Option CurIx) (m t : Media) : Prop where
  grows : m.router.Grows t.router
  clips : ∀ id, t.store.info id = m.store.info id
  tail : ∀ n, (look t.can n).tail = (look m.can n).tail
  mark : ∀ n, (look legs n).state ≠ .parked → (look t.can n).reclaimed = (look m.can n).reclaimed
  idle : ∀ n, m.pool.waits (.leg n) = false → (look m.can n).held = [] →
    look t.can n = look m.can n ∧ t.pool.waits (.leg n) = false
  other : ∀ d, some d ≠ c → m.pool.waits (.cursor d) = false →
    look t.cursors d = look m.cursors d ∧ t.pool.waits (.cursor d) = false
  stopped : ∀ d, some d ≠ c → (look m.cursors d).state = .stopped → (look t.cursors d).state = .stopped

namespace Media.Plays

variable {legs : Vector Leg 64} {c : Option CurIx} {m t v : Media}

theorem refl : m.Plays legs c m :=
  ⟨.refl, fun _ => rfl, fun _ => rfl, fun _ _ => rfl, fun _ h _ => ⟨rfl, h⟩, fun _ _ h => ⟨rfl, h⟩,
    fun _ _ h => h⟩

theorem trans (h : m.Plays legs c t) (k : t.Plays legs c v) : m.Plays legs c v where
  grows := h.grows.trans k.grows
  clips id := (k.clips id).trans (h.clips id)
  tail n := (k.tail n).trans (h.tail n)
  mark n hn := (k.mark n hn).trans (h.mark n hn)
  idle n hw hh := by
    obtain ⟨h1, h2⟩ := h.idle n hw hh
    obtain ⟨h3, h4⟩ := k.idle n h2 (by rw [h1]; exact hh)
    exact ⟨h3.trans h1, h4⟩
  other d hd hw := by
    obtain ⟨h1, h2⟩ := h.other d hd hw
    obtain ⟨h3, h4⟩ := k.other d hd h2
    exact ⟨h3.trans h1, h4⟩
  stopped d hd hs := k.stopped d hd (h.stopped d hd hs)

/-- What a grant pass alone leaves, an operation of any cursor with such a pass leaves. -/
theorem mono (h : m.Plays legs none t) : m.Plays legs c t :=
  { h with other := fun d _ => h.other d nofun, stopped := fun d _ => h.stopped d nofun }

/-- A change of one cursor's record, of references and refills, and of who else waits. -/
theorem of_local {c : CurIx} (hr : m.router.Grows t.router) (hs : ∀ id, t.store.info id = m.store.info id)
    (hc : t.can = m.can) (hl : ∀ n, t.pool.waits (.leg n) = m.pool.waits (.leg n))
    (hw : ∀ d, d ≠ c → t.pool.waits (.cursor d) = m.pool.waits (.cursor d))
    (ho : ∀ d, d ≠ c → look t.cursors d = look m.cursors d) : m.Plays legs (some c) t where
  grows := hr
  clips := hs
  tail n := by rw [hc]
  mark n _ := by rw [hc]
  idle n h _ := ⟨by rw [hc], (hl n).trans h⟩
  other d hd h := ⟨ho d (by simpa using hd), (hw d (by simpa using hd)).trans h⟩
  stopped d hd h := by rw [ho d (by simpa using hd)]; exact h

end Media.Plays

section

variable (legs : Vector Leg 64) (m : Media) (c : CurIx)

theorem onCur_plays (f : Cursor → Cursor) : m.Plays legs (some c) (m.onCur c f) :=
  .of_local .refl (fun _ => rfl) rfl (fun _ => rfl) (fun _ _ => rfl) fun _ hd => look_upd_of_ne _ hd.symm _

theorem onStore_plays {f : Store → Store} (h : ∀ id, (f m.store).info id = m.store.info id) :
    m.Plays legs (some c) (m.onStore f) :=
  .of_local .refl h rfl (fun _ => rfl) (fun _ _ => rfl) fun _ _ => rfl

theorem raise_plays (k : EventKind) (x : Subject) (d : BitVec 16) (p : Option PosIx) :
    m.Plays legs none (m.raise k x d p) :=
  ⟨record_grows .., fun _ => rfl, fun _ => rfl, fun _ _ => rfl, fun _ h _ => ⟨rfl, h⟩, fun _ _ h => ⟨rfl, h⟩,
    fun _ _ h => h⟩

theorem issueRefill_plays : m.Plays legs (some c) (m.issueRefill c) := by
  have h := issueRefill_framed m c
  refine .of_local (.of_eq (issueRefill_router m c)) (fun id => info_of_dir ?_ id) h.can
    (fun _ => by rw [h.pool]) (fun _ _ => by rw [h.pool]) fun d hd => issueRefill_cursors m hd
  obtain ⟨_, _, _, hs⟩ := h.store
  rw [hs]

theorem ringReady_plays : m.Plays legs (some c) (m.ringReady c) :=
  (onCur_plays ..).trans (issueRefill_plays ..)

/-- A ring made ready leaves its cursor STOPPED if it was. -/
theorem ringReady_stopped {m : Media} {c : CurIx} (h : (look m.cursors c).state = .stopped) :
    (look (m.ringReady c).cursors c).state = .stopped := by
  unfold Media.ringReady
  rw [issueRefill_cursor, Media.onCur_cursors, look_upd_self, if_neg (by rw [h]; simp)]
  cases (look m.cursors c).nextRefill c (m.onCur c _).store <;> exact h

/-! ## The grant pass -/

/-- What a requester that waits is granted, or a cursor that asks. -/
theorem grantLeg_plays {n : LegIx} (need : Nat) (h : m.pool.waits (.leg n) = true) :
    m.Plays legs none (m.grant legs (.leg n) need) where
  grows := .refl
  clips _ := rfl
  tail k := by
    simp only [Media.grant, Media.restate, Media.onCan_can, Media.onPool_can, upd_upd, look_upd]
    split
    next hk => rw [← hk]; simp [Canceller.restate]
    next => rfl
  mark k _ := by
    simp only [Media.grant, Media.restate, Media.onCan_can, Media.onPool_can, upd_upd, look_upd]
    split
    next hk => rw [← hk]; simp [Canceller.restate]
    next => rfl
  idle k hk _ := by
    have hne : n ≠ k := by rintro rfl; rw [h] at hk; cases hk
    simp only [Media.grant, Media.restate, Media.onCan_can, Media.onPool_can, upd_upd,
      look_upd_of_ne _ hne, Media.onCan_pool, Media.onPool_pool, waits_remove, waits_mark, hk, Bool.false_and,
      and_self]
  other d _ hd := ⟨rfl, by
    simp only [Media.grant, Media.restate, Media.onCan_pool, Media.onPool_pool, waits_remove, waits_mark, hd,
      Bool.false_and]⟩
  stopped _ _ hd := hd

theorem grantCursor_plays (need : Nat) :
    m.Plays legs (some c) (m.grant legs (.cursor c) need) ∧
      ((look m.cursors c).state = .stopped →
        (look (m.grant legs (.cursor c) need).cursors c).state = .stopped) := by
  have hpool : m.Plays legs (some c)
      (m.onPool fun p => (p.mark (m.pool.lowestFree need) (.ring c)).remove (.cursor c)) :=
    .of_local .refl (fun _ => rfl) rfl (fun n => by simp) (fun d hd => by simp [hd]) fun _ _ => rfl
  unfold Media.grant
  dsimp only
  split
  · refine ⟨(hpool.trans (onCur_plays ..)).trans (ringReady_plays ..), fun h => ringReady_stopped ?_⟩
    rw [Media.onCur_cursors, look_upd_self]
    exact h
  · exact ⟨hpool, id⟩

theorem grant_plays {who : Requester} (need : Nat) (h : m.pool.waits who = true) :
    m.Plays legs none (m.grant legs who need) := by
  cases who with
  | leg n => exact grantLeg_plays legs m need h
  | cursor c =>
    obtain ⟨hp, hs⟩ := grantCursor_plays legs m c need
    refine { hp with other := fun d _ hd => hp.other d ?_ hd, stopped := fun d _ hd => ?_ }
    · rintro ⟨⟩
      rw [h] at hd
      cases hd
    · by_cases hdc : d = c
      · subst hdc
        exact hs hd
      · exact hp.stopped d (by simpa using hdc) hd

/-- A reclaim candidate is parked and holds segments (R79). -/
theorem parkedFor_isSome {legs : Vector Leg 64} {m : Media} {n : LegIx}
    (h : (m.parkedFor legs n).isSome = true) :
    (look legs n).state = .parked ∧ (look m.can n).held ≠ [] := by
  unfold Media.parkedFor at h
  dsimp only at h
  split at h
  next hc => exact ⟨hc.1, by simpa using hc.2⟩
  next => cases h

theorem candidate_parkedFor {legs : Vector Leg 64} {m : Media} {n : LegIx}
    (h : m.candidate legs = some n) : (m.parkedFor legs n).isSome = true := by
  unfold Media.candidate at h
  obtain ⟨⟨_, a⟩, hx, rfl⟩ := Option.map_eq_some_iff.mp h
  refine (?_ : ∀ (l : List LegIx) (best : Option (LegIx × Nat)),
    (∀ x, best = some x → (m.parkedFor legs x.1).isSome = true) → ∀ x,
      l.foldl (fun best k => match m.parkedFor legs k, best with
        | none, _ => best
        | some a, none => some (k, a)
        | some a, some (_, b) => if b < a then some (k, a) else best) best = some x →
      (m.parkedFor legs x.1).isSome = true) _ none nofun _ hx
  intro l
  induction l with
  | nil => exact fun best hb => hb
  | cons k l ih =>
    refine fun best hb => ih _ fun x hx => ?_
    dsimp only at hx
    split at hx
    · exact hb x hx
    next a hk =>
      cases hx
      simp [hk]
    next a y b hk =>
      split at hx
      · cases hx
        simp [hk]
      · exact hb x hx

theorem reclaim_plays {n : LegIx} (h : (m.parkedFor legs n).isSome = true) :
    m.Plays legs none (m.reclaim legs n) := by
  obtain ⟨hp, hh⟩ := parkedFor_isSome h
  refine .trans (t := ((m.onPool fun p => p.mark ((look m.can n).held.map HeldSeg.num) .free).onCan n fun c =>
    c.lost true).restate legs n) ?_ (raise_plays ..)
  refine ⟨.refl, fun _ => rfl, fun k => ?_, fun k hk => ?_, fun k hk he => ?_, fun _ _ hd => ⟨rfl, hd⟩,
    fun _ _ hd => hd⟩
  · simp only [Media.restate, Media.onCan_can, Media.onPool_can, upd_upd, look_upd]
    split
    next hk => rw [← hk]; simp [Canceller.restate, Canceller.lost]
    next => rfl
  · have hne : n ≠ k := by rintro rfl; exact hk hp
    simp only [Media.restate, Media.onCan_can, Media.onPool_can, upd_upd, look_upd_of_ne _ hne]
  · have hne : n ≠ k := by rintro rfl; exact hh he
    simp only [Media.restate, Media.onCan_can, Media.onPool_can, upd_upd, look_upd_of_ne _ hne]
    exact ⟨trivial, hk⟩

theorem passLoop_plays (fuel : Nat) : m.Plays legs none (m.passLoop legs fuel) := by
  induction fuel generalizing m with
  | zero => exact .refl
  | succ fuel ih =>
    unfold Media.passLoop
    split
    · exact .refl
    next e _ he =>
      split
      · have hw : m.pool.waits e.who = true := by simp [Pool.waits, he]
        exact (grant_plays legs m _ hw).trans (ih _)
      · split
        · exact .refl
        next n hn => exact (reclaim_plays legs m (candidate_parkedFor hn)).trans (ih _)

theorem pass_plays : m.Plays legs none (m.pass legs) := passLoop_plays ..

theorem askCursor_plays (need : Nat) : m.Plays legs (some c) (m.ask legs (.cursor c) need) := by
  unfold Media.ask
  split
  · refine .trans (t := m.onPool fun p => p.changeNeed (.cursor c) need) ?_ (pass_plays ..).mono
    exact .of_local .refl (fun _ => rfl) rfl (fun _ => by simp) (fun _ _ => by simp) fun _ _ => rfl
  · split
    · exact (grantCursor_plays ..).1
    · refine .trans (t := m.onPool fun p => p.insert { who := .cursor c, need := need }) ?_ (pass_plays ..).mono
      exact .of_local .refl (fun _ => rfl) rfl (fun _ => by simp) (fun _ hd => by simp [hd.symm]) fun _ _ => rfl

theorem release_plays (segs : List SegIx) : m.Plays legs (some c) (m.release legs segs) :=
  .trans (t := m.onPool fun p => p.mark segs .free)
    (.of_local .refl (fun _ => rfl) rfl (fun _ => rfl) (fun _ _ => rfl) fun _ _ => rfl) (pass_plays ..).mono

theorem withdrawCursor_plays : m.Plays legs (some c) (m.withdraw legs (.cursor c)) := by
  unfold Media.withdraw
  split
  · refine .trans (t := m.onPool fun p => p.remove (.cursor c)) ?_ (pass_plays ..).mono
    exact .of_local .refl (fun _ => rfl) rfl (fun _ => by simp) (fun _ hd => by simp [hd]) fun _ _ => rfl
  · exact .refl

/-! ## Cursors -/

theorem enterItems_plays (items : List Item) (i elapsed : Nat) :
    m.Plays legs (some c) (m.enterItems c items i elapsed).1 := by
  induction items generalizing m i elapsed with
  | nil => exact .refl
  | cons it rest ih =>
    unfold Media.enterItems
    cases it with
    | clip id gain =>
      dsimp only
      split
      · exact (onStore_plays legs m c (takeRef_info _ _)).trans (onCur_plays ..)
      · exact (raise_plays ..).mono.trans (ih ..)
    | silence ms => exact onCur_plays ..
    | tone k ms =>
      dsimp only
      split
      · exact onCur_plays ..
      · exact .of_local .refl (fun _ => rfl) rfl (fun _ => rfl) (fun _ _ => rfl)
          fun _ hd => look_upd_of_ne _ hd.symm _

theorem dropReference_plays : m.Plays legs (some c) (m.dropReference c) := by
  unfold Media.dropReference
  split
  · exact .refl
  · exact (onCur_plays legs m c _).trans (onStore_plays _ _ _ (dropRef_info _ _))

theorem leaveItem_plays : m.Plays legs (some c) (m.leaveItem c) :=
  (dropReference_plays ..).trans (onCur_plays ..)

theorem snap_plays (q : CueIx) : m.Plays legs (some c) (m.snap c q) := onCur_plays ..

theorem withdrawRefill_plays : m.Plays legs (some c) (m.withdrawRefill c) :=
  (onCur_plays legs m c _).trans (onStore_plays _ _ _ fun _ => rfl)

theorem giveRing_plays : m.Plays legs (some c) (m.giveRing legs c) := by
  unfold Media.giveRing
  split
  · exact (onCur_plays legs m c _).trans (release_plays ..)
  · exact withdrawCursor_plays ..

theorem stopCursor_plays : m.Plays legs (some c) (m.stopCursor legs c) := by
  unfold Media.stopCursor
  split
  · exact .refl
  · exact ((dropReference_plays ..).trans (withdrawRefill_plays ..)).trans
      ((giveRing_plays ..).trans (onCur_plays ..))

theorem startCursor_plays (q : CueIx) (place : Option Place) :
    m.Plays legs (some c) (m.startCursor legs c q place).1 := by
  unfold Media.startCursor
  split
  · exact .refl
  · have h : ∀ x i e, m.Plays legs (some c)
        ((((m.onCur c fun cur => cur.stopped.beginAt x).snap c q).enterAt c i e).1) :=
      fun x i e => ((onCur_plays ..).trans (snap_plays ..)).trans (enterItems_plays ..)
    dsimp only
    split
    · exact (h _ _ _).trans ((onCur_plays ..).trans (askCursor_plays ..))
    · split
      · exact (h _ _ _).trans ((onCur_plays ..).trans (askCursor_plays ..))
      · exact (h _ _ _).trans (onCur_plays ..)

theorem pauseCursor_plays : m.Plays legs (some c) (m.pauseCursor c) := onCur_plays ..
theorem resumeCursor_plays : m.Plays legs (some c) (m.resumeCursor c) := onCur_plays ..

end

end Sys2Proof.Machine
end

section
/-! PROOFS. What prompts can do to calls: the legs whose connect entry leaves its position cut through, and no
other leg, no position record and no membership changes. -/

namespace Sys2Proof.Machine

/-! ## Memberships -/

/-- The first two clauses of `Units.membersConsistent`: a leg stands in the group its record names, once. -/
def Units.placed (u : Units) : Prop :=
  (∀ (n : LegIx) (g : GroupIx), (look u.legs n).group = some g ↔ n ∈ (look u.groups g).members) ∧
    ∀ g : GroupIx, (look u.groups g).members.Nodup

/-- Its third clause for one leg: its record names a group exactly when it is PARKED or CONNECTING (R21). -/
def Leg.grouped (l : Leg) : Prop :=
  l.group.isSome = (decide (l.state = .parked) || decide (l.state = .connecting))

/-- Memberships consistent as far as the legs of a set go, which may leave out one whose change is under way. -/
def Units.membersFor (S : LegIx → Prop) (u : Units) : Prop :=
  u.placed ∧ ∀ n, S n → (look u.legs n).grouped

theorem membersConsistent_iff (u : Units) : u.membersConsistent ↔ u.membersFor fun _ => True :=
  ⟨fun ⟨h1, h2, h3⟩ => ⟨⟨h1, h2⟩, fun n _ => h3 n⟩, fun ⟨⟨h1, h2⟩, h3⟩ => ⟨h1, h2, fun n => h3 n trivial⟩⟩

theorem filter_of_placed {u : Units} {n : LegIx} {g : GroupIx} (h : u.placed)
    (hg : (look u.legs n).group ≠ some g) :
    (look u.groups g).members.filter (· ≠ n) = (look u.groups g).members :=
  List.filter_eq_self.mpr fun m hm => decide_eq_true (by rintro rfl; exact hg ((h.1 m g).mpr hm))

/-- A leg taken out of its group. -/
theorem placed_of_removed {u t : Units} {n : LegIx} (h : u.placed) (hn : (look t.legs n).group = none)
    (ho : ∀ m, m ≠ n → (look t.legs m).group = (look u.legs m).group)
    (hm : ∀ g, (look t.groups g).members = (look u.groups g).members.filter (· ≠ n)) : t.placed := by
  refine ⟨fun m g => ?_, fun g => by rw [hm]; exact (h.2 g).filter _⟩
  rw [hm, List.mem_filter]
  by_cases hmn : m = n
  · subst hmn
    simp [hn]
  · rw [ho m hmn, h.1 m g]
    simp [hmn]

/-- A leg put at the tail of a group, and taken out of its old one. -/
theorem placed_of_moved {u t : Units} {n : LegIx} {g : GroupIx} (h : u.placed)
    (hn : (look t.legs n).group = some g) (ho : ∀ m, m ≠ n → (look t.legs m).group = (look u.legs m).group)
    (hm : ∀ k, (look t.groups k).members =
      (look u.groups k).members.filter (· ≠ n) ++ if g = k then [n] else []) : t.placed := by
  refine ⟨fun m k => ?_, fun k => ?_⟩
  · rw [hm, List.mem_append, List.mem_filter]
    by_cases hmn : m = n
    · subst hmn
      rw [hn]
      by_cases hk : g = k <;> simp [hk]
    · rw [ho m hmn, h.1 m k]
      by_cases hk : g = k <;> simp [hk, hmn]
  · rw [hm]
    split
    · exact List.nodup_append.mpr ⟨(h.2 k).filter _, List.nodup_singleton n, by simp⟩
    · rw [List.append_nil]
      exact (h.2 k).filter _

/-- Operations that leave records and members leave their consistency. -/
theorem membersFor_of_eq {u t : Units} (hl : ∀ n, (look t.legs n).group = (look u.legs n).group ∧
      (look t.legs n).state = (look u.legs n).state)
    (hg : ∀ g, (look t.groups g).members = (look u.groups g).members) {S : LegIx → Prop} (h : u.membersFor S) :
    t.membersFor S := by
  refine ⟨⟨fun n g => ?_, fun g => ?_⟩, fun n hn => ?_⟩
  · rw [(hl n).1, hg]
    exact h.1.1 n g
  · rw [hg]
    exact h.1.2 g
  · unfold Leg.grouped
    rw [(hl n).1, (hl n).2]
    exact h.2 n hn

/-! ## What prompts do -/

/-- A leg that has cut through (R31). -/
def Leg.cut (l : Leg) : Leg :=
  { l with state := .talking, group := none, parkTime := none, timer := none, connectRef := false }

theorem cut_not_awaits (l : Leg) : ¬ l.cut.awaits := fun h => nomatch (show LegState.talking = .connecting from h.1)

theorem cut_grouped (l : Leg) : l.cut.grouped := rfl

/-- Whether a whisper state is what another may become where no connect entry and no coach is placed. -/
structure Whisper.Within (w' w : Whisper) : Prop where
  connect : w'.hasConnect = true → w.hasConnect = true
  coach : w'.playing = .coach → w.playing = .coach

theorem Whisper.Within.refl {w : Whisper} : w.Within w := ⟨id, id⟩

theorem Whisper.Within.trans {w w' w'' : Whisper} (h : w'.Within w) (k : w''.Within w') : w''.Within w :=
  ⟨fun x => h.connect (k.connect x), fun x => h.coach (k.coach x)⟩

/-- What the scheduling of prompts does, at any positions: bound legs that wait for the report of their connect
entry may cut through (R29), whisper states lose and start entries, and cursors play. -/
structure Units.Prompts (u t : Units) : Prop where
  pos : t.pos = u.pos
  pairs : t.pairs = u.pairs
  legs : ∀ n, look t.legs n = look u.legs n ∨
    ((∃ q, (look u.pos q).bound = some n) ∧ (look u.legs n).awaits ∧ look t.legs n = (look u.legs n).cut)
  sub : ∀ g n, n ∈ (look t.groups g).members → n ∈ (look u.groups g).members
  members : ∀ S, u.membersFor S → t.membersFor S
  whisper : ∀ p, (look t.whisper p).Within (look u.whisper p)
  grows : u.router.Grows t.router
  tail : ∀ n, (look t.can n).tail = (look u.can n).tail
  mark : ∀ n, (look u.legs n).state ≠ .parked → (look t.can n).reclaimed = (look u.can n).reclaimed
  idle : ∀ n, ¬ (look u.legs n).awaits → u.pool.waits (.leg n) = false → (look u.can n).held = [] →
    look t.can n = look u.can n ∧ t.pool.waits (.leg n) = false

namespace Units.Prompts

variable {u t v : Units}

theorem refl : u.Prompts u :=
  ⟨rfl, rfl, fun _ => .inl rfl, fun _ _ => id, fun _ => id, fun _ => .refl, .refl, fun _ => rfl,
    fun _ _ => rfl, fun _ _ h _ => ⟨rfl, h⟩⟩

theorem leg_of_not_awaits (h : u.Prompts t) {n : LegIx} (hn : ¬ (look u.legs n).awaits) :
    look t.legs n = look u.legs n := (h.legs n).resolve_right fun ⟨_, ha, _⟩ => hn ha

theorem leg_of_unbound (h : u.Prompts t) {n : LegIx} (hn : ∀ q, (look u.pos q).bound ≠ some n) :
    look t.legs n = look u.legs n := (h.legs n).resolve_right fun ⟨⟨q, hq⟩, _⟩ => hn q hq

/-- A leg that is neither PARKED nor made so is so after prompts too. -/
theorem not_parked (h : u.Prompts t) {n : LegIx} (hn : (look u.legs n).state ≠ .parked) :
    (look t.legs n).state ≠ .parked := by
  rcases h.legs n with he | ⟨-, -, he⟩ <;> rw [he]
  · exact hn
  · exact nofun

theorem trans (h : u.Prompts t) (k : t.Prompts v) : u.Prompts v where
  pos := k.pos.trans h.pos
  pairs := k.pairs.trans h.pairs
  legs n := by
    rcases h.legs n with he | ⟨hq, ha, he⟩
    · simpa only [he, h.pos] using k.legs n
    · exact .inr ⟨hq, ha, (k.leg_of_not_awaits (by rw [he]; exact cut_not_awaits _)).trans he⟩
  sub g n hn := h.sub g n (k.sub g n hn)
  members S hu := k.members S (h.members S hu)
  whisper p := (h.whisper p).trans (k.whisper p)
  grows := h.grows.trans k.grows
  tail n := (k.tail n).trans (h.tail n)
  mark n hn := (k.mark n (h.not_parked hn)).trans (h.mark n hn)
  idle n hn hw hh := by
    obtain ⟨h1, h2⟩ := h.idle n hn hw hh
    obtain ⟨h3, h4⟩ := k.idle n (by rw [h.leg_of_not_awaits hn]; exact hn) h2 (by rw [h1]; exact hh)
    exact ⟨h3.trans h1, h4⟩

end Units.Prompts

section

variable (u : Units) (p : PosIx)

theorem onMedia_prompts {c : Option CurIx} {f : Media → Media} (h : u.toMedia.Plays u.legs c (f u.toMedia)) :
    u.Prompts (u.onMedia f) :=
  ⟨rfl, rfl, fun _ => .inl rfl, fun _ _ => id, fun _ => id, fun _ => .refl, h.grows, h.tail, h.mark,
    fun n _ => h.idle n⟩

theorem onWhisper_prompts {f : Whisper → Whisper} (h : (f (look u.whisper p)).Within (look u.whisper p)) :
    u.Prompts (u.onWhisper p f) :=
  { Units.Prompts.refl (u := u) with
    whisper := fun q => by
      rw [Units.onWhisper_whisper, look_upd]
      split
      next hq => rw [← hq]; exact h
      next => exact .refl }

theorem raise_prompts (k : EventKind) (x : Subject) (d : BitVec 16) (t : Option PosIx) :
    u.Prompts (u.raise k x d t) := onMedia_prompts u (raise_plays u.legs u.toMedia k x d t)

/-! ## Hold groups -/

theorem leave_plays (g : GroupIx) (n : LegIx) :
    u.toMedia.Plays u.legs (some (groupCursor g)) (u.leave g n).toMedia := by
  unfold Units.leave
  dsimp only
  split
  · exact stopCursor_plays ..
  · exact .refl

theorem startTest_plays (g : GroupIx) :
    u.toMedia.Plays u.legs (some (groupCursor g)) (u.startTest g).toMedia := by
  unfold Units.startTest
  dsimp only
  split
  · exact .refl
  · split
    · exact startCursor_plays ..
    · exact .refl

theorem startTest_prompts (g : GroupIx) : u.Prompts (u.startTest g) := by
  have h := startTest_plays u g
  have hk := startTest_keeps u g
  have hl : (u.startTest g).legs = u.legs := startTest_legs ..
  have hm := startTest_members u g
  have hw : (u.startTest g).whisper = u.whisper := startTest_whisper ..
  exact ⟨hk.pos, hk.pairs, fun n => .inl (by rw [hl]), fun k n => by rw [hm]; exact id,
    fun S => membersFor_of_eq (fun n => by rw [hl]; exact ⟨rfl, rfl⟩) hm, fun q => by rw [hw]; exact .refl,
    h.grows, h.tail, h.mark, fun n _ => h.idle n⟩

/-! ## Cut-through -/

/-- A leg that has left its group, if it stood in one. -/
def Units.leaveFrom (u : Units) (n : LegIx) : Option GroupIx → Units
  | some g => u.leave g n
  | none => u

variable (n : LegIx)

theorem cutThrough_eq (cause : CutCause) :
    u.cutThrough n cause =
      (((u.onLeg n Leg.cut).leaveFrom n (look u.legs n).group).onMedia fun m =>
        m.restate (upd u.legs n Leg.cut) n).raise .cutThrough (.leg n)
          (detail2 cause.code (ixByte (look u.legs n).owner)) (look u.legs n).target := by
  have hl : (upd u.legs n fun l : Leg => { l with
      state := .talking, group := none, parkTime := none, timer := none, connectRef := false }) =
      upd u.legs n Leg.cut := rfl
  unfold Units.cutThrough Units.leaveFrom
  dsimp only
  cases (look u.legs n).group with
  | none => simp only [Units.onLeg_legs, hl, look_upd_self]; rfl
  | some g => simp only [leave_legs, Units.onLeg_legs, hl, look_upd_self]; rfl

theorem leaveFrom_legs (o : Option GroupIx) : (u.leaveFrom n o).legs = u.legs := by
  cases o with
  | none => rfl
  | some g => exact leave_legs ..

theorem leaveFrom_whisper (o : Option GroupIx) : (u.leaveFrom n o).whisper = u.whisper := by
  cases o with
  | none => rfl
  | some g => exact leave_whisper ..

theorem leaveFrom_members (o : Option GroupIx) (g : GroupIx) :
    (look (u.leaveFrom n o).groups g).members =
      if o = some g then (look u.groups g).members.filter (· ≠ n) else (look u.groups g).members := by
  cases o with
  | none => rfl
  | some k =>
    rw [show u.leaveFrom n (some k) = u.leave k n from rfl, leave_members]
    simp only [Option.some.injEq]

theorem leaveFrom_keeps (o : Option GroupIx) : u.Keeps (u.leaveFrom n o) := by
  cases o with
  | none => exact .refl
  | some g => exact leave_keeps ..

theorem leaveFrom_plays (o : Option GroupIx) :
    u.toMedia.Plays u.legs (o.map groupCursor) (u.leaveFrom n o).toMedia := by
  cases o with
  | none => exact .refl
  | some g => exact leave_plays ..

@[simp] theorem cutThrough_legs (cause : CutCause) : (u.cutThrough n cause).legs = upd u.legs n Leg.cut := by
  rw [cutThrough_eq, Units.raise_legs, Units.onMedia_legs, leaveFrom_legs, Units.onLeg_legs]

theorem cutThrough_whisper (cause : CutCause) : (u.cutThrough n cause).whisper = u.whisper := by
  rw [cutThrough_eq, Units.raise_whisper, Units.onMedia_whisper, leaveFrom_whisper, Units.onLeg_whisper]

theorem cutThrough_members (cause : CutCause) (g : GroupIx) :
    (look (u.cutThrough n cause).groups g).members =
      if (look u.legs n).group = some g then (look u.groups g).members.filter (· ≠ n)
      else (look u.groups g).members := by
  rw [cutThrough_eq, Units.raise_groups, Units.onMedia_groups, leaveFrom_members, Units.onLeg_groups]

/-- A leg that leaves the group its record named, with that name cleared, is in no group. -/
theorem membersFor_of_left {u t : Units} {n : LegIx} {S : LegIx → Prop} (h : u.membersFor S)
    (hn : (look t.legs n).group = none) (hs : (look t.legs n).grouped)
    (ho : ∀ m, m ≠ n → look t.legs m = look u.legs m)
    (hm : ∀ g, (look t.groups g).members =
      if (look u.legs n).group = some g then (look u.groups g).members.filter (· ≠ n)
      else (look u.groups g).members) : t.membersFor S := by
  refine ⟨placed_of_removed h.1 hn (fun m hmn => by rw [ho m hmn]) fun g => ?_, fun m hS => ?_⟩
  · rw [hm]
    split
    · rfl
    next hg => exact (filter_of_placed h.1 hg).symm
  · by_cases hmn : m = n
    · rw [hmn]; exact hs
    · rw [ho m hmn]; exact h.2 m hS

theorem cutThrough_membersFor {u : Units} (n : LegIx) (cause : CutCause) {S : LegIx → Prop}
    (h : u.membersFor S) : (u.cutThrough n cause).membersFor S :=
  membersFor_of_left (n := n) h (by rw [cutThrough_legs, look_upd_self]; rfl)
    (by rw [cutThrough_legs, look_upd_self]; exact cut_grouped _)
    (fun m hm => by rw [cutThrough_legs, look_upd_of_ne _ (Ne.symm hm)]) (cutThrough_members u n cause)

theorem restate_can (legs : Vector Leg 64) (n k : LegIx) (m : Media) :
    (look (m.restate legs n).can k).tail = (look m.can k).tail ∧
      (look (m.restate legs n).can k).reclaimed = (look m.can k).reclaimed ∧
        (k ≠ n → look (m.restate legs n).can k = look m.can k) := by
  simp only [Media.restate, Media.onCan_can, look_upd]
  split
  next h =>
    subst h
    exact ⟨enter_tail .., enter_reclaimed .., fun h => absurd rfl h⟩
  next => exact ⟨rfl, rfl, fun _ => rfl⟩

theorem cutThrough_prompts {u : Units} {p : PosIx} {n : LegIx} (cause : CutCause)
    (hb : (look u.pos p).bound = some n) (h : (look u.legs n).awaits) : u.Prompts (u.cutThrough n cause) := by
  have hk := cutThrough_keeps u n cause
  have hleg : ∀ m, look (upd u.legs n Leg.cut) m = if n = m then (look u.legs n).cut else look u.legs m :=
    fun m => look_upd ..
  have hne : ∀ m, ¬ (look u.legs m).awaits → m ≠ n := fun m hm e => hm (e ▸ h)
  have hl := leaveFrom_plays (u.onLeg n Leg.cut) n (look u.legs n).group
  have hr := restate_can (upd u.legs n Leg.cut) n
  have hmark : ∀ m, (look u.legs m).state ≠ .parked → (look (upd u.legs n Leg.cut) m).state ≠ .parked := by
    intro m hm
    rw [hleg]
    split
    · exact nofun
    · exact hm
  exact {
    pos := hk.pos
    pairs := hk.pairs
    legs := fun m => by
      rw [cutThrough_legs, hleg]
      split
      next hm => subst hm; exact .inr ⟨⟨p, hb⟩, h, rfl⟩
      next => exact .inl rfl
    sub := fun g m hm => by
      rw [cutThrough_members] at hm
      split at hm
      · exact List.mem_of_mem_filter hm
      · exact hm
    members := fun S => cutThrough_membersFor n cause
    whisper := fun q => by rw [cutThrough_whisper]; exact .refl
    grows := by
      rw [cutThrough_eq]
      exact hl.grows.trans (record_grows ..)
    tail := fun m => by
      rw [cutThrough_eq]
      exact (hr m _).1.trans (hl.tail m)
    mark := fun m hm => by
      rw [cutThrough_eq]
      exact (hr m _).2.1.trans (hl.mark m (hmark m hm))
    idle := fun m hm hw hh => by
      rw [cutThrough_eq]
      obtain ⟨h1, h2⟩ := hl.idle m hw hh
      exact ⟨((hr m _).2.2 (hne m hm)).trans h1, h2⟩ }

theorem connectReport_prompts (cause : CutCause) : u.Prompts (u.connectReport p cause) := by
  unfold Units.connectReport
  split
  · exact .refl
  next n hb =>
    dsimp only
    split
    next h => exact cutThrough_prompts cause hb h
    · exact .refl

/-! ## Entries -/

/-- An entry whose place in queue or stack it leaves starts (R116). -/
theorem startEntry_prompts (e : Entry) {f : Whisper → Whisper}
    (h : ({ f (look u.whisper p) with
      playing := .prompt { e with saved := none, holdsCursor := false } } : Whisper).Within (look u.whisper p)) :
    u.Prompts ((u.onWhisper p f).startEntry p e).1 := by
  let g := fun w : Whisper => { f w with playing := .prompt { e with saved := none, holdsCursor := false } }
  have hg : (u.onWhisper p f).onWhisper p
      (fun w => { w with playing := .prompt { e with saved := none, holdsCursor := false } }) = u.onWhisper p g := by
    simp only [Units.onWhisper, upd_upd, g]
  refine .trans (t := u.onWhisper p g) (onWhisper_prompts u p h) ?_
  unfold Units.startEntry
  dsimp only
  rw [hg]
  exact onMedia_prompts _ (f := fun _ => _) (startCursor_plays ..)

theorem completeEntry_prompts (e : Entry) : u.Prompts (u.completeEntry p e) := by
  have h : u.Prompts (u.onWhisper p fun w => { w with playing := .none }) := by
    refine onWhisper_prompts u p ⟨fun hc => ?_, nofun⟩
    simp only [Whisper.hasConnect, Playing.isPrompt, Bool.or_false] at hc ⊢
    rw [hc, Bool.true_or]
  unfold Units.completeEntry
  dsimp only
  split
  · exact h.trans (connectReport_prompts ..)
  · exact h.trans (raise_prompts ..)

theorem takePlace_prompts : u.Prompts (u.takePlace p).1 :=
  onMedia_prompts u (f := fun _ => _) ((pauseCursor_plays ..).trans (stopCursor_plays ..))

theorem stopPos_prompts : u.Prompts (u.stopPos p) := onMedia_prompts u (stopCursor_plays ..)

theorem pushPlaying_prompts (byCoach : Bool) : u.Prompts (u.pushPlaying p byCoach) := by
  unfold Units.pushPlaying
  split
  · exact .refl
  · exact .refl
  next e he =>
    have push : ∀ (v : Units) (e' : Entry), u.Prompts v → v.whisper = u.whisper → e'.connect = e.connect →
        u.Prompts (v.onWhisper p fun w => { w with playing := .none, stack := e' :: w.stack }) := by
      intro v e' hv hw hc
      refine hv.trans (onWhisper_prompts v p ⟨fun h => ?_, nofun⟩)
      simp only [hw, Whisper.hasConnect, Playing.isPrompt, List.any_cons, hc, he, Bool.or_false] at h ⊢
      rw [← h]
      ac_rfl
    dsimp only
    split
    · exact push _ _ (stopPos_prompts ..) rfl rfl
    · exact push _ _ (onMedia_prompts u (pauseCursor_plays ..)) rfl rfl
    · exact push _ _ (takePlace_prompts ..) rfl rfl

/-- An entry taken from queue or stack to start. -/
theorem within_of_started {w : Whisper} {queue stack : List Entry} {e : Entry}
    (h : queue.any Entry.connect = true ∨ stack.any Entry.connect = true ∨ e.connect = true →
      w.queue.any Entry.connect = true ∨ w.stack.any Entry.connect = true) :
    ({ queue := queue, playing := .prompt e, stack := stack } : Whisper).Within w := by
  refine ⟨fun hc => ?_, nofun⟩
  simp only [Whisper.hasConnect, Playing.isPrompt, Bool.or_eq_true, or_assoc] at hc ⊢
  rcases h hc with h | h
  · exact .inl h
  · exact .inr (.inl h)

theorem preemptor_some {u : Units} {p : PosIx} {lvl : Level} {h : Entry} {q : List Entry}
    (hp : u.preemptor p lvl = some (h, q)) : (look u.whisper p).queue = h :: q := by
  unfold Units.preemptor at hp
  split at hp
  next h' q' hq =>
    split at hp
    · cases hp; exact hq
    · cases hp
  next => cases hp

theorem nextLoop_prompts (fuel : Nat) : u.Prompts (u.nextLoop p fuel) := by
  induction fuel generalizing u with
  | zero => exact .refl
  | succ fuel ih =>
    have go : ∀ (v : Units) (e : Entry), u.Prompts (v.startEntry p e).1 →
        u.Prompts (if (v.startEntry p e).2 = true then
          ((v.startEntry p e).1.completeEntry p e).nextLoop p fuel else (v.startEntry p e).1) := by
      intro v e h
      split
      · exact (h.trans (completeEntry_prompts ..)).trans (ih _)
      · exact h
    unfold Units.nextLoop
    dsimp only
    split
    next e stack hs =>
      split
      next h q hp =>
        have hq := preemptor_some hp
        refine go _ _ ?_
        split
        · refine (takePlace_prompts u p).trans (startEntry_prompts _ p _ (within_of_started ?_))
          show _ → (look u.whisper p).queue.any _ = true ∨ (look u.whisper p).stack.any _ = true
          simp only [hq, hs, List.any_cons, Bool.or_eq_true]
          tauto
        · refine startEntry_prompts _ p _ (within_of_started ?_)
          simp only [hq, hs, List.any_cons, Bool.or_eq_true]
          tauto
      next =>
        split
        · refine .trans ?_ (onMedia_prompts _ (resumeCursor_plays ..))
          rw [show ∀ f g, (u.onWhisper p f).onWhisper p g = u.onWhisper p fun w => g (f w) from
            fun f g => by simp only [Units.onWhisper, upd_upd]]
          refine onWhisper_prompts u p (within_of_started ?_)
          simp only [hs, List.any_cons, Bool.or_eq_true]
          tauto
        · refine go _ _ (startEntry_prompts _ p _ (within_of_started ?_))
          simp only [hs, List.any_cons, Bool.or_eq_true]
          tauto
    next h q hs hq =>
      refine go _ _ (startEntry_prompts _ p _ (within_of_started ?_))
      simp only [hs, hq, List.any_cons, List.any_nil, Bool.or_eq_true]
      tauto
    next => exact .refl

theorem next_prompts : u.Prompts (u.next p) := by
  unfold Units.next
  dsimp only
  split
  · exact nextLoop_prompts ..
  · exact .refl
  · exact .refl

theorem startHead_prompts : u.Prompts (u.startHead p) := by
  unfold Units.startHead
  split
  · exact .refl
  next h q hq =>
    have hs : u.Prompts ((u.onWhisper p fun w => { w with queue := q }).startEntry p h).1 := by
      refine startEntry_prompts _ p _ (within_of_started ?_)
      simp only [hq, List.any_cons, Bool.or_eq_true]
      tauto
    dsimp only
    split
    · exact (hs.trans (completeEntry_prompts ..)).trans (next_prompts ..)
    · exact hs

theorem schedule_prompts : u.Prompts (u.schedule p) := by
  unfold Units.schedule
  split
  · exact startHead_prompts ..
  · exact .refl
  · split
    · exact (pushPlaying_prompts ..).trans (startHead_prompts ..)
    · exact .refl

theorem enqueue_any (q : List Entry) (e : Entry) :
    (enqueue q e).any Entry.connect = (e.connect || q.any Entry.connect) := by
  have h : q.any Entry.connect = ((q.take (queueAhead q e.level)).any Entry.connect ||
      (q.drop (queueAhead q e.level)).any Entry.connect) := by
    rw [← List.any_append, List.take_append_drop]
  rw [enqueue, List.any_append, List.any_cons, h]
  ac_rfl

theorem place_prompts {e : Entry} (he : e.connect = false) : u.Prompts (u.place p e) := by
  refine .trans (onWhisper_prompts u p ⟨fun h => ?_, id⟩) (schedule_prompts ..)
  simp only [Whisper.hasConnect, enqueue_any, he, Bool.false_or] at h ⊢
  exact h

theorem post_prompts (q : CueIx) (lvl : Level) {o : Origin} (ho : o ≠ .connect) :
    u.Prompts (u.post p q lvl o).1 := by
  unfold Units.post
  split
  · exact raise_prompts ..
  · exact place_prompts u p (decide_eq_false ho)

/-! ## Removal -/

theorem within_of_removed (w : Whisper) (f : Entry → Bool) :
    ({ queue := w.queue.filter fun e => !f e, stack := w.stack.filter fun e => !f e,
       playing := if w.playing.isPrompt f then .none else w.playing } : Whisper).Within w := by
  have hfilter : ∀ l : List Entry, (l.filter fun e => !f e).any Entry.connect = true →
      l.any Entry.connect = true := fun l h => by
    obtain ⟨e, he, hc⟩ := List.any_eq_true.mp h
    exact List.any_eq_true.mpr ⟨e, List.mem_of_mem_filter he, hc⟩
  refine ⟨fun h => ?_, fun h => ?_⟩
  · simp only [Whisper.hasConnect, Bool.or_eq_true] at h ⊢
    rcases h with (h | h) | h
    · exact .inl (.inl (hfilter _ h))
    · exact .inl (.inr (hfilter _ h))
    · split at h
      · cases h
      · exact .inr h
  · dsimp only at h
    split at h
    · cases h
    · exact h

theorem removeEntries_prompts (f : Entry → Bool) : u.Prompts (u.removeEntries p f).1 := by
  have h := onWhisper_prompts u p (f := fun w =>
    { w with
      queue := w.queue.filter fun e => !f e
      stack := w.stack.filter fun e => !f e
      playing := if (look u.whisper p).playing.isPrompt f then .none else w.playing })
    (within_of_removed (look u.whisper p) f)
  unfold Units.removeEntries
  dsimp only
  split
  · exact h.trans (stopPos_prompts ..)
  · exact h

theorem removeConnect_prompts : u.Prompts (u.removeConnect p) := by
  unfold Units.removeConnect
  dsimp only
  split
  · exact (removeEntries_prompts ..).trans (next_prompts ..)
  · exact removeEntries_prompts ..

theorem emptyWhisper_prompts : u.Prompts (u.emptyWhisper p) :=
  (removeEntries_prompts ..).trans (onWhisper_prompts _ p ⟨fun h => (by cases h), nofun⟩)

theorem dropCoach_prompts : u.Prompts (u.dropCoach p) := by
  unfold Units.dropCoach
  split
  next h =>
    refine .trans (onWhisper_prompts u p ⟨fun hc => ?_, fun hc => (by cases hc)⟩) (next_prompts ..)
    simp only [Whisper.hasConnect, h] at hc ⊢
    exact hc
  · exact .refl
  · exact .refl

/-! ## Settling -/

theorem setPostings_prompts (xs : List Posting) : u.Prompts { u with postings := xs } :=
  { Units.Prompts.refl (u := u) with }

theorem settle_prompts : u.Prompts u.settle := by
  refine (setPostings_prompts u []).trans ?_
  unfold Units.settle
  generalize ({ u with postings := [] } : Units) = v
  generalize u.postings = xs
  induction xs generalizing v with
  | nil => exact .refl
  | cons x xs ih =>
    exact ((post_prompts v x.pos x.cue x.level (by decide)).trans (setPostings_prompts ..)).trans (ih _)

end

end Sys2Proof.Machine
end

section
/-! PROOFS. The operations of the units, by what they do to bindings and to memberships in hold groups. -/

namespace Sys2Proof.Machine

/-! ## What the invariants read -/

/-- What the consistency of bindings reads of a leg: its bound position, and whether it is in a call. -/
def Leg.call (l : Leg) : Option PosIx × Bool := (l.bound, l.inCall)

/-- What it reads of a position: the bound leg, and whether it is ENGAGED, present and ABSENT. -/
def Position.call (x : Position) : Option LegIx × Bool × Bool × Bool :=
  (x.bound, decide (x.state = .engaged), x.present, decide (x.state = .absent))

/-- What it reads is left as it was. -/
structure Units.KeepsCalls (u t : Units) : Prop where
  legs : ∀ n, (look t.legs n).call = (look u.legs n).call
  pos : ∀ p, (look t.pos p).call = (look u.pos p).call

/-- Memberships stay consistent, as far as the legs of any set go. -/
def Units.KeepsMembers (u t : Units) : Prop := ∀ S, u.membersFor S → t.membersFor S

/-- An operation that neither binds nor unbinds, and keeps memberships consistent. -/
structure Units.Orderly (u t : Units) : Prop where
  calls : u.KeepsCalls t
  members : u.KeepsMembers t

/-- An operation under which both invariants are kept. -/
structure Units.Safe (u t : Units) : Prop where
  bindings : u.bindingsConsistent → t.bindingsConsistent
  members : u.membersConsistent → t.membersConsistent

theorem bindingsConsistent_iff (u : Units) :
    u.bindingsConsistent ↔
      (∀ n, (look u.legs n).call.1.isSome = (look u.legs n).call.2) ∧
      (∀ p, (look u.pos p).call.1.isSome = (look u.pos p).call.2.1) ∧
      (∀ p, (look u.pos p).call.2.2.1 = !(look u.pos p).call.2.2.2) ∧
      ∀ n p, (look u.legs n).call.1 = some p ↔ (look u.pos p).call.1 = some n := by
  simp only [Position.call, ← decide_not]
  exact Iff.rfl

namespace Units.KeepsCalls

variable {u t v : Units}

theorem refl : u.KeepsCalls u := ⟨fun _ => rfl, fun _ => rfl⟩

theorem trans (h : u.KeepsCalls t) (k : t.KeepsCalls v) : u.KeepsCalls v :=
  ⟨fun n => (k.legs n).trans (h.legs n), fun p => (k.pos p).trans (h.pos p)⟩

theorem of_eq (hl : t.legs = u.legs) (hp : t.pos = u.pos) : u.KeepsCalls t :=
  ⟨fun _ => by rw [hl], fun _ => by rw [hp]⟩

theorem bindings (h : u.KeepsCalls t) (hu : u.bindingsConsistent) : t.bindingsConsistent := by
  rw [bindingsConsistent_iff] at hu ⊢
  simpa only [h.legs, h.pos] using hu

end Units.KeepsCalls

namespace Units.KeepsMembers

variable {u t v : Units}

theorem trans (h : u.KeepsMembers t) (k : t.KeepsMembers v) : u.KeepsMembers v := fun S hu => k S (h S hu)

theorem of_eq (hl : t.legs = u.legs) (hg : ∀ g, (look t.groups g).members = (look u.groups g).members) :
    u.KeepsMembers t := fun _ => membersFor_of_eq (fun _ => by rw [hl]; exact ⟨rfl, rfl⟩) hg

theorem consistent (h : u.KeepsMembers t) (hu : u.membersConsistent) : t.membersConsistent :=
  (membersConsistent_iff t).mpr (h _ ((membersConsistent_iff u).mp hu))

end Units.KeepsMembers

namespace Units.Orderly

variable {u t v : Units}

theorem refl : u.Orderly u := ⟨.refl, fun _ => id⟩

theorem trans (h : u.Orderly t) (k : t.Orderly v) : u.Orderly v :=
  ⟨h.calls.trans k.calls, h.members.trans k.members⟩

/-- An operation that touches no leg, no position record and no group. -/
theorem of_eq (hl : t.legs = u.legs) (hp : t.pos = u.pos) (hg : t.groups = u.groups) : u.Orderly t :=
  ⟨.of_eq hl hp, .of_eq hl fun _ => by rw [hg]⟩

theorem safe (h : u.Orderly t) : u.Safe t := ⟨h.calls.bindings, h.members.consistent⟩

end Units.Orderly

namespace Units.Safe

variable {u t v : Units}

theorem trans (h : u.Safe t) (k : t.Safe v) : u.Safe v :=
  ⟨fun hu => k.bindings (h.bindings hu), fun hu => k.members (h.members hu)⟩

end Units.Safe

theorem Leg.cut_call {l : Leg} (h : l.state = .connecting) : l.cut.call = l.call := by
  simp [Leg.call, Leg.inCall, Leg.cut, h]

theorem Units.Prompts.orderly {u t : Units} (h : u.Prompts t) : u.Orderly t where
  calls :=
    { legs := fun n => by
        rcases h.legs n with he | ⟨-, ha, he⟩ <;> rw [he]
        exact Leg.cut_call ha.1
      pos := fun _ => by rw [h.pos] }
  members := h.members

/-! ## Records changed -/

section

variable (u : Units) (p : PosIx) (n : LegIx) (g : GroupIx)

theorem onMedia_orderly (f : Media → Media) : u.Orderly (u.onMedia f) := .of_eq rfl rfl rfl

theorem onWhisper_orderly (f : Whisper → Whisper) : u.Orderly (u.onWhisper p f) := .of_eq rfl rfl rfl

theorem onPos_members (f : Position → Position) : u.KeepsMembers (u.onPos p f) := .of_eq rfl fun _ => rfl

theorem onPos_orderly {f : Position → Position} (h : ∀ x, (f x).call = x.call) : u.Orderly (u.onPos p f) :=
  { calls :=
      { legs := fun _ => rfl
        pos := fun q => by
          rw [Units.onPos_pos, look_upd]
          split
          next hq => rw [h, hq]
          next => rfl }
    members := onPos_members u p f }

theorem onLeg_keepsMembers {f : Leg → Leg} (h : ∀ l, (f l).group = l.group ∧ (f l).state = l.state) :
    u.KeepsMembers (u.onLeg n f) := by
  intro S hu
  refine membersFor_of_eq (u := u) (fun m => ?_) (fun _ => by rfl) hu
  rw [Units.onLeg_legs, look_upd]
  split
  next hm => subst hm; exact h _
  next => exact ⟨rfl, rfl⟩

theorem onLeg_orderly {f : Leg → Leg} (h : ∀ l, (f l).call = l.call ∧ (f l).group = l.group ∧ (f l).state = l.state) :
    u.Orderly (u.onLeg n f) where
  calls :=
    { legs := fun m => by
        rw [Units.onLeg_legs, look_upd]
        split
        next hm => subst hm; exact (h _).1
        next => rfl
      pos := fun _ => rfl }
  members := onLeg_keepsMembers u n fun l => (h l).2

theorem onGroup_orderly {f : Group → Group} (h : ∀ gr, (f gr).members = gr.members) :
    u.Orderly (u.onGroup g f) :=
  ⟨.of_eq rfl rfl, .of_eq rfl fun k => by
    rw [Units.onGroup_groups, look_upd]
    split
    next hk => rw [h, hk]
    next => rfl⟩

/-- A leg whose change is under way is left out of the consistency. -/
theorem onLeg_members {f : Leg → Leg} (h : ∀ l, (f l).group = l.group) {S : LegIx → Prop} (hu : u.membersFor S) :
    (u.onLeg n f).membersFor fun m => S m ∧ m ≠ n := by
  have hl : ∀ m, m ≠ n → look (u.onLeg n f).legs m = look u.legs m := fun m hm => look_upd_of_ne _ hm.symm _
  refine ⟨⟨fun m k => ?_, hu.1.2⟩, fun m hm => by rw [hl m hm.2]; exact hu.2 m hm.1⟩
  have hg : (look (u.onLeg n f).legs m).group = (look u.legs m).group := by
    rw [Units.onLeg_legs, look_upd]
    split
    next hm => rw [h, hm]
    next => rfl
  rw [hg]
  exact hu.1.1 m k

theorem membersFor_insert {u : Units} {n : LegIx} {S : LegIx → Prop} (h : u.membersFor fun m => S m ∧ m ≠ n)
    (hn : (look u.legs n).grouped) : u.membersFor S :=
  ⟨h.1, fun m hm => if hmn : m = n then hmn ▸ hn else h.2 m ⟨hm, hmn⟩⟩

/-! ## Hold groups -/

theorem join_members_eq (k : GroupIx) :
    (look (u.join g n).groups k).members = (look u.groups k).members ++ if g = k then [n] else [] := by
  rw [Units.join, startTest_members, Units.onGroup_groups, look_upd]
  split
  next hk => rw [hk]
  next => rw [List.append_nil]

/-- Where a leg that stands in at most its old group is put at the tail of another. -/
theorem moveTo_members {u : Units} {old : Option GroupIx} {n : LegIx} (g : GroupIx)
    (h : ∀ k, old ≠ some k → n ∉ (look u.groups k).members) (k : GroupIx) :
    (look (u.moveTo old g n).groups k).members =
      (look u.groups k).members.filter (· ≠ n) ++ if g = k then [n] else [] := by
  have hout : ∀ k, old ≠ some k → (look u.groups k).members.filter (· ≠ n) = (look u.groups k).members :=
    fun k hk => List.filter_eq_self.mpr fun m hm => decide_eq_true (by rintro rfl; exact h k hk hm)
  unfold Units.moveTo
  split
  · rw [join_members_eq, hout k nofun]
  next o =>
    split
    next ho =>
      subst ho
      rw [Units.moveTail, Units.onGroup_groups, look_upd]
      split
      next hk => rw [hk]
      next hk => rw [hout k (by simpa using hk), List.append_nil]
    next =>
      rw [join_members_eq, leave_members]
      split
      · rfl
      next hk => rw [hout k (by simpa using hk)]

theorem standIn_calls : u.KeepsCalls (u.standIn n g) :=
  { legs := fun m => by
      rw [standIn_legs, look_upd]
      split
      next hm => subst hm; rfl
      next => rfl
    pos := fun _ => by rw [(standIn_keeps u n g).pos] }

theorem standIn_members_eq {u : Units} {n : LegIx} (h : u.placed) (g k : GroupIx) :
    (look (u.standIn n g).groups k).members =
      (look u.groups k).members.filter (· ≠ n) ++ if g = k then [n] else [] :=
  moveTo_members (u := u.onLeg n fun l => l.standing g u.router.stamp) g
    (fun k hk hm => hk ((h.1 n k).mpr hm)) k

theorem standIn_members {u : Units} {n : LegIx} {S : LegIx → Prop} (h : u.membersFor S) (g : GroupIx) :
    (u.standIn n g).membersFor fun m => S m ∧ m ≠ n := by
  have hl : ∀ m, m ≠ n → look (u.standIn n g).legs m = look u.legs m := fun m hm => by
    rw [standIn_legs, look_upd_of_ne _ hm.symm]
  refine ⟨placed_of_moved (n := n) (g := g) h.1 ?_ (fun m hm => by rw [hl m hm]) (standIn_members_eq h.1 g),
    fun m hm => by rw [hl m hm.2]; exact h.2 m hm.1⟩
  rw [standIn_legs, look_upd_self]
  rfl

theorem stopUnplayable_orderly : u.Orderly (u.stopUnplayable g) :=
  (onMedia_orderly ..).trans (onGroup_orderly _ _ fun _ => by rfl)

theorem passStart_orderly : u.Orderly (u.passStart g) := by
  unfold Units.passStart
  dsimp only
  split
  · exact (onGroup_orderly u g fun _ => by rfl).trans (stopUnplayable_orderly ..)
  · exact (onGroup_orderly u g fun _ => by rfl).trans (onMedia_orderly ..)

theorem groupItemEnd_orderly : u.Orderly (u.groupItemEnd g) := by
  unfold Units.groupItemEnd
  dsimp only
  split
  · exact (onMedia_orderly u _).trans (passStart_orderly ..)
  · split
    · exact .of_eq rfl rfl rfl
    · split
      · exact .trans (.of_eq (by rfl) (by rfl) (by rfl)) (passStart_orderly ..)
      · exact .of_eq rfl rfl rfl

theorem changeSource_orderly (source : Option CueIx) : u.Orderly (u.changeSource g source) := by
  have h : u.Orderly (u.onGroup g fun gr =>
      { gr with source := source, point := if decide ((look u.groups g).source ≠ source) then none else gr.point }) :=
    onGroup_orderly u g fun _ => rfl
  unfold Units.changeSource
  dsimp only at h ⊢
  generalize (u.onGroup g fun gr =>
    { gr with source := source, point := if decide ((look u.groups g).source ≠ source) then none else gr.point }) =
      v at h ⊢
  split
  · exact h
  · split
    · exact h.trans (onGroup_orderly _ _ fun _ => by rfl)
    · split
      · split
        · exact h.trans (onMedia_orderly ..)
        · exact h.trans (stopUnplayable_orderly ..)
      · exact h.trans (onGroup_orderly _ _ fun _ => by rfl)

theorem parkAlarm_orderly : u.Orderly (u.parkAlarm n) := by
  unfold Units.parkAlarm
  dsimp only
  split
  · exact (onLeg_orderly u n fun _ => ⟨by rfl, by rfl, by rfl⟩).trans (onMedia_orderly ..)
  · exact .refl

/-! ## Coach pairs -/

theorem setLinks_orderly (x : Pair) : u.Orderly (u.setLinks x) :=
  (onPos_orderly u _ fun _ => by rfl).trans (onPos_orderly _ _ fun _ => by rfl)

theorem setPairs_orderly (xs : List Pair) : u.Orderly { u with pairs := xs } := .of_eq rfl rfl rfl

theorem markPair_orderly (x : Pair) (active : Bool) : u.Orderly (u.markPair x active) :=
  (setPairs_orderly ..).trans (setLinks_orderly ..)

theorem activatePair_eq (x : Pair) :
    u.activatePair x =
      (((u.markPair x true).pushPlaying x.agent true).onWhisper x.agent fun w => { w with playing := .coach }).raise
        .coachStarted (.position x.agent) (detail2 (byte x.supervisor) x.mode.code) (some x.agent) := rfl

theorem activatePair_orderly (x : Pair) : u.Orderly (u.activatePair x) := by
  rw [activatePair_eq]
  exact (((markPair_orderly u x true).trans (pushPlaying_prompts ..).orderly).trans (onWhisper_orderly ..)).trans
    (onMedia_orderly ..)

theorem suspendPair_orderly : u.Orderly (u.suspendPair p) := by
  unfold Units.suspendPair
  split
  · split
    · exact (markPair_orderly ..).trans (dropCoach_prompts ..).orderly
    · exact .refl
  · exact .refl

/-- A supervisor whose pair has ended is ABSENT, present or bound as before. -/
theorem uncoached_call (x : Position) : x.uncoached.call = x.call := by
  unfold Position.uncoached Position.call
  dsimp only
  split
  next h => simp [h]
  next => rfl

theorem endPair_orderly (x : Pair) (reason : EndReason) : u.Orderly (u.endPair x reason) := by
  obtain ⟨v, hv, hdrop⟩ := endPair_eq u x reason
  have huv : u.Orderly v := by
    rcases hdrop with rfl | ⟨rfl, -⟩
    · exact .refl
    · exact (dropCoach_prompts ..).orderly
  rw [hv]
  exact ((huv.trans (setPairs_orderly ..)).trans ((onPos_orderly _ _ fun _ => by rfl).trans
    (onPos_orderly _ _ uncoached_call))).trans (onMedia_orderly ..)

theorem whisperLoss_orderly : u.Orderly (u.whisperLoss p) := by
  unfold Units.whisperLoss
  dsimp only
  split
  · exact (emptyWhisper_prompts ..).orderly.trans (endPair_orderly ..)
  · exact (emptyWhisper_prompts ..).orderly

theorem announce_prompts (a : Counting) : u.Prompts (u.announce a).1 := by
  have h : ∀ (ps : List PosIx) (acc : Units × Nat), acc.1.Prompts (ps.foldl
      (fun acc p =>
        if acc.1.included a.mask p then
          ((acc.1.post p a.cue a.level .announce).1,
            acc.2 + if (acc.1.post p a.cue a.level .announce).2 then 1 else 0)
        else acc) acc).1 := by
    intro ps
    induction ps with
    | nil => exact fun _ => .refl
    | cons p ps ih =>
      intro acc
      refine .trans ?_ (ih _)
      dsimp only
      split
      · exact post_prompts _ _ _ _ (by decide)
      · exact .refl
  exact h _ (u, 0)

theorem fire_prompts (k : SlotIx) (a : Counting) : u.Prompts (u.fire k a).1 := by
  have h := announce_prompts u a
  unfold Units.fire
  generalize u.announce a = x at h
  exact h.trans (raise_prompts ..)

/-! ## Position events -/

theorem raisePos_orderly (k : EventKind) (d : BitVec 16) {f : Position → Position} (h : ∀ x, (f x).call = x.call) :
    u.Orderly (u.raisePos k p d f) := by
  unfold Units.raisePos
  dsimp only
  split
  · exact (onMedia_orderly u _).trans (onPos_orderly _ _ h)
  · exact onMedia_orderly ..

theorem muteChange_orderly (was : Bool) : u.Orderly (u.muteChange p was) := by
  unfold Units.muteChange
  dsimp only
  split
  · exact .refl
  · exact (onPos_orderly u p fun _ => by rfl).trans (raisePos_orderly _ _ _ _ fun _ => by rfl)

/-! ## The shared steps of BIND, PARK, RELS and auto-park -/

theorem cancelConnect_prompts_of :
    ∃ v, (v = u ∨ v = u.onLeg n fun l => { l with timer := none, connectRef := false }) ∧
      v.Prompts (u.cancelConnect n) := by
  unfold Units.cancelConnect
  dsimp only
  split
  · split
    · exact ⟨_, .inr rfl, removeConnect_prompts ..⟩
    · exact ⟨_, .inr rfl, .refl⟩
  · exact ⟨_, .inl rfl, .refl⟩

theorem cancelConnect_orderly : u.Orderly (u.cancelConnect n) := by
  obtain ⟨v, hv, h⟩ := cancelConnect_prompts_of u n
  rcases hv with rfl | rfl
  · exact h.orderly
  · exact (onLeg_orderly u n fun _ => ⟨by rfl, by rfl, by rfl⟩).trans h.orderly

theorem acquire_orderly : u.Orderly (u.acquire n) := by
  unfold Units.acquire
  dsimp only
  split
  · exact onMedia_orderly ..
  · exact .refl

theorem echoBind_orderly : u.Orderly (u.echoBind n) := (onMedia_orderly ..).trans (acquire_orderly ..)

/-- A position that a leg has been bound to (R9). -/
def Position.boundTo (x : Position) (n : LegIx) : Position := { x with bound := some n, state := .engaged }

/-- A position that its leg has left (R9). -/
def Position.unbound (x : Position) : Position := { x with bound := none, state := .idle }

theorem posBind_orderly : (u.onPos p fun x => x.boundTo n).Orderly (u.posBind p n) := by
  unfold Units.posBind
  dsimp only
  split
  · exact activatePair_orderly ..
  · exact .refl

theorem posUnbind_orderly : (u.onPos p Position.unbound).Orderly (u.posUnbind p) := suspendPair_orderly ..

end

/-! ## Legs and positions bound and parted -/

theorem parted_bindings {u t : Units} {n : LegIx} {p : PosIx} (h : u.bindingsConsistent)
    (hb : (look u.legs n).bound = some p) (hn : (look t.legs n).call = (none, false))
    (ho : ∀ m, m ≠ n → (look t.legs m).call = (look u.legs m).call) {present : Bool}
    (hp : (look t.pos p).call = (none, false, present, !present))
    (hq : ∀ q, q ≠ p → (look t.pos q).call = (look u.pos q).call) : t.bindingsConsistent := by
  rw [bindingsConsistent_iff] at h ⊢
  obtain ⟨h1, h2, h3, h4⟩ := h
  have hb : (look u.legs n).call.1 = some p := hb
  refine ⟨fun m => ?_, fun q => ?_, fun q => ?_, fun m q => ?_⟩
  · by_cases hm : m = n
    · rw [hm, hn]; rfl
    · rw [ho m hm]; exact h1 m
  · by_cases hqp : q = p
    · rw [hqp, hp]; rfl
    · rw [hq q hqp]; exact h2 q
  · by_cases hqp : q = p
    · rw [hqp, hp]; simp
    · rw [hq q hqp]; exact h3 q
  · by_cases hm : m = n <;> by_cases hqp : q = p
    · rw [hm, hqp, hn, hp]; simp
    · rw [hm, hn, hq q hqp, ← h4 n q, hb]
      simp [Ne.symm hqp]
    · rw [hqp, hp, ho m hm, h4 m p, (h4 n p).mp hb]
      simp [Ne.symm hm]
    · rw [ho m hm, hq q hqp]; exact h4 m q

theorem joined_bindings {u t : Units} {n : LegIx} {p : PosIx} (h : u.bindingsConsistent)
    (hb : (look u.legs n).bound = none) (hpb : (look u.pos p).bound = none)
    (hn : (look t.legs n).call = (some p, true))
    (ho : ∀ m, m ≠ n → (look t.legs m).call = (look u.legs m).call)
    (hp : (look t.pos p).call = (some n, true, true, false))
    (hq : ∀ q, q ≠ p → (look t.pos q).call = (look u.pos q).call) : t.bindingsConsistent := by
  rw [bindingsConsistent_iff] at h ⊢
  obtain ⟨h1, h2, h3, h4⟩ := h
  have hb : (look u.legs n).call.1 = none := hb
  have hpb : (look u.pos p).call.1 = none := hpb
  refine ⟨fun m => ?_, fun q => ?_, fun q => ?_, fun m q => ?_⟩
  · by_cases hm : m = n
    · rw [hm, hn]; rfl
    · rw [ho m hm]; exact h1 m
  · by_cases hqp : q = p
    · rw [hqp, hp]; rfl
    · rw [hq q hqp]; exact h2 q
  · by_cases hqp : q = p
    · rw [hqp, hp]; rfl
    · rw [hq q hqp]; exact h3 q
  · by_cases hm : m = n <;> by_cases hqp : q = p
    · rw [hm, hqp, hn, hp]; simp
    · rw [hm, hn, hq q hqp, ← h4 n q, hb]
      simp [Ne.symm hqp]
    · rw [hqp, hp, ho m hm, h4 m p, hpb]
      simp [Ne.symm hm]
    · rw [ho m hm, hq q hqp]; exact h4 m q

/-- A position without a leg, before and after, that comes or goes. -/
theorem lone_bindings {u t : Units} {p : PosIx} (h : u.bindingsConsistent) (hpb : (look u.pos p).bound = none)
    (hl : ∀ m, (look t.legs m).call = (look u.legs m).call) {present : Bool}
    (hp : (look t.pos p).call = (none, false, present, !present))
    (hq : ∀ q, q ≠ p → (look t.pos q).call = (look u.pos q).call) : t.bindingsConsistent := by
  rw [bindingsConsistent_iff] at h ⊢
  obtain ⟨h1, h2, h3, h4⟩ := h
  have hpb : (look u.pos p).call.1 = none := hpb
  refine ⟨fun m => by rw [hl m]; exact h1 m, fun q => ?_, fun q => ?_, fun m q => ?_⟩
  · by_cases hqp : q = p
    · rw [hqp, hp]; rfl
    · rw [hq q hqp]; exact h2 q
  · by_cases hqp : q = p
    · rw [hqp, hp]; simp
    · rw [hq q hqp]; exact h3 q
  · by_cases hqp : q = p
    · rw [hqp, hp, hl, h4 m p, hpb]
    · rw [hl, hq q hqp]; exact h4 m q

end Sys2Proof.Machine
end

section
/-! PROOFS. BIND, PARK, RELS, arrival and loss keep bindings and memberships consistent. -/

namespace Sys2Proof.Machine

section

variable {u : Units} {n : LegIx} {p : PosIx} {g : GroupIx}

/-! ## Consistent bindings -/

theorem leg_call_of_unbound (h : u.bindingsConsistent) (hb : (look u.legs n).bound = none) :
    (look u.legs n).call = (none, false) := by
  have h1 := ((bindingsConsistent_iff u).mp h).1 n
  have hb : (look u.legs n).call.1 = none := hb
  rw [hb] at h1
  exact Prod.ext hb h1.symm

theorem pos_bound_iff (h : u.bindingsConsistent) : (look u.legs n).bound = some p ↔ (look u.pos p).bound = some n :=
  h.2.2.2 n p

theorem engaged_of_bound (h : u.bindingsConsistent) (hb : (look u.pos p).bound = some n) :
    (look u.pos p).state = .engaged ∧ (look u.pos p).present = true := by
  have hs : (look u.pos p).state = .engaged := by simpa [hb] using h.2.1 p
  exact ⟨hs, by rw [h.2.2.1 p, hs]; rfl⟩

/-- No position is bound to a leg outside a call. -/
theorem unbound_of_not_inCall (h : u.bindingsConsistent) (hs : (look u.legs n).inCall = false) :
    (look u.legs n).bound = none ∧ ∀ q, (look u.pos q).bound ≠ some n := by
  have hb : (look u.legs n).bound = none := by
    have h1 : (look u.legs n).bound.isSome = (look u.legs n).inCall := h.1 n
    rw [hs] at h1
    simpa using h1
  exact ⟨hb, fun q hq => by rw [(pos_bound_iff h).mpr hq] at hb; cases hb⟩

theorem bound_of_inCall (h : u.bindingsConsistent) (hs : (look u.legs n).inCall = true) :
    ∃ p, (look u.legs n).bound = some p := by
  have h1 : (look u.legs n).bound.isSome = (look u.legs n).inCall := h.1 n
  rw [hs] at h1
  exact Option.isSome_iff_exists.mp h1

theorem onLeg_calls {f : Leg → Leg} (h : (f (look u.legs n)).call = (look u.legs n).call) :
    u.KeepsCalls (u.onLeg n f) :=
  { legs := fun m => by
      rw [Units.onLeg_legs, look_upd]
      split
      next hm => subst hm; exact h
      next => rfl
    pos := fun _ => rfl }

theorem leaveFrom_calls (u : Units) (n : LegIx) (o : Option GroupIx) : u.KeepsCalls (u.leaveFrom n o) :=
  .of_eq (leaveFrom_legs ..) (leaveFrom_keeps ..).pos

/-! ## Bindings -/

/-- A leg and its position parted, with what else the operation does in between and after. -/
theorem bindings_of_parted {v t : Units} {f : Leg → Leg} {x : Position → Position} (h : u.bindingsConsistent)
    (hb : (look u.legs n).bound = some p) (hx : (x (look u.pos p)).bound = none ∧
      (x (look u.pos p)).state ≠ .engaged ∧
      (x (look u.pos p)).present = decide ((x (look u.pos p)).state ≠ .absent))
    (hv : ((u.onLeg n f).onPos p x).KeepsCalls v) (hn : (look t.legs n).call = (none, false))
    (ho : ∀ m, m ≠ n → look t.legs m = look v.legs m) (hp : t.pos = v.pos) : t.bindingsConsistent := by
  refine parted_bindings h hb hn (fun m hm => ?_) (present := (x (look u.pos p)).present) ?_ fun q hq => ?_
  · rw [ho m hm, hv.legs, Units.onPos_legs, Units.onLeg_legs, look_upd_of_ne _ hm.symm]
  · obtain ⟨h1, h2, h3⟩ := hx
    rw [hp, hv.pos, Units.onPos_pos, Units.onLeg_pos, look_upd_self]
    simp only [Position.call, h1, h2, h3, decide_false, decide_not, Bool.not_not]
  · rw [hp, hv.pos, Units.onPos_pos, Units.onLeg_pos, look_upd_of_ne _ hq.symm]

theorem unbound_idle (h : u.bindingsConsistent) (hb : (look u.legs n).bound = some p) :
    (look u.pos p).unbound.bound = none ∧ (look u.pos p).unbound.state ≠ .engaged ∧
      (look u.pos p).unbound.present = decide ((look u.pos p).unbound.state ≠ .absent) :=
  ⟨rfl, nofun, (engaged_of_bound h ((pos_bound_iff h).mp hb)).2⟩

/-- A leg and a position joined, with what else the operation does in between and after. -/
theorem bindings_of_joined {v t : Units} {f : Leg → Leg} (h : u.bindingsConsistent)
    (hb : (look u.legs n).bound = none) (hi : (look u.pos p).state = .idle)
    (hf : (f (look u.legs n)).call = (some p, true)) (hv : (u.onLeg n f).KeepsCalls v)
    (ht : (v.onPos p fun x => x.boundTo n).KeepsCalls t) : t.bindingsConsistent := by
  have hpb : (look u.pos p).bound = none := by simpa [hi] using h.2.1 p
  have hpp : (look u.pos p).present = true := by simpa [hi] using h.2.2.1 p
  have hvp : (look v.pos p).call = (none, false, true, false) := by
    rw [hv.pos, Units.onLeg_pos, Position.call, hpb, hi, hpp]; rfl
  refine joined_bindings h hb hpb ?_ (fun m hm => ?_) ?_ fun q hq => ?_
  · rw [ht.legs, Units.onPos_legs, hv.legs, Units.onLeg_legs, look_upd_self, hf]
  · rw [ht.legs, Units.onPos_legs, hv.legs, Units.onLeg_legs, look_upd_of_ne _ hm.symm]
  · have hpres : (look v.pos p).present = true := congrArg (·.2.2.1) hvp
    rw [ht.pos, Units.onPos_pos, look_upd_self, Position.call, Position.boundTo, hpres]
    rfl
  · rw [ht.pos, Units.onPos_pos, look_upd_of_ne _ hq.symm, hv.pos, Units.onLeg_pos]

/-- A leg in no call parks without leaving a position. -/
theorem park_of_free (h : (look u.legs n).state = .free) :
    u.park n g = (u.onLeg n fun l => { l with state := .parked }).standIn n g := by
  unfold Units.park
  rw [h]

theorem park_of_parked (h : (look u.legs n).state = .parked) : u.park n g = u.standIn n g := by
  unfold Units.park
  rw [h]

/-- A position left, if there is one. -/
def Units.unbindFrom (u : Units) : Option PosIx → Units
  | some p => u.posUnbind p
  | none => u

/-- A leg that has left its position, if it had one, standing in a group (R24). -/
def Units.standPast (u : Units) (n : LegIx) (o : Option PosIx) (g : GroupIx) : Units :=
  ((u.onLeg n fun l => { l with bound := none }).unbindFrom o).standIn n g

theorem park_of_inCall (hs : (look u.legs n).inCall = true) :
    u.park n g =
      (((u.cancelConnect n).standPast n (look (u.cancelConnect n).legs n).bound g).onLeg n
        fun l => { l with state := .parked }).echoPark n := by
  have hpark : (look u.legs n).state = .connecting ∨ (look u.legs n).state = .talking := by
    simpa [Leg.inCall] using hs
  unfold Units.park Units.standPast
  rcases hpark with h | h <;> rw [h] <;> dsimp only <;>
    cases (look (u.cancelConnect n).legs n).bound <;> rfl

/-- A leg not in a call is FREE or PARKED. -/
theorem not_inCall_iff (l : Leg) : l.inCall = false ↔ l.state = .free ∨ l.state = .parked := by
  unfold Leg.inCall
  cases l.state <;> decide

theorem park_bindings (h : u.bindingsConsistent) : (u.park n g).bindingsConsistent := by
  cases hs : (look u.legs n).inCall
  case false =>
    rcases (not_inCall_iff _).mp hs with hf | hf
    · have hcall : ({ look u.legs n with state := .parked } : Leg).call = (look u.legs n).call := Prod.ext rfl hs.symm
      rw [park_of_free hf]
      exact ((onLeg_calls (f := fun l => { l with state := .parked }) hcall).trans (standIn_calls ..)).bindings h
    · rw [park_of_parked hf]
      exact (standIn_calls ..).bindings h
  case true =>
    have hc := (cancelConnect_orderly u n).calls
    have hw := hc.bindings h
    obtain ⟨p, hp⟩ := bound_of_inCall hw ((congrArg Prod.snd (hc.legs n)).trans hs)
    rw [park_of_inCall hs]
    generalize u.cancelConnect n = w at *
    have hv : ((w.onLeg n fun l => { l with bound := none }).onPos p Position.unbound).KeepsCalls
        (w.standPast n (look w.legs n).bound g) := by
      rw [hp]
      exact (posUnbind_orderly ..).calls.trans (standIn_calls ..)
    have hn : (look (w.standPast n (look w.legs n).bound g).legs n).bound = none :=
      (congrArg Prod.fst (hv.legs n)).trans (by rw [Units.onPos_legs, Units.onLeg_legs, look_upd_self]; rfl)
    refine bindings_of_parted hw hp (unbound_idle hw hp) hv ?_ (fun m hm => look_upd_of_ne _ hm.symm _) rfl
    rw [Units.echoPark, Units.onMedia_legs, Units.onLeg_legs, look_upd_self]
    exact Prod.ext hn rfl

/-- RELS after a connect under way has been cancelled: the leg is FREE, and has left its position. -/
def Units.freed (u : Units) (n : LegIx) : Units :=
  (u.onLeg n fun l => { l with state := .free, bound := none }).unbindFrom (look u.legs n).bound

/-- A released leg that has left its group and its owner (R33). -/
def Units.ungrouped (u : Units) (n : LegIx) (o : Option GroupIx) : Units :=
  ((u.onLeg n fun l => { l with group := none, parkTime := none, fired := false }).leaveFrom n o).onLeg n
    fun l => { l with owner := none }

theorem rels_eq (u : Units) (n : LegIx) :
    u.rels n = (((u.cancelConnect n).freed n).ungrouped n (look (u.cancelConnect n).legs n).group).echoRelease n := by
  unfold Units.rels Units.freed Units.ungrouped Units.leaveFrom Units.unbindFrom
  dsimp only <;> cases (look (u.cancelConnect n).legs n).bound <;>
    cases (look (u.cancelConnect n).legs n).group <;> rfl

theorem ungrouped_calls (o : Option GroupIx) : u.KeepsCalls (u.ungrouped n o) :=
  ((onLeg_calls (by rfl)).trans (leaveFrom_calls ..)).trans (onLeg_calls (by rfl))

theorem rels_bindings (h : u.bindingsConsistent) : (u.rels n).bindingsConsistent := by
  have hw := (cancelConnect_orderly u n).calls.bindings h
  rw [rels_eq]
  generalize u.cancelConnect n = w at *
  have hend : (w.freed n).KeepsCalls (((w.freed n).ungrouped n (look w.legs n).group).echoRelease n) :=
    (ungrouped_calls _).trans (.of_eq rfl rfl)
  refine hend.bindings ?_
  unfold Units.freed
  cases hb : (look w.legs n).bound with
  | none =>
    exact (onLeg_calls (f := fun l => { l with state := .free, bound := none })
      (by rw [leg_call_of_unbound hw hb]; rfl)).bindings hw
  | some p =>
    have hv := (posUnbind_orderly (w.onLeg n fun l => { l with state := .free, bound := none }) p).calls
    refine bindings_of_parted hw hb (unbound_idle hw hb) hv ?_ (fun _ _ => rfl) rfl
    exact (hv.legs n).trans (by rw [Units.onPos_legs, Units.onLeg_legs, look_upd_self]; rfl)

/-- A leg in a call by a BIND without a cue (R26). -/
def Leg.talks (l : Leg) (p : PosIx) : Leg :=
  { l with state := .talking, bound := some p, owner := some p, group := none, parkTime := none }

theorem bindTalk_eq (u : Units) (n : LegIx) (p : PosIx) :
    u.bindTalk n p =
      (((u.onLeg n fun l => l.talks p).leaveFrom n (look u.legs n).group).posBind p n).echoBind n := by
  unfold Units.bindTalk Units.leaveFrom
  cases (look u.legs n).group <;> rfl

theorem bindTalk_bindings (h : u.bindingsConsistent) (hl : (look u.legs n).inCall = false)
    (hp : (look u.pos p).state = .idle) : (u.bindTalk n p).bindingsConsistent := by
  rw [bindTalk_eq]
  exact bindings_of_joined (f := fun l => l.talks p) h (unbound_of_not_inCall h hl).1 hp rfl (leaveFrom_calls ..)
    ((posBind_orderly ..).trans (echoBind_orderly ..)).calls

/-! ## Memberships -/

theorem standIn_grouped {v : Units} (hs : (look v.legs n).state = .parked ∨ (look v.legs n).state = .connecting) :
    (look (v.standIn n g).legs n).grouped := by
  unfold Leg.grouped
  rw [standIn_legs, look_upd_self, Leg.standing]
  rcases hs with hs | hs <;> rw [hs] <;> rfl

theorem unbindFrom_members (u : Units) (o : Option PosIx) : u.KeepsMembers (u.unbindFrom o) := by
  cases o with
  | none => exact fun _ => id
  | some p => exact (onPos_members u p _).trans (posUnbind_orderly u p).members

variable {S : LegIx → Prop}

/-- A leg that stands in a group anew and is PARKED or CONNECTING is so consistently, whatever it was. -/
theorem membersFor_of_standIn (h : u.membersFor fun m => S m ∧ m ≠ n)
    (hs : (look u.legs n).state = .parked ∨ (look u.legs n).state = .connecting) :
    (u.standIn n g).membersFor S := by
  have hin := standIn_members (n := n) h g
  exact membersFor_insert ⟨hin.1, fun m hm => hin.2 m ⟨hm, hm.2⟩⟩ (standIn_grouped hs)

theorem membersFor_of_parked (h : u.membersFor S) :
    ((u.standIn n g).onLeg n fun l => { l with state := .parked }).membersFor S := by
  have hs := onLeg_members (f := fun l => { l with state := .parked }) (u.standIn n g) n (fun _ => rfl)
    (standIn_members h g)
  refine membersFor_insert (n := n) ⟨hs.1, fun m hm => hs.2 m ⟨hm, hm.2⟩⟩ ?_
  rw [Units.onLeg_legs, look_upd_self, standIn_legs, look_upd_self]
  rfl

theorem park_members : u.KeepsMembers (u.park n g) := by
  intro S h
  cases hs : (look u.legs n).inCall
  case false =>
    rcases (not_inCall_iff _).mp hs with hf | hf
    · rw [park_of_free hf]
      refine membersFor_of_standIn (onLeg_members _ _ (fun _ => by rfl) h) (.inl ?_)
      rw [Units.onLeg_legs, look_upd_self]
    · rw [park_of_parked hf]
      exact membersFor_of_standIn ⟨h.1, fun m hm => h.2 m hm.1⟩ (.inl hf)
  case true =>
    rw [park_of_inCall hs]
    have hw := (cancelConnect_orderly u n).members S h
    generalize u.cancelConnect n = w at hw
    have hv := onLeg_keepsMembers (f := fun l => { l with bound := none }) w n (fun _ => ⟨rfl, rfl⟩) S hw
    exact membersFor_of_eq (fun _ => ⟨by rfl, by rfl⟩) (fun _ => by rfl)
      (membersFor_of_parked (n := n) (g := g) (unbindFrom_members _ _ S hv))

/-- An active pair of an agent marked pending, with both links (R129). -/
def Units.pended (u : Units) (p : PosIx) : Units :=
  match u.pairOfAgent p with
  | some x => if x.active then u.markPair x false else u
  | none => u

theorem pended_legs (u : Units) (p : PosIx) : (u.pended p).legs = u.legs := by
  unfold Units.pended
  split
  · split <;> rfl
  · rfl

theorem suspendPair_prompts (u : Units) (p : PosIx) : (u.pended p).Prompts (u.suspendPair p) := by
  unfold Units.suspendPair Units.pended
  cases u.pairOfAgent p with
  | none => exact .refl
  | some x =>
    cases hx : x.active
    · simp only [hx]
      exact .refl
    · simp only [hx, if_true]
      exact dropCoach_prompts ..

theorem unbindFrom_leg (u : Units) (o : Option PosIx) {n : LegIx} (h : ¬ (look u.legs n).awaits) :
    look (u.unbindFrom o).legs n = look u.legs n := by
  cases o with
  | none => rfl
  | some p =>
    have hl : ((u.onPos p Position.unbound).pended p).legs = u.legs := pended_legs ..
    exact ((suspendPair_prompts (u.onPos p Position.unbound) p).leg_of_not_awaits (by rw [hl]; exact h)).trans
      (by rw [hl])

theorem freed_leg (u : Units) (n : LegIx) :
    look (u.freed n).legs n = { look u.legs n with state := .free, bound := none } := by
  have h : look (u.onLeg n fun l => { l with state := .free, bound := none }).legs n =
      { look u.legs n with state := .free, bound := none } := look_upd_self ..
  exact (unbindFrom_leg _ _ (by rw [h]; exact fun ha => nomatch (show LegState.free = .connecting from ha.1))).trans h

theorem ungrouped_leg (u : Units) (n : LegIx) (o : Option GroupIx) :
    look (u.ungrouped n o).legs n =
      { look u.legs n with group := none, parkTime := none, fired := false, owner := none } := by
  rw [Units.ungrouped, Units.onLeg_legs, look_upd_self, leaveFrom_legs, Units.onLeg_legs, look_upd_self]

theorem ungrouped_leg_of_ne (u : Units) {n m : LegIx} (o : Option GroupIx) (h : m ≠ n) :
    look (u.ungrouped n o).legs m = look u.legs m := by
  rw [Units.ungrouped, Units.onLeg_legs, look_upd_of_ne _ h.symm, leaveFrom_legs, Units.onLeg_legs,
    look_upd_of_ne _ h.symm]

theorem rels_members : u.KeepsMembers (u.rels n) := by
  intro S h
  rw [rels_eq]
  have hw := (cancelConnect_orderly u n).members S h
  generalize u.cancelConnect n = w at hw
  have hv : (w.freed n).membersFor fun m => S m ∧ m ≠ n :=
    unbindFrom_members _ _ _ (onLeg_members _ _ (fun _ => by rfl) hw)
  have hleg := ungrouped_leg (w.freed n) n (look w.legs n).group
  rw [freed_leg] at hleg
  refine membersFor_of_eq (u := (w.freed n).ungrouped n (look w.legs n).group) (fun _ => ⟨by rfl, by rfl⟩)
    (fun _ => by rfl) (membersFor_insert (n := n) (membersFor_of_left (n := n) hv (by rw [hleg])
      (by rw [hleg]; rfl) (fun m hm => ungrouped_leg_of_ne _ _ hm) fun g => ?_) (by rw [hleg]; rfl))
  rw [Units.ungrouped, Units.onLeg_groups, leaveFrom_members, freed_leg]
  rfl

theorem bindTalk_members : u.KeepsMembers (u.bindTalk n p) := by
  intro S h
  rw [bindTalk_eq]
  refine (echoBind_orderly ..).members S ((posBind_orderly ..).members S (onPos_members _ _ _ S ?_))
  refine membersFor_of_left (n := n) h ?_ ?_ (fun m hm => ?_) fun g => ?_
  · rw [leaveFrom_legs, Units.onLeg_legs, look_upd_self]
    rfl
  · rw [leaveFrom_legs, Units.onLeg_legs, look_upd_self]
    rfl
  · rw [leaveFrom_legs, Units.onLeg_legs, look_upd_of_ne _ hm.symm]
  · rw [leaveFrom_members]
    rfl

/-- A leg that connects, at its group or a FREE one at the position's default group (R27). -/
def Units.connecting (u : Units) (n : LegIx) (p : PosIx) : Units :=
  let v := u.onLeg n fun l => { l with state := .connecting, bound := some p, owner := some p }
  if (look u.legs n).state = .free then v.standIn n (look u.pos p).defaultGroup else v

/-- It, with its connect entry placed (R27). -/
def Units.prompted (u : Units) (n : LegIx) (p : PosIx) (q : CueIx) : Units :=
  ((u.connecting n p).onLeg n fun l => { l with connectRef := true }).place p (Entry.new q .urgent .connect .resume)

theorem bindConnect_eq (u : Units) (n : LegIx) (p : PosIx) (q : CueIx) (timeout : Nat) :
    u.bindConnect n p q timeout =
      if (look (u.prompted n p q).whisper p).hasConnect then
        (((u.prompted n p q).onLeg n fun l => { l with timer := some (connectFrames timeout) }).posBind p n).echoBind n
      else
        ((((u.prompted n p q).onLeg n fun l => { l with timer := some (connectFrames timeout) }).posBind p n).echoBind
          n).connectReport p .completed := by
  have hin : (if decide ((look u.legs n).state = .free) = true then
      (u.onLeg n fun l => { l with state := .connecting, bound := some p, owner := some p }).standIn n
        (look (u.onLeg n fun l => { l with state := .connecting, bound := some p, owner := some p }).pos
          p).defaultGroup
      else u.onLeg n fun l => { l with state := .connecting, bound := some p, owner := some p }) =
      u.connecting n p := by
    simp only [decide_eq_true_eq]
    rfl
  unfold Units.bindConnect
  dsimp only
  rw [hin, ← Units.prompted]
  cases (look (u.prompted n p q).whisper p).hasConnect <;> rfl

theorem connecting_leg (u : Units) (n : LegIx) (p : PosIx) :
    look (u.connecting n p).legs n =
      { look u.legs n with
        state := .connecting, bound := some p, owner := some p
        group := if (look u.legs n).state = .free then some (look u.pos p).defaultGroup else (look u.legs n).group
        parkTime := if (look u.legs n).state = .free then some u.router.stamp else (look u.legs n).parkTime
        fired := if (look u.legs n).state = .free then false else (look u.legs n).fired } := by
  unfold Units.connecting
  dsimp only
  split
  · rw [standIn_legs, look_upd_self, Units.onLeg_legs, look_upd_self]
    rfl
  · rw [Units.onLeg_legs, look_upd_self]

theorem connecting_calls (u : Units) (n : LegIx) (p : PosIx) :
    (u.onLeg n fun l => { l with state := .connecting, bound := some p, owner := some p }).KeepsCalls
      (u.connecting n p) := by
  unfold Units.connecting
  dsimp only
  split
  · exact standIn_calls ..
  · exact .refl

theorem connecting_members {u : Units} (h : u.membersFor S) (hl : S n → (look u.legs n).inCall = false) :
    (u.connecting n p).membersFor S := by
  have hv := onLeg_members (f := fun l => { l with state := .connecting, bound := some p, owner := some p }) u n
    (fun _ => rfl) h
  unfold Units.connecting
  dsimp only
  split
  · exact membersFor_of_standIn hv (.inr (by rw [Units.onLeg_legs, look_upd_self]))
  next hf =>
    refine ⟨hv.1, fun m hm => if hmn : m = n then ?_ else hv.2 m ⟨hm, hmn⟩⟩
    subst hmn
    have hp := ((not_inCall_iff _).mp (hl hm)).resolve_left hf
    have hg := h.2 m hm
    unfold Leg.grouped at hg ⊢
    rw [hp] at hg
    rw [Units.onLeg_legs, look_upd_self]
    exact hg

theorem prompted_orderly (u : Units) (n : LegIx) (p : PosIx) (q : CueIx) :
    (u.connecting n p).Orderly (u.prompted n p q) :=
  ((onLeg_orderly _ n fun _ => ⟨by rfl, by rfl, by rfl⟩).trans (onWhisper_orderly ..)).trans
    (schedule_prompts ..).orderly

theorem bindConnect_orderly (u : Units) (n : LegIx) (p : PosIx) (q : CueIx) (timeout : Nat) :
    ∃ v, (u.connecting n p).Orderly v ∧ (v.onPos p fun x => x.boundTo n).Orderly (u.bindConnect n p q timeout) := by
  refine ⟨(u.prompted n p q).onLeg n fun l => { l with timer := some (connectFrames timeout) },
    (prompted_orderly ..).trans (onLeg_orderly _ n fun _ => ⟨by rfl, by rfl, by rfl⟩), ?_⟩
  have h := (posBind_orderly ((u.prompted n p q).onLeg n fun l => { l with timer := some (connectFrames timeout) })
    p n).trans (echoBind_orderly _ n)
  rw [bindConnect_eq]
  split
  · exact h
  · exact h.trans (connectReport_prompts ..).orderly

theorem bindConnect_bindings (q : CueIx) (timeout : Nat) (h : u.bindingsConsistent)
    (hl : (look u.legs n).inCall = false) (hp : (look u.pos p).state = .idle) :
    (u.bindConnect n p q timeout).bindingsConsistent := by
  obtain ⟨v, hv, ht⟩ := bindConnect_orderly u n p q timeout
  exact bindings_of_joined h (unbound_of_not_inCall h hl).1 hp rfl ((connecting_calls u n p).trans hv.calls) ht.calls

theorem bindConnect_members (q : CueIx) (timeout : Nat) (hl : (look u.legs n).inCall = false) :
    u.KeepsMembers (u.bindConnect n p q timeout) := by
  intro S h
  obtain ⟨v, hv, ht⟩ := bindConnect_orderly u n p q timeout
  exact ht.members S (onPos_members _ _ _ S (hv.members S (connecting_members h fun _ => hl)))

/-! ## Headsets that come and go -/

theorem arrive_bindings (key : Bool) (h : u.bindingsConsistent) (hp : (look u.pos p).present = false) :
    (u.arrive p key).bindingsConsistent := by
  have hs : (look u.pos p).state = .absent := by simpa [hp] using (h.2.2.1 p).symm
  have hb : (look u.pos p).bound = none := by simpa [hs] using h.2.1 p
  have ht : (u.onPos p fun x => x.arrived key).Orderly (u.arrive p key) :=
    (raisePos_orderly _ _ _ _ fun _ => by rfl).trans (muteChange_orderly ..)
  refine ht.calls.bindings (lone_bindings h hb (fun _ => rfl) (present := true) ?_ fun q hq => ?_)
  · rw [Units.onPos_pos, look_upd_self, Position.call]
    show ((look u.pos p).bound, _) = _
    rw [hb]
    rfl
  · rw [Units.onPos_pos, look_upd_of_ne _ hq.symm]

theorem arrive_members (u : Units) (p : PosIx) (key : Bool) : u.KeepsMembers (u.arrive p key) :=
  (onPos_members u p fun x => x.arrived key).trans
    ((raisePos_orderly _ _ _ _ fun _ => by rfl).trans (muteChange_orderly ..)).members

/-- The events of a loss, before its leg is parked. -/
theorem lost_orderly (u : Units) (p : PosIx) (cause : LossCause) :
    (u.onPos p Position.lost).Orderly
      (((u.onPos p Position.lost).raisePos .headsetOff p (detail2 cause.code (look u.pos p).state.code)
        fun x => { x with presentChanged := false }).muteChange p (look u.pos p).muted) :=
  (raisePos_orderly _ _ _ _ fun _ => by rfl).trans (muteChange_orderly ..)

theorem autoPark_members (u : Units) (p : PosIx) (n : LegIx) : u.KeepsMembers (u.autoPark p n) := by
  intro S h
  rw [autoPark_eq u p n _ rfl]
  refine (onMedia_orderly ..).members S ((onMedia_orderly _ _).members S (membersFor_of_parked ?_))
  exact onPos_members _ _ _ S (onLeg_keepsMembers _ _ (fun _ => ⟨by rfl, by rfl⟩) S
    ((cancelConnect_orderly u n).members S h))

theorem lose_members (u : Units) (p : PosIx) (cause : LossCause) : u.KeepsMembers (u.lose p cause) := by
  have hlost := (onPos_members u p Position.lost).trans (lost_orderly u p cause).members
  unfold Units.lose
  dsimp only
  refine .trans ?_ (whisperLoss_orderly ..).members
  split
  · exact hlost.trans (autoPark_members _ _ _)
  · exact hlost

/-- The auto-park of a position that is no longer ENGAGED parts it from its leg. -/
theorem autoPark_bindings (h : u.bindingsConsistent) (hb : (look u.legs n).bound = some p) {v : Units}
    (hv : (u.onPos p Position.lost).KeepsCalls v) : (v.autoPark p n).bindingsConsistent := by
  have hw := hv.trans (cancelConnect_orderly v n).calls
  have hleg : ∀ m, m ≠ n → (look (v.parted p n).legs m).call = (look u.legs m).call := fun m hm => by
    rw [Units.parted, Units.onPos_legs, Units.onLeg_legs, look_upd_of_ne _ hm.symm, hw.legs, Units.onPos_legs]
  have hpos : ∀ q, q ≠ p → (look (v.parted p n).pos q).call = (look u.pos q).call := fun q hq => by
    rw [Units.parted, Units.onPos_pos, look_upd_of_ne _ hq.symm, Units.onLeg_pos, hw.pos, Units.onPos_pos,
      look_upd_of_ne _ hq.symm]
  have hn : (look (v.parted p n).legs n).bound = none := by
    rw [Units.parted, Units.onPos_legs, Units.onLeg_legs, look_upd_self]
  have hp : (look (v.parted p n).pos p).call = (none, false, false, true) := by
    have hx : (look (v.cancelConnect n).pos p).call = (look (u.onPos p Position.lost).pos p).call := hw.pos p
    rw [Units.onPos_pos, look_upd_self] at hx
    rw [Units.parted, Units.onPos_pos, look_upd_self, Units.onLeg_pos]
    exact congrArg (fun c => (none, c.2)) hx
  have hstand := standIn_calls (v.parted p n) n (look v.pos p).defaultGroup
  rw [autoPark_eq v p n _ rfl]
  refine parted_bindings h hb ?_ (fun m hm => ?_) (present := false) ((hstand.pos p).trans hp)
    fun q hq => (hstand.pos q).trans (hpos q hq)
  · show (look (upd ((v.parted p n).standIn n (look v.pos p).defaultGroup).legs n
      fun l => { l with state := .parked }) n).call = _
    rw [look_upd_self]
    exact Prod.ext ((congrArg Prod.fst (hstand.legs n)).trans hn) rfl
  · show (look (upd ((v.parted p n).standIn n (look v.pos p).defaultGroup).legs n
      fun l => { l with state := .parked }) m).call = _
    rw [look_upd_of_ne _ hm.symm, hstand.legs, hleg m hm]

theorem lose_bindings (cause : LossCause) (h : u.bindingsConsistent) : (u.lose p cause).bindingsConsistent := by
  rw [lose_eq cause (h.2.1 p)]
  refine (whisperLoss_orderly ..).calls.bindings ?_
  have hlost := (lost_orderly u p cause).calls
  cases hb : (look u.pos p).bound with
  | some n => exact autoPark_bindings h ((pos_bound_iff h).mpr hb) hlost
  | none =>
    refine hlost.bindings (lone_bindings h hb (fun _ => rfl) (present := false) ?_ fun q hq => ?_)
    · rw [Units.onPos_pos, look_upd_self]
      exact Prod.ext hb rfl
    · rw [Units.onPos_pos, look_upd_of_ne _ hq.symm]

end

end Sys2Proof.Machine
end

section
/-! PROOFS. Every command keeps bindings and memberships consistent. -/

namespace Sys2Proof.Machine

/-! ## The operations of the units -/

section

variable (u : Units) (n : LegIx) (p : PosIx) (g : GroupIx)

/-- A position changed in what no binding reads of it as it stands. -/
theorem onPos_orderly_at {f : Position → Position} (h : (f (look u.pos p)).call = (look u.pos p).call) :
    u.Orderly (u.onPos p f) where
  calls :=
    { legs := fun _ => rfl
      pos := fun q => by
        rw [Units.onPos_pos, look_upd]
        split
        next hq => subst hq; exact h
        next => rfl }
  members := onPos_members u p f

theorem cutThrough_orderly (cause : CutCause) (h : (look u.legs n).inCall = true) :
    u.Orderly (u.cutThrough n cause) where
  calls :=
    { legs := fun m => by
        rw [cutThrough_legs, look_upd]
        split
        next hm => subst hm; exact Prod.ext rfl h.symm
        next => rfl
      pos := fun q => by rw [(cutThrough_keeps u n cause).pos] }
  members := fun _ => cutThrough_membersFor n cause

theorem connectExpiry_orderly : u.Orderly (u.connectExpiry n) := by
  unfold Units.connectExpiry
  dsimp only
  split
  next h =>
    have hc := cancelConnect_orderly u n
    have hin : (look (u.cancelConnect n).legs n).inCall = true :=
      (congrArg Prod.snd (hc.calls.legs n)).trans (by simp [Leg.call, Leg.inCall, h.1])
    exact hc.trans (cutThrough_orderly _ n .timeout hin)
  · exact .refl

theorem posItemEnd_orderly : u.Orderly (u.posItemEnd p) := by
  unfold Units.posItemEnd
  dsimp only
  generalize Media.enterAt _ _ _ _ = x
  obtain ⟨m, entered⟩ := x
  have hm : u.Orderly { u with toMedia := m } := .of_eq rfl rfl rfl
  cases entered
  · have hs := hm.trans (stopPos_prompts { u with toMedia := m } p).orderly
    dsimp only [Bool.false_eq_true, if_false]
    simp only [Bool.false_eq_true, if_false]
    split
    · exact hs.trans ((completeEntry_prompts ..).trans (next_prompts ..)).orderly
    · exact hs
    · exact hs
  · simp only [if_true]
    exact hm.trans (onMedia_orderly ..)

theorem itemEnd_orderly (c : CurIx) : u.Orderly (u.itemEnd c) := by
  unfold Units.itemEnd
  dsimp only
  split
  · split
    · exact groupItemEnd_orderly ..
    · exact posItemEnd_orderly ..
  · exact .refl

theorem convergenceTurn_orderly : u.Orderly (u.convergenceTurn n) := by
  unfold Units.convergenceTurn
  dsimp only
  split
  · exact (onMedia_orderly ..).trans (raise_prompts ..).orderly
  · exact onMedia_orderly ..

theorem windowEnd_orderly : u.Orderly (u.windowEnd n) := by
  unfold Units.windowEnd
  dsimp only
  refine .trans ?_ (onMedia_orderly ..)
  split
  · exact (onMedia_orderly ..).trans (convergenceTurn_orderly ..)
  · exact onMedia_orderly ..

theorem echoMode_orderly (old new : EchoMode) : u.Orderly (u.echoMode n old new) := by
  unfold Units.echoMode
  split
  · exact .refl
  · split
    · exact onMedia_orderly ..
    · split
      · exact acquire_orderly ..
      · exact .refl
    · exact onMedia_orderly ..
    · exact onMedia_orderly ..

theorem echoTail_orderly (tail : Nat) : u.Orderly (u.echoTail n tail) := by
  unfold Units.echoTail
  dsimp only
  split
  · exact onMedia_orderly ..
  · split
    · exact onMedia_orderly ..
    · split
      · exact acquire_orderly ..
      · exact .refl

theorem parkAlarms_orderly (xs : List LegIx) : u.Orderly (xs.foldl Units.parkAlarm u) := by
  induction xs generalizing u with
  | nil => exact .refl
  | cons n xs ih => exact (parkAlarm_orderly u n).trans (ih _)

theorem startTests_orderly (q : CueIx) (gs : List GroupIx) :
    u.Orderly (gs.foldl (fun u g => if (look u.groups g).source = some q then u.startTest g else u) u) := by
  induction gs generalizing u with
  | nil => exact .refl
  | cons g gs ih =>
    rw [List.foldl_cons]
    split
    · exact (startTest_prompts u g).orderly.trans (ih _)
    · exact ih _

end

/-! ## The owners of units -/

section

variable (payload : List Byte) (u : Units)

theorem ownPlpb_orderly : u.Orderly (ownPlpb payload u).1 := by
  unfold ownPlpb
  split
  · split
    · split
      next h => exact onPos_orderly_at u _ (by simp [Position.call, h.1])
      · exact .refl
    · split
      next h => exact onPos_orderly_at u _ (by simp [Position.call, h])
      · exact .refl
    · exact .refl
  · exact .refl

theorem ownBind_safe : u.Safe (ownBind payload u).1 := by
  have hsame : u.Safe u := Units.Orderly.refl.safe
  unfold ownBind
  split
  · split
    next n p cue t _ _ _ _ =>
      dsimp only
      split
      · exact hsame
      next hl =>
        have hl : (look u.legs n).inCall = false := (not_inCall_iff _).mpr (by by_contra hn; exact hl (not_or.mp hn))
        split
        · exact hsame
        next hp =>
          have hp : (look u.pos p).state = .idle := not_not.mp hp
          split
          · exact ⟨fun h => bindTalk_bindings h hl hp, bindTalk_members.consistent⟩
          next q _ =>
            split
            · exact hsame
            · split
              · exact hsame
              · exact ⟨fun h => bindConnect_bindings q _ h hl hp, (bindConnect_members q _ hl).consistent⟩
    · exact hsame
  · exact hsame

theorem ownPark_safe : u.Safe (ownPark payload u).1 := by
  unfold ownPark
  split
  · split
    · exact ⟨park_bindings, park_members.consistent⟩
    · exact Units.Orderly.refl.safe
  · exact Units.Orderly.refl.safe

theorem ownRels_safe : u.Safe (ownRels payload u).1 := by
  unfold ownRels
  split
  · split
    · exact Units.Orderly.refl.safe
    · split
      · exact Units.Orderly.refl.safe
      · exact ⟨rels_bindings, rels_members.consistent⟩
  · exact Units.Orderly.refl.safe

theorem ownEcho_orderly : u.Orderly (ownEcho payload u).1 := by
  unfold ownEcho
  split
  · split
    next n mode tail reset _ _ _ _ =>
      have hset := (onLeg_orderly u n (f := fun l => { l with mode := mode, tail := tail })
        fun _ => ⟨by rfl, by rfl, by rfl⟩).trans (onMedia_orderly _ fun m => m.onCan n fun c => { c with tail := tail })
      have hmode := hset.trans (echoMode_orderly _ n (look u.legs n).mode mode)
      dsimp only
      generalize Units.echoMode _ n (look u.legs n).mode mode = v at *
      have htail : u.Orderly (if mode ≠ .off ∧ (look u.legs n).tail ≠ tail then v.echoTail n tail else v) := by
        split
        · exact hmode.trans (echoTail_orderly ..)
        · exact hmode
      split
      · exact htail.trans (onMedia_orderly ..)
      · exact htail
    · exact .refl
  · exact .refl

theorem ownCdef_orderly : u.Orderly (ownCdef payload u).1 := by
  unfold ownCdef
  split
  · exact .refl
  next q l _ =>
    dsimp only
    exact (onMedia_orderly u _).trans (startTests_orderly (u.onMedia fun m => { m with cues := put m.cues q l }) q _)

theorem ownGsrc_orderly : u.Orderly (ownGsrc payload u).1 := by
  unfold ownGsrc
  split
  · split
    next g source resume alarm _ _ _ _ =>
      have hresume := onGroup_orderly u g
        (f := fun gr => { gr with resume := resume, point := if resume then gr.point else none }) fun _ => by rfl
      have hsource := hresume.trans (changeSource_orderly _ g source)
      have halarm := hsource.trans (onGroup_orderly _ g (f := fun gr => { gr with alarm := alarm }) fun _ => by rfl)
      exact (halarm.trans (parkAlarms_orderly ..)).trans (startTest_prompts ..).orderly
    · exact .refl
  · exact .refl

theorem ownWpst_orderly : u.Orderly (ownWpst payload u).1 := by
  unfold ownWpst
  split
  · split
    · split
      · exact .refl
      · exact .refl
      · exact .refl
      · exact (place_prompts _ _ rfl).orderly
    · exact .refl
  · exact .refl

theorem ownWfls_orderly : u.Orderly (ownWfls payload u).1 := by
  unfold ownWfls
  split
  next pb set =>
    split
    next p _ _ _ =>
      have h := (removeEntries_prompts u p fun e => inLevelSet set e.level).orderly
      dsimp only
      generalize u.removeEntries p (fun e => inLevelSet set e.level) = x at *
      obtain ⟨v, k, connect, playing⟩ := x
      have hc : u.Orderly (if connect = true then v.connectReport p .flushed else v) := by
        split
        · exact h.trans (connectReport_prompts ..).orderly
        · exact h
      dsimp only
      split
      · exact hc.trans (next_prompts ..).orderly
      · exact hc
    · exact .refl
  · exact .refl

/-- A pair attached to a supervisor that is IDLE. -/
theorem attach_orderly {u v : Units} (h : u.Orderly v) (x : Pair) (hs : (look u.pos x.supervisor).state = .idle) :
    u.Orderly (({ v with pairs := v.pairs ++ [x] }.setLinks x).onPos x.supervisor fun y =>
      { y with state := .coaching }) := by
  have hlink := h.trans ((setPairs_orderly v (v.pairs ++ [x])).trans (setLinks_orderly _ x))
  have hsome : (look u.pos x.supervisor).call.2.1 = false ∧ (look u.pos x.supervisor).call.2.2.2 = false := by
    simp [Position.call, hs]
  rw [← hlink.calls.pos x.supervisor] at hsome
  exact hlink.trans (onPos_orderly_at _ _ (Prod.ext rfl (Prod.ext hsome.1.symm (Prod.ext rfl hsome.2.symm))))

theorem ownCatt_orderly : u.Orderly (ownCatt payload u).1 := by
  unfold ownCatt
  split
  · split
    next s a mode _ _ _ =>
      dsimp only
      split
      · exact .refl
      · split
        · exact .refl
        next hs =>
          have hidle : (look u.pos s).state = .idle := by
            by_contra hn
            exact hs (.inr (.inl hn))
          split
          · exact .refl
          · split
            · exact .refl
            · have hend : ∀ v, u.Orderly v → _ := fun v hv => attach_orderly hv
                { supervisor := s, agent := a, mode := mode, active := false } hidle
              cases u.pairOfAgent a with
              | none =>
                dsimp only
                split
                · exact (hend _ .refl).trans (activatePair_orderly ..)
                · exact hend _ .refl
              | some x =>
                dsimp only
                split
                · exact (hend _ (endPair_orderly u x .replaced)).trans (activatePair_orderly ..)
                · exact hend _ (endPair_orderly u x .replaced)
    · exact .refl
  · exact .refl

theorem ownCdet_orderly : u.Orderly (ownCdet payload u).1 := by
  unfold ownCdet
  split
  · split
    · exact .refl
    · split
      · exact .refl
      · exact endPair_orderly ..
  · exact .refl

theorem ownFormat_orderly : u.Orderly (ownFormat payload u).1 := by
  unfold ownFormat
  dsimp only
  split
  · exact .of_eq rfl rfl rfl
  · exact .refl

end

/-! ## The owners of the state -/

section

variable (payload : List Byte) (s : State)

theorem syncGenerator_orderly (p : PosIx) : s.toUnits.Orderly (s.syncGenerator p).toUnits := by
  obtain ⟨gen, k, h, _, _⟩ := syncGenerator_eq s p
  rw [h]
  exact .of_eq rfl rfl rfl

theorem ownPcfg_orderly : s.toUnits.Orderly (ownPcfg payload s).1.toUnits := by
  unfold ownPcfg
  split
  · split
    · dsimp only
      split
      · exact .refl
      · exact onPos_orderly _ _ fun _ => by rfl
    · exact .refl
  · exact .refl

theorem ownPqry_orderly : s.toUnits.Orderly (ownPqry payload s).1.toUnits := by
  unfold ownPqry
  split
  · split
    · exact .refl
    · exact onPos_orderly _ _ fun _ => by rfl
  · exact .refl

theorem ownPmut_orderly : s.toUnits.Orderly (ownPmut payload s).1.toUnits := by
  unfold ownPmut
  split
  · split
    next p mute _ _ =>
      exact ((onPos_orderly _ _ fun _ => by rfl).trans (muteChange_orderly ..)).trans (syncGenerator_orderly
        (s.onUnits fun u => (u.onPos p fun x => { x with hostMute := mute }).muteChange p (look s.pos p).muted) p)
    · exact .refl
  · exact .refl

theorem ownAnnc_orderly : s.toUnits.Orderly (ownAnnc payload s).1.toUnits := by
  unfold ownAnnc
  split
  · split
    · split
      · exact .refl
      · split
        · exact .refl
        next k _ =>
          dsimp only
          split
          · dsimp only
            exact (fire_prompts s.toUnits k _).orderly
          · exact .refl
    · exact .refl
  · exact .refl

theorem ownAcan_orderly : s.toUnits.Orderly (ownAcan payload s).1.toUnits := by
  unfold ownAcan
  split
  · split
    · exact .refl
    · split
      · exact .refl
      · exact .of_eq rfl rfl rfl
  · exact .refl

end

/-! ## Requests -/

/-- An owner that keeps both invariants. -/
def OwnsSafely (own : List Byte → State → State × Reply) : Prop :=
  ∀ payload (s : State), s.toUnits.Safe (own payload s).1.toUnits

theorem onUnits_safe {own : List Byte → Units → Units × Reply}
    (h : ∀ payload (u : Units), u.Safe (own payload u).1) :
    OwnsSafely (onUnits own) := fun payload (s : State) => h payload s.toUnits

theorem onUnits_orderly {own : List Byte → Units → Units × Reply}
    (h : ∀ payload (u : Units), u.Orderly (own payload u).1) :
    OwnsSafely (onUnits own) := onUnits_safe fun payload u => (h payload u).safe

theorem orderly_safe {own : List Byte → State → State × Reply}
    (h : ∀ payload (s : State), s.toUnits.Orderly (own payload s).1.toUnits) : OwnsSafely own :=
  fun payload s => (h payload s).safe

theorem onStore_safe (own : List Byte → Store → Store × Reply) : OwnsSafely (onStore own) :=
  fun payload s => (onMedia_orderly s.toUnits fun m => { m with store := (own payload s.store).1 }).safe

theorem onRouter_safe (own : List Byte → Router → Router × Reply) : OwnsSafely (onRouter own) :=
  fun payload s => (onMedia_orderly s.toUnits fun m => { m with router := (own payload s.router).1 }).safe

theorem query_safe (own : List Byte → State → Reply) : OwnsSafely (query own) :=
  fun _ _ => Units.Orderly.refl.safe

theorem discard_orderly (s : State) (cause : Discard) : s.toUnits.Orderly (s.discard cause).toUnits := by
  unfold State.discard
  dsimp only
  split
  · exact .of_eq rfl rfl rfl
  · exact .of_eq rfl rfl rfl

theorem accept_orderly (s : State) (r : Request) : s.toUnits.Orderly (s.accept r).toUnits := by
  unfold State.accept
  split
  · exact discard_orderly ..
  · exact .of_eq rfl rfl rfl

section

variable {own : List Byte → State → State × Reply}

theorem take_safe (h : OwnsSafely own) (s : State) : s.toUnits.Safe (s.take own).toUnits := by
  unfold State.take
  split
  · exact Units.Orderly.refl.safe
  next r hr => exact (h r.payload s).trans (settle_prompts _).orderly.safe

theorem request_safe (h : OwnsSafely own) (s : State) (name : List Byte) (tag : BitVec 16) (payload : List Byte) :
    s.toUnits.Safe (s.request own name tag payload).toUnits := by
  unfold State.request
  dsimp only
  split
  · exact take_safe h s
  · split
    · exact (discard_orderly ..).safe
    · split
      · exact (accept_orderly ..).safe.trans (take_safe h _)
      · exact (accept_orderly ..).safe

end

/-! ## The other commands -/

section

variable (s : State) (p : PosIx)

theorem settled_safe {t : State} (h : s.toUnits.Safe t.toUnits) : s.toUnits.Safe t.settled.toUnits :=
  h.trans (settle_prompts _).orderly.safe

theorem arrive_safe (key : Bool) (h : (look s.pos p).present = false) :
    s.toUnits.Safe (s.arrive p key).toUnits := by
  have hu : s.toUnits.Safe (s.toUnits.arrive p key) :=
    ⟨fun hb => arrive_bindings key hb h, (arrive_members _ _ _).consistent⟩
  exact hu.trans (syncGenerator_orderly ((s.onUnits fun u => u.arrive p key).onSup p Suppressor.arrival) p).safe

theorem lose_safe (cause : LossCause) : s.toUnits.Safe (s.lose p cause).toUnits :=
  ⟨fun hb => lose_bindings cause hb, (lose_members _ _ _).consistent⟩

theorem takeKey_orderly (key : Bool) : s.toUnits.Orderly (s.takeKey p key).toUnits := by
  unfold State.takeKey
  dsimp only
  split
  · exact ((onPos_orderly _ _ fun _ => by rfl).trans (muteChange_orderly ..)).trans (syncGenerator_orderly
      (s.onUnits fun u => (u.onPos p fun x => { x with keyHeld := key }).muteChange p (look s.pos p).muted) p)
  · exact .refl

theorem debounce_safe (present key : Bool) : s.toUnits.Safe (s.debounce p present key).toUnits := by
  unfold State.debounce
  dsimp only
  split
  · exact (onPos_orderly _ _ fun _ => by rfl).safe
  next hne =>
    split
    · exact (onPos_orderly _ _ fun _ => by rfl).safe
    · split
      · exact Units.Orderly.refl.safe
      · split
        next hp => exact arrive_safe s p key (by simpa [hp] using hne)
        · exact lose_safe ..

theorem subframe_safe (present key valid : Bool) : s.toUnits.Safe (s.subframe p present key valid).toUnits := by
  unfold State.subframe
  split
  · let v := s.onUnits fun u => u.onPos p fun x => { x with linkValid := true, linkTimer := some linkTime }
    have hv : s.toUnits.Orderly v.toUnits := onPos_orderly s.toUnits p fun _ => by rfl
    exact (hv.trans (takeKey_orderly v p key)).safe.trans (debounce_safe (v.takeKey p key) p present key)
  · exact Units.Orderly.refl.safe

theorem linkLost_safe : s.toUnits.Safe (s.linkLost p).toUnits := by
  unfold State.linkLost
  split
  · let v := s.onUnits fun u => u.onPos p fun x =>
      { x with linkValid := false, linkTimer := none, debounce := none }
    have hv : s.toUnits.Safe v.toUnits := (onPos_orderly s.toUnits p fun _ => by rfl).safe
    dsimp only
    split
    · exact hv.trans (lose_safe v p .linkLost)
    · exact hv
  · exact Units.Orderly.refl.safe

theorem announceExpiry_orderly (k : SlotIx) : s.toUnits.Orderly (s.announceExpiry k).toUnits := by
  unfold State.announceExpiry
  split
  · exact .refl
  next a _ =>
    split
    · have h := (fire_prompts s.toUnits k a).orderly
      generalize s.toUnits.fire k a = x at *
      exact h
    · exact .refl

theorem alarmTurn_orderly (a : Alarm) : s.toUnits.Orderly (s.alarmTurn p a).toUnits :=
  (raise_prompts s.toUnits _ _ _ _).orderly

theorem blockEnd_orderly : s.toUnits.Orderly (s.blockEnd p).toUnits := by
  unfold State.blockEnd
  dsimp only
  split
  · exact alarmTurn_orderly (s.onSup p Suppressor.judge) ..
  · exact .of_eq rfl rfl rfl

theorem alarmExpiry_safe (a : Alarm) : s.toUnits.Safe (s.alarmExpiry p a).toUnits := by
  unfold State.alarmExpiry
  split
  · exact settled_safe s (alarmTurn_orderly ..).safe
  · split
    · exact settled_safe s (blockEnd_orderly ..).safe
    · exact Units.Orderly.refl.safe

theorem frame_groups (mic trunk : List Sample) : (s.frame mic trunk).groups = s.groups := by
  rw [frame_eq, State.tick, State.mixUnits]
  rfl

theorem frame_orderly (mic trunk : List Sample) : s.toUnits.Orderly (s.frame mic trunk).toUnits where
  calls := ⟨fun n => by rw [frame_legs]; rfl, fun q => by rw [frame_pos]; rfl⟩
  members := fun S h => membersFor_of_eq (fun n => by rw [frame_legs]; exact ⟨rfl, rfl⟩)
    (fun g => congrArg (fun gs => (look gs g).members) (frame_groups s mic trunk)) h

theorem reset_safe (u : Units) (k : ResetKind) (st : Store) (nonce : Nat) : u.Safe (Units.reset k st nonce) where
  bindings := fun _ => reset_bindingsConsistent
  members := fun _ => reset_membersConsistent

theorem restart_safe : s.toUnits.Safe s.restart.toUnits := reset_safe ..

theorem frameEnd_safe : s.toUnits.Safe s.frameEnd.toUnits := by
  unfold State.frameEnd
  split
  · exact restart_safe s
  · split
    · exact Units.Orderly.refl.safe
    · exact Units.Orderly.refl.safe

theorem completeFrame_orderly (bytes : List Byte) : s.toUnits.Orderly (s.completeFrame bytes).toUnits := by
  unfold State.completeFrame
  dsimp only
  split
  · exact discard_orderly ..
  · split
    · split
      · exact discard_orderly ..
      · exact accept_orderly ..
    · exact discard_orderly ..

theorem receive_orderly (b : Byte) (stop : Bool) : s.toUnits.Orderly (s.receive b stop).toUnits := by
  have hset : ∀ a, s.toUnits.Orderly (s.setAssembler a).toUnits := fun a => .of_eq rfl rfl rfl
  unfold State.receive
  split
  · split
    · exact hset _
    · exact .refl
  · split
    · exact (hset _).trans (discard_orderly ..)
    · dsimp only
      split
      · exact .refl
      · split
        · exact (hset _).trans (discard_orderly ..)
        · split
          · exact (hset _).trans (completeFrame_orderly ..)
          · exact hset _

theorem lineBreak_orderly : s.toUnits.Orderly s.lineBreak.toUnits := by
  unfold State.lineBreak
  split
  · exact .refl
  · exact discard_orderly (s.setAssembler .hunting) _

theorem gapTimeout_orderly : s.toUnits.Orderly s.gapTimeout.toUnits := by
  unfold State.gapTimeout
  split
  · exact .refl
  · split
    · exact discard_orderly (s.setAssembler .hunting) _
    · exact .refl

theorem replyStart_orderly : s.toUnits.Orderly s.replyStart.toUnits := by
  unfold State.replyStart
  split
  · exact .refl
  · exact .refl

theorem noticeStart_orderly : s.toUnits.Orderly s.noticeStart.toUnits := by
  unfold State.noticeStart
  split
  · exact .of_eq rfl rfl rfl
  · exact .refl

/-! ## Commands, and steps -/

/-- What a command leads to, if it does not fault. -/
def KeepsBoth (s : State) : Outcome → Prop
  | .next t => s.toUnits.Safe t.toUnits
  | _ => True

theorem keepsBoth_of_safe {s t : State} (h : s.toUnits.Safe t.toUnits) : KeepsBoth s (.next t) := h

theorem keepsBoth_of_orderly {s t : State} (h : s.toUnits.Orderly t.toUnits) : KeepsBoth s (.next t) :=
  keepsBoth_of_safe h.safe

theorem keepsBoth_refl : KeepsBoth s (.next s) := keepsBoth_of_orderly .refl

theorem keepsBoth_onMedia (f : Media → Media) : KeepsBoth s (.next (s.onMedia f)) :=
  keepsBoth_of_orderly (onMedia_orderly s.toUnits f)

theorem keepsBoth_withFlash (o : Option (Media × List Host.Cell)) : KeepsBoth s (s.withFlash o) := by
  cases o with
  | none => exact trivial
  | some x => exact keepsBoth_of_orderly (.of_eq rfl rfl rfl)

theorem keepsBoth_request {own : List Byte → State → State × Reply} (h : OwnsSafely own) {name : List Byte}
    {tag : BitVec 16} {payload : List Byte} : KeepsBoth s (.next (s.request own name tag payload)) :=
  keepsBoth_of_safe (request_safe h s name tag payload)

theorem keepsBoth_settled {t : State} (h : s.toUnits.Safe t.toUnits) : KeepsBoth s (.next t.settled) :=
  keepsBoth_of_safe (settled_safe s h)

theorem keepsBoth_ite {c : Prop} [Decidable c] {t : State} (h : c → KeepsBoth s (.next t)) :
    KeepsBoth s (.next (if c then t else s)) := by
  split
  next hc => exact h hc
  · exact keepsBoth_refl s

/-! ## Commands of the flash -/

theorem keepsBoth_refillComplete : KeepsBoth s (execRefillComplete s) := by
  unfold execRefillComplete
  split
  · exact keepsBoth_withFlash ..
  · exact keepsBoth_refl s
  · exact keepsBoth_refl s

theorem keepsBoth_eraseSuspendEffect : KeepsBoth s (execEraseSuspendEffect s) := by
  unfold execEraseSuspendEffect
  split
  · split
    · exact keepsBoth_onMedia ..
    · exact keepsBoth_refl s
  · exact keepsBoth_refl s

theorem keepsBoth_pageProgramComplete : KeepsBoth s (execPageProgramComplete s) := by
  unfold execPageProgramComplete
  split
  · split
    · exact keepsBoth_refl s
    all_goals exact keepsBoth_withFlash ..
  all_goals exact keepsBoth_refl s

theorem keepsBoth_headerProgramComplete : KeepsBoth s (execHeaderProgramComplete s) := by
  unfold execHeaderProgramComplete
  split
  · split
    · exact keepsBoth_withFlash ..
    all_goals exact keepsBoth_refl s
  all_goals exact keepsBoth_refl s

theorem keepsBoth_programTimeout : KeepsBoth s (execProgramTimeout s) := by
  unfold execProgramTimeout
  split
  · split
    · exact keepsBoth_withFlash ..
    · exact keepsBoth_refl s
  all_goals exact keepsBoth_refl s

theorem keepsBoth_eraseComplete : KeepsBoth s (execEraseComplete s) := by
  unfold execEraseComplete
  split
  · split
    · exact keepsBoth_refl s
    · exact keepsBoth_withFlash ..
  · exact keepsBoth_refl s

theorem keepsBoth_eraseTimeout : KeepsBoth s (execEraseTimeout s) := by
  unfold execEraseTimeout
  split
  · split
    · exact keepsBoth_withFlash ..
    · exact keepsBoth_refl s
  · exact keepsBoth_refl s

theorem keepsBoth_resumeHoldExpiry : KeepsBoth s (execResumeHoldExpiry s) := by
  unfold execResumeHoldExpiry
  split
  · exact keepsBoth_refl s
  · exact keepsBoth_onMedia ..

theorem keepsBoth_scanReadComplete : KeepsBoth s (execScanReadComplete s) := by
  unfold execScanReadComplete
  split
  · exact keepsBoth_onMedia ..
  all_goals exact keepsBoth_refl s

theorem keepsBoth_blankCheckComplete : KeepsBoth s (execBlankCheckComplete s) := by
  unfold execBlankCheckComplete
  split
  · exact keepsBoth_onMedia ..
  all_goals exact keepsBoth_refl s

theorem keepsBoth_convergenceTimerExpiry (n : LegIx) : KeepsBoth s (execConvergenceTimerExpiry n s) := by
  unfold execConvergenceTimerExpiry
  split
  · exact keepsBoth_settled s (convergenceTurn_orderly s.toUnits n).safe
  · exact keepsBoth_ite s fun _ => keepsBoth_settled s (windowEnd_orderly s.toUnits n).safe

theorem keepsBoth_hangoverExpiry : KeepsBoth s (execHangoverExpiry p s) := by
  unfold execHangoverExpiry
  dsimp only
  split
  · exact keepsBoth_of_orderly (.of_eq rfl rfl rfl)
  · exact keepsBoth_ite s fun _ => keepsBoth_settled s (blockEnd_orderly s p).safe

theorem exec_keepsBoth (i : Instr) : KeepsBoth s (exec i s) := by
  have hown {own : List Byte → State → State × Reply} {name : List Byte} {tag : BitVec 16} {payload : List Byte}
      (h : OwnsSafely own) : KeepsBoth s (.next (s.request own name tag payload)) := keepsBoth_request s h
  cases i with
  | powerOn => exact keepsBoth_of_safe (reset_safe ..)
  | pinReset => exact keepsBoth_of_safe (reset_safe ..)
  | restart => exact keepsBoth_ite s fun _ => keepsBoth_of_safe (restart_safe s)
  | linkRateSwitch => exact keepsBoth_ite s fun _ => keepsBoth_of_safe (frameEnd_safe s)
  | receiveByte b stop => exact keepsBoth_of_orderly (receive_orderly ..)
  | lineBreak => exact keepsBoth_of_orderly (lineBreak_orderly s)
  | gapTimeout => exact keepsBoth_of_orderly (gapTimeout_orderly s)
  | replyFrameStart => exact keepsBoth_of_orderly (replyStart_orderly s)
  | noticeFrameStart => exact keepsBoth_of_orderly (noticeStart_orderly s)
  | frameTransmitEnd => exact keepsBoth_of_safe (frameEnd_safe s)
  | pcfg => exact hown (orderly_safe ownPcfg_orderly)
  | pqry => exact hown (orderly_safe ownPqry_orderly)
  | pmut => exact hown (orderly_safe ownPmut_orderly)
  | plpb => exact hown (onUnits_orderly ownPlpb_orderly)
  | nqry => exact hown (query_safe _)
  | bind => exact hown (onUnits_safe ownBind_safe)
  | park => exact hown (onUnits_safe ownPark_safe)
  | rels => exact hown (onUnits_safe ownRels_safe)
  | lqry => exact hown (query_safe _)
  | echo => exact hown (onUnits_orderly ownEcho_orderly)
  | sprs => exact hown (onUnits_orderly fun pl u => .of_eq rfl rfl rfl)
  | spqy => exact hown (query_safe _)
  | cdef => exact hown (onUnits_orderly ownCdef_orderly)
  | cqry => exact hown (query_safe _)
  | gsrc => exact hown (onUnits_orderly ownGsrc_orderly)
  | gqry => exact hown (query_safe _)
  | wpst => exact hown (onUnits_orderly ownWpst_orderly)
  | wfls => exact hown (onUnits_orderly ownWfls_orderly)
  | catt => exact hown (onUnits_orderly ownCatt_orderly)
  | cdet => exact hown (onUnits_orderly ownCdet_orderly)
  | annc => exact hown (orderly_safe ownAnnc_orderly)
  | acan => exact hown (orderly_safe ownAcan_orderly)
  | openClip | data | fini | drop | rtir | rsto | prot | listClips | stor => exact hown (onStore_safe _)
  | frmt => exact hown (onUnits_orderly ownFormat_orderly)
  | rout | nmod | nfet | nclr => exact hown (onRouter_safe _)
  | idnt | stat | lrat | rstr => exact hown (query_safe _)
  | statusSubframe p present key valid => exact keepsBoth_settled s (subframe_safe ..)
  | linkTimerExpiry p => exact keepsBoth_settled s (linkLost_safe ..)
  | highwayFrame mic trunk => exact keepsBoth_of_orderly (frame_orderly ..)
  | echoWindowEnd n =>
    exact keepsBoth_ite s fun _ => keepsBoth_settled s (windowEnd_orderly s.toUnits n).safe
  | convergenceTimerExpiry n => exact keepsBoth_convergenceTimerExpiry s n
  | analysisBlockEnd p => exact keepsBoth_ite s fun _ => keepsBoth_settled s (blockEnd_orderly s p).safe
  | hangoverExpiry p => exact keepsBoth_hangoverExpiry s p
  | highTimerExpiry p => exact keepsBoth_of_safe (alarmExpiry_safe ..)
  | lowTimerExpiry p => exact keepsBoth_of_safe (alarmExpiry_safe ..)
  | connectTimerExpiry n => exact keepsBoth_settled s (connectExpiry_orderly s.toUnits n).safe
  | parkAlarmExpiry n => exact keepsBoth_settled s (parkAlarm_orderly s.toUnits n).safe
  | announcementExpiry k => exact keepsBoth_settled s (announceExpiry_orderly s k).safe
  | itemEnd c => exact keepsBoth_settled s (itemEnd_orderly s.toUnits c).safe
  | refillComplete => exact keepsBoth_refillComplete s
  | resumeHoldExpiry => exact keepsBoth_resumeHoldExpiry s
  | eraseSuspendEffect => exact keepsBoth_eraseSuspendEffect s
  | pageProgramComplete => exact keepsBoth_pageProgramComplete s
  | headerProgramComplete => exact keepsBoth_headerProgramComplete s
  | programTimeout => exact keepsBoth_programTimeout s
  | eraseComplete => exact keepsBoth_eraseComplete s
  | eraseTimeout => exact keepsBoth_eraseTimeout s
  | quietWindowExpiry => exact keepsBoth_ite s fun _ => keepsBoth_onMedia ..
  | flashDeviceReady => exact keepsBoth_ite s fun _ => keepsBoth_onMedia ..
  | scanReadComplete => exact keepsBoth_scanReadComplete s
  | blankCheckComplete => exact keepsBoth_blankCheckComplete s

theorem step_keepsBoth : KeepsBoth s (step s) := by
  unfold step
  split
  · exact keepsBoth_refl s
  next c rest _ => exact exec_keepsBoth { s with pending := rest } c

theorem safe_of_step {s t : State} (h : step s = .next t) : s.toUnits.Safe t.toUnits := by
  have hs := step_keepsBoth s
  rw [h] at hs
  exact hs

end

/-- Settles O7: each command either leaves what bindings and memberships read of legs, positions and groups, or
binds, parts or moves one leg consistently. -/
theorem bindingsAndMembersStayConsistent : Obligations.BindingsAndMembersStayConsistent := by
  unfold Obligations.BindingsAndMembersStayConsistent
  exact ⟨fun s t h ht => (safe_of_step ht).bindings h, fun s t h ht => (safe_of_step ht).members h⟩

end Sys2Proof.Machine
end

section
/-! PROOFS. The call queries: NQRY, LQRY and GQRY. -/

namespace Sys2Proof.Machine

/-- A query that the link takes at once answers and changes nothing. -/
theorem query_replied {s : State} {own : List Byte → State → Reply} {name : List Byte} {tag : BitVec 16}
    {payload : List Byte} {rep : Reply} (h : s.takes) (hl : payload.length ≤ 240)
    (hp : portAnswer { tag := tag, name := name, payload := payload, reply := none } = none)
    (ho : ∀ l, own payload { s with link := l } = rep) :
    s.request (query own) name tag payload = s.replied tag name payload rep :=
  request_replied h hl hp (by rw [query, ho]) rfl h.2

theorem playable_isSome (u : Units) (g : GroupIx) :
    (u.playable g).isSome = (look u.groups g).source.any fun q => !(look u.cues q).items.isEmpty := by
  unfold Units.playable
  cases (look u.groups g).source with
  | none => rfl
  | some q => cases h : (look u.cues q).items.isEmpty <;> simp [h]

theorem ownNqry_byte (s : State) (p : PosIx) :
    ownNqry [byte p] s = .ok ([sbyte (look s.sup p).floor, (look s.sup p).alarm.code] ++
      le2 (look s.sup p).learned ++ flagByte (look s.sup p).speech :: (look s.sup p).bands.flatMap tenths2) := by
  simp only [ownNqry, readPos_byte, Suppressor.bytes, List.flatMap_def, List.append_assoc, List.singleton_append]

theorem ownLqry_byte (u : Units) (n : LegIx) :
    ownLqry [byte n] u = .ok ([(look u.legs n).state.code, ixByte (look u.legs n).bound,
        ixByte (look u.legs n).owner, ixByte (look u.legs n).group] ++
      le4None (if (look u.legs n).group.isSome then
        (look u.legs n).parkTime.map fun t => (u.router.stamp - t).toNat else none) ++
      flagByte (look u.legs n).fired :: le2None ((look u.legs n).timer.map msLeft) ++
      [flagByte (look u.legs n).connectRef, (look u.legs n).mode.code, byte (look u.legs n).tail,
        (look u.can n).state.code, byte (look u.can n).held.length, flagByte (look u.can n).reclaimed,
        flagByte (look u.can n).doubleTalk, byte (look u.can n).erle]) := by
  simp only [ownLqry, readLeg_byte, List.append_assoc, List.cons_append]
  rfl

theorem ownGqry_byte (u : Units) (g : GroupIx) :
    ownGqry [byte g] u = .ok ([ixByte (look u.groups g).source,
        flagByte ((look u.groups g).source.any fun q => !(look u.cues q).items.isEmpty),
        flagByte (look u.groups g).resume] ++ le2 (look u.groups g).alarm ++
      flagByte (look u.groups g).pendingChange ::
      ((look u.groups g).point.elim [0xFF, 0xFF, 0xFF, 0xFF, 0xFF] fun x => byte x.index :: le4 x.shown) ++
      [(look u.cursors (groupCursor g)).state.code,
        ixByte ((look u.cursors (groupCursor g)).snapshot.map Snapshot.cue),
        byte (look u.groups g).members.length] ++ (look u.groups g).members.map fun m => byte m.val) := by
  rw [ownGqry, readGroup_byte]
  have hnone : (0xFF :: le4None none) = [0xFF, 0xFF, 0xFF, 0xFF, (0xFF : Byte)] := by decide
  dsimp only
  cases (look u.groups g).point <;>
    simp only [playable_isSome, hnone, Option.elim_none, Option.elim_some, List.append_assoc, List.cons_append,
      List.nil_append]

/-- Settles O27: each query is answered at once from the record it names. -/
theorem callQueriesReportRecords : Obligations.CallQueriesReportRecords := by
  unfold Obligations.CallQueriesReportRecords
  intro s tag p n g hs
  refine ⟨congrArg Host.Outcome.next ?_, congrArg Host.Outcome.next ?_, congrArg Host.Outcome.next ?_⟩
  · exact query_replied hs (by simp) (by rfl) fun l => ownNqry_byte { s with link := l } p
  · exact query_replied hs (by simp) (by rfl) fun _ => ownLqry_byte s.toUnits n
  · exact query_replied hs (by simp) (by rfl) fun _ => ownGqry_byte s.toUnits g

end Sys2Proof.Machine
end

section
/-! PROOFS. A started cursor until it plays: it waits for its ring through grant passes, or has it. -/

namespace Sys2Proof.Machine

/-! ## Free segments -/

theorem toList_eq_map_look {α : Type} {k : Nat} (v : Vector α k) : v.toList = (List.finRange k).map (look v) := by
  refine List.ext_getElem (by simp) fun i h1 h2 => ?_
  simp [look]

theorem lowestFree_length {p : Pool} {need : Nat} (h : need ≤ p.free) : (p.lowestFree need).length = need := by
  have hfree : p.free = ((List.finRange 384).filter fun i => look p.owner i == .free).length := by
    rw [Pool.free, toList_eq_map_look, List.countP_map, List.countP_eq_length_filter]
    rfl
  rw [Pool.lowestFree, List.length_take, ← hfree, Nat.min_eq_left h]

/-- Two segments are granted where two fit a cursor. -/
theorem lowestFree_pair {p : Pool} {c : CurIx} (h : p.fits (.cursor c) 2 = true) :
    ∃ a b, p.lowestFree 2 = [a, b] :=
  List.length_eq_two.mp (lowestFree_length (of_decide_eq_true h))

/-! ## A cursor that has been placed -/

/-- What the entry of an item sets of a cursor, and what follows of it until its ring is ready leaves. -/
structure Cursor.PlacedAs (cur x : Cursor) : Prop where
  snapshot : cur.snapshot = x.snapshot
  index : cur.index = x.index
  place : cur.place = x.place
  clip : cur.clip = x.clip
  gap : cur.gap = x.gap

theorem Cursor.PlacedAs.inClip {cur x : Cursor} (h : cur.PlacedAs x) : cur.inClip = x.inClip := by
  simp only [Cursor.inClip, Cursor.item, h.snapshot, h.index, h.gap]

/-- A cursor that waits for a ring of two segments. -/
structure Media.Waiting (c : CurIx) (x : Cursor) (m : Media) : Prop where
  placed : (look m.cursors c).PlacedAs x
  state : (look m.cursors c).state = .starting
  waits : m.pool.waits (.cursor c) = true
  need : ∀ e ∈ m.pool.wait, e.who = .cursor c → e.need = 2

/-- A cursor that has been given its ring. -/
structure Media.Ringed (c : CurIx) (x : Cursor) (m : Media) : Prop where
  placed : (look m.cursors c).PlacedAs x
  state : (look m.cursors c).state = if x.inClip then .starting else .playing
  ring : (look m.cursors c).ring.isSome = true
  waits : m.pool.waits (.cursor c) = false

/-- A started cursor before anything of it has played. -/
def Media.Stands (c : CurIx) (x : Cursor) (m : Media) : Prop := m.Waiting c x ∨ m.Ringed c x

section

variable {legs : Vector Leg 64} {c : CurIx} {x : Cursor} {m t : Media}

theorem Media.Waiting.of_eq (h : m.Waiting c x) (hc : look t.cursors c = look m.cursors c)
    (hw : t.pool.waits (.cursor c) = m.pool.waits (.cursor c))
    (he : ∀ e ∈ t.pool.wait, e.who = .cursor c → e ∈ m.pool.wait) : t.Waiting c x :=
  ⟨hc ▸ h.placed, hc ▸ h.state, hw.trans h.waits, fun e hm hx => h.need e (he e hm hx) hx⟩

theorem Media.Ringed.of_plays {o : Option CurIx} (h : m.Ringed c x) (ho : some c ≠ o) (k : m.Plays legs o t) :
    t.Ringed c x := by
  obtain ⟨hc, hw⟩ := k.other c ho h.waits
  exact ⟨hc ▸ h.placed, hc ▸ h.state, hc ▸ h.ring, hw⟩

/-- A refill moves neither the place of its cursor nor its state, and leaves a ring where there was one. -/
theorem issueRefill_placed (m : Media) (c : CurIx) :
    (look (m.issueRefill c).cursors c).PlacedAs (look m.cursors c) ∧
      (look (m.issueRefill c).cursors c).state = (look m.cursors c).state ∧
      (look (m.issueRefill c).cursors c).ring.isSome = (look m.cursors c).ring.isSome := by
  rw [issueRefill_cursor]
  cases (look m.cursors c).nextRefill c m.store with
  | none => exact ⟨⟨rfl, rfl, rfl, rfl, rfl⟩, rfl, rfl⟩
  | some rf => exact ⟨⟨rfl, rfl, rfl, rfl, rfl⟩, rfl, Option.isSome_map ..⟩

theorem ringReady_ringed (hp : (look m.cursors c).PlacedAs x) (hs : (look m.cursors c).state = .starting)
    (hr : (look m.cursors c).ring.isSome = true) (hw : m.pool.waits (.cursor c) = false) :
    (m.ringReady c).Ringed c x := by
  have hset : ∀ y : Cursor, look (m.onCur c fun _ => y).cursors c = y := fun y => look_upd_self ..
  obtain ⟨h1, h2, h3⟩ := issueRefill_placed (m.onCur c fun cur =>
    if cur.state = .starting ∧ !cur.inClip then { cur with state := .playing } else cur) c
  rw [Media.onCur_cursors, look_upd_self] at h1 h2 h3
  have hpool : (m.ringReady c).pool = m.pool := (issueRefill_framed ..).pool
  rw [hp.inClip, hs] at h1 h2 h3
  cases hx : x.inClip <;> rw [hx] at h1 h2 h3
  · exact ⟨⟨h1.1.trans hp.1, h1.2.trans hp.2, h1.3.trans hp.3, h1.4.trans hp.4, h1.5.trans hp.5⟩,
      by rw [hx]; exact h2, h3.trans hr, by rw [hpool]; exact hw⟩
  · exact ⟨⟨h1.1.trans hp.1, h1.2.trans hp.2, h1.3.trans hp.3, h1.4.trans hp.4, h1.5.trans hp.5⟩,
      by rw [hx]; exact h2.trans hs, h3.trans hr, by rw [hpool]; exact hw⟩

/-- A cursor granted the two segments it starts with. -/
theorem grantSelf_ringed (hp : (look m.cursors c).PlacedAs x) (hs : (look m.cursors c).state = .starting)
    (hf : m.pool.fits (.cursor c) 2 = true) : (m.grant legs (.cursor c) 2).Ringed c x := by
  obtain ⟨a, b, hab⟩ := lowestFree_pair hf
  simp only [Media.grant, hab]
  refine ringReady_ringed ?_ ?_ ?_ ?_
  · rw [Media.onCur_cursors, look_upd_self]
    exact ⟨hp.1, hp.2, hp.3, hp.4, hp.5⟩
  · rw [Media.onCur_cursors, look_upd_self]
    exact hs
  · rw [Media.onCur_cursors, look_upd_self]
    rfl
  · simp

theorem grant_cursors_of_ne (legs : Vector Leg 64) (m : Media) (who : Requester) (need : Nat)
    (h : who ≠ .cursor c) : look (m.grant legs who need).cursors c = look m.cursors c := by
  cases who with
  | leg n => rfl
  | cursor d =>
    have hd : d ≠ c := fun e => h (e ▸ rfl)
    unfold Media.grant
    dsimp only
    split
    · unfold Media.ringReady
      rw [issueRefill_cursors _ hd.symm, Media.onCur_cursors, look_upd_of_ne _ hd, Media.onCur_cursors,
        look_upd_of_ne _ hd]
      rfl
    · rfl

theorem grant_wait (legs : Vector Leg 64) (m : Media) (who : Requester) (need : Nat) :
    (m.grant legs who need).pool.wait = m.pool.wait.filter fun e => e.who ≠ who := by
  cases who with
  | leg n => rfl
  | cursor d =>
    unfold Media.grant
    dsimp only
    split
    · exact congrArg Pool.wait (issueRefill_framed ..).pool
    · rfl

theorem grant_stands {e : WaitEntry} (h : m.Waiting c x) (he : e ∈ m.pool.wait)
    (hf : m.pool.fits e.who e.need = true) : (m.grant legs e.who e.need).Stands c x := by
  by_cases hc : e.who = .cursor c
  · rw [hc, h.need e he hc] at hf ⊢
    exact .inr (grantSelf_ringed h.placed h.state hf)
  · refine .inl (h.of_eq (grant_cursors_of_ne _ _ _ _ hc) ?_ fun f hm _ => ?_)
    · have hw := h.waits
      rw [hw]
      simp only [Pool.waits, List.any_eq_true, decide_eq_true_eq, grant_wait, List.mem_filter] at hw ⊢
      obtain ⟨f, hf, hfc⟩ := hw
      exact ⟨f, ⟨hf, by rw [hfc]; exact Ne.symm hc⟩, hfc⟩
    · rw [grant_wait] at hm
      exact List.mem_of_mem_filter hm

theorem passLoop_stands (fuel : Nat) (h : m.Stands c x) : (m.passLoop legs fuel).Stands c x := by
  induction fuel generalizing m with
  | zero => exact h
  | succ fuel ih =>
    rcases h with h | h
    · unfold Media.passLoop
      split
      · exact .inl h
      next e _ he =>
        split
        next hf => exact ih (grant_stands h (by rw [he]; exact List.mem_cons_self) hf)
        · split
          · exact .inl h
          · exact ih (.inl (h.of_eq rfl rfl fun _ hm _ => hm))
    · exact .inr (h.of_plays (o := none) nofun (passLoop_plays legs m (fuel + 1)))

theorem pass_stands (h : m.Stands c x) : (m.pass legs).Stands c x := passLoop_stands _ h

/-- A STARTING cursor asks for its ring. -/
theorem askCursor_stands (hp : (look m.cursors c).PlacedAs x) (hs : (look m.cursors c).state = .starting) :
    (m.ask legs (.cursor c) 2).Stands c x := by
  unfold Media.ask
  split
  next hw =>
    refine pass_stands (.inl ⟨hp, hs, (waits_changeNeed ..).trans hw, fun e he hc => ?_⟩)
    obtain ⟨f, _, rfl⟩ := List.mem_map.mp he
    by_cases hfc : f.who = .cursor c
    · rw [if_pos hfc]
    · rw [if_neg hfc] at hc
      exact absurd hc hfc
  next hw =>
    split
    next hf => exact .inr (grantSelf_ringed hp hs (Bool.and_eq_true_iff.mp hf).2)
    · refine pass_stands (.inl ⟨hp, hs, by simp, fun e he hc => ?_⟩)
      have hmem : e ∈ m.pool.wait ∨ e = { who := .cursor c, need := 2 } := by
        simp only [Media.onPool_pool, Pool.insert, List.mem_append, List.mem_cons] at he
        rcases he with he | rfl | he
        · exact .inl ((List.takeWhile_sublist _).subset he)
        · exact .inr rfl
        · exact .inl ((List.dropWhile_sublist _).subset he)
      rcases hmem with he | rfl
      · exact absurd (List.any_eq_true.mpr ⟨e, he, decide_eq_true hc⟩) hw
      · rfl

/-! ## The start -/

/-- A cursor that enters an item at an elapsed time. -/
def Cursor.entering (cur : Cursor) (it : Item) (i elapsed : Nat) : Cursor :=
  match it with
  | .clip id _ => { cur with index := i, place := elapsed, clip := some id }
  | .silence ms | .tone _ ms => { cur with index := i, place := framesOf ms - elapsed }

/-- A clip that is not VALID is skipped; any other item is entered (R93). -/
def Store.admits (st : Store) (it : Item) : Prop := ∀ id gain, it = .clip id gain → st.valid id

theorem enterItems_head {it : Item} (rest : List Item) (i elapsed : Nat) (h : m.store.admits it) :
    (m.enterItems c (it :: rest) i elapsed).2 = true ∧
      (look (m.enterItems c (it :: rest) i elapsed).1.cursors c).PlacedAs
        ((look m.cursors c).entering it i elapsed) := by
  unfold Media.enterItems
  cases it with
  | clip id gain =>
    have hg : m.store.grants id = true := (grants_iff ..).mpr (h id gain rfl)
    dsimp only
    rw [if_pos hg, Media.onCur_cursors, look_upd_self]
    exact ⟨rfl, ⟨rfl, rfl, rfl, rfl, rfl⟩⟩
  | silence ms =>
    dsimp only
    rw [Media.onCur_cursors, look_upd_self]
    exact ⟨rfl, ⟨rfl, rfl, rfl, rfl, rfl⟩⟩
  | tone k ms =>
    dsimp only
    split
    next he =>
      rw [Media.onCur_cursors, look_upd_self]
      exact ⟨rfl, ⟨rfl, rfl, by rw [he]; rfl, rfl, rfl⟩⟩
    · refine ⟨rfl, ?_⟩
      show (look (upd m.cursors c _) c).PlacedAs _
      rw [look_upd_self]
      exact ⟨rfl, rfl, rfl, rfl, rfl⟩

/-- A cursor that is not STOPPED is not started anew. -/
theorem startCursor_of_started (q : CueIx) (place : Option Place) (h : (look m.cursors c).state ≠ .stopped) :
    m.startCursor legs c q place = (m, false) := if_pos h

/-- A cursor started at an item it can enter stands there, waiting for its ring or with it (R92). -/
theorem startCursor_stands {q : CueIx} {place : Option Place} {i elapsed : Nat} {it : Item}
    (hs : (look m.cursors c).state = .stopped)
    (hr : resolvePlace m.store (look m.cues q).items place = (i, elapsed))
    (hi : (look m.cues q).items[i]? = some it) (ha : m.store.admits it) :
    (m.startCursor legs c q place).2 = false ∧
      ∃ cur : Cursor, (m.startCursor legs c q place).1.Stands c (cur.entering it i elapsed) ∧ cur.gap = false ∧
        cur.snapshot = some { cue := q, items := (look m.cues q).items, duck := (look m.cues q).duck } := by
  obtain ⟨hlt, hget⟩ := List.getElem?_eq_some_iff.mp hi
  have hdrop : (look m.cues q).items.drop i = it :: (look m.cues q).items.drop (i + 1) := by
    rw [List.drop_eq_getElem_cons hlt, hget]
  let begun := (m.onCur c fun cur =>
    cur.stopped.beginAt (startPlace m.store (look m.cues q).items i elapsed)).snap c q
  have hcur : look begun.cursors c =
      { (look m.cursors c).stopped.beginAt (startPlace m.store (look m.cues q).items i elapsed) with
        snapshot := some { cue := q, items := (look m.cues q).items, duck := (look m.cues q).duck } } := by
    simp only [begun, Media.snap, Media.onCur_cursors, look_upd_self]
    rfl
  have hitems : (look begun.cursors c).items = (look m.cues q).items := by rw [hcur]; rfl
  obtain ⟨hin, hplaced⟩ := enterItems_head (c := c) (m := begun) ((look m.cues q).items.drop (i + 1)) i elapsed ha
  have hstart : m.startCursor legs c q place =
      (((begun.enterAt c i elapsed).1.onCur c fun cur => { cur with state := .starting }).ask legs (.cursor c) 2,
        false) := by
    unfold Media.startCursor
    rw [if_neg (not_not.mpr hs)]
    dsimp only
    rw [hr]
    dsimp only
    rw [if_pos]
    show (begun.enterAt c i elapsed).2 = true
    rw [Media.enterAt, hitems, hdrop]
    exact hin
  rw [hstart]
  refine ⟨rfl, look begun.cursors c, askCursor_stands ?_ ?_, by rw [hcur]; rfl, by rw [hcur]⟩
  · rw [Media.onCur_cursors, look_upd_self, Media.enterAt, hitems, hdrop]
    exact ⟨hplaced.1, hplaced.2, hplaced.3, hplaced.4, hplaced.5⟩
  · rw [Media.onCur_cursors, look_upd_self]

/-- A cursor that stands at an item has been started there. -/
theorem startedAt_of_stands {t : State} {cur : Cursor} {q : CueIx} {it : Item} {i elapsed : Nat}
    (h : t.toMedia.Stands c (cur.entering it i elapsed)) (hg : cur.gap = false)
    (hsn : cur.snapshot = some { cue := q, items := (look t.cues q).items, duck := (look t.cues q).duck })
    (hi : (look t.cues q).items[i]? = some it) : t.startedAt c q i elapsed := by
  have hx : (cur.entering it i elapsed).gap = cur.gap ∧ (cur.entering it i elapsed).snapshot = cur.snapshot ∧
      (cur.entering it i elapsed).index = i := by
    cases it <;> exact ⟨rfl, rfl, rfl⟩
  obtain ⟨hxg, hxs, hxi⟩ := hx
  have hitem : (cur.entering it i elapsed).item = some it := by
    simp only [Cursor.item, hxg, hg, hxs, hsn, hxi]
    exact hi
  have hplaced : (look t.cursors c).PlacedAs (cur.entering it i elapsed) := h.elim (·.placed) (·.placed)
  have hstate : ((look t.cursors c).state = .starting ∧ t.pool.waits (.cursor c) = true) ∨
      ((look t.cursors c).ring ≠ none ∧
        (look t.cursors c).state = if (cur.entering it i elapsed).inClip then .starting else .playing) :=
    h.imp (fun w => ⟨w.state, w.waits⟩) fun r => ⟨Option.isSome_iff_ne_none.mp r.ring, r.state⟩
  unfold State.startedAt
  dsimp only
  rw [hi]
  refine ⟨hplaced.snapshot.trans (hxs.trans hsn), hplaced.index.trans hxi, ?_, fun hn => ?_, ?_, ?_⟩
  · rcases hstate with ⟨h1, _⟩ | ⟨_, h1⟩
    · exact .inl h1
    · rw [h1]
      split
      · exact .inl rfl
      · exact .inr rfl
  · exact hstate.resolve_right fun hr => hr.1 hn
  · rintro id gain ⟨⟩
    refine ⟨?_, hplaced.place, hplaced.clip⟩
    rcases hstate with ⟨h1, _⟩ | ⟨_, h1⟩
    · exact h1
    · rw [h1, Cursor.inClip, hitem]
      rfl
  · intro ms hms
    have hout : (cur.entering it i elapsed).inClip = false ∧
        (cur.entering it i elapsed).place = framesOf ms - elapsed := by
      rw [Cursor.inClip, hitem]
      rcases hms with hms | ⟨k, hms⟩ <;> cases hms <;> exact ⟨rfl, rfl⟩
    refine ⟨hplaced.place.trans hout.2, ?_⟩
    rcases hstate with ⟨_, h1⟩ | ⟨_, h1⟩
    · exact .inr h1
    · exact .inl (by rw [h1, hout.1]; rfl)

/-! ## A canceller that asks -/

/-- A change of one canceller and of who waits, with a grant pass after it: what the former leaves. -/
structure Media.LegChange (m t : Media) : Prop where
  cursors : t.cursors = m.cursors
  store : t.store = m.store
  router : t.router = m.router
  mark : ∀ n, (look t.can n).reclaimed = (look m.can n).reclaimed
  waits : ∀ d, t.pool.waits (.cursor d) = m.pool.waits (.cursor d)
  wait : ∀ d, ∀ e ∈ t.pool.wait, e.who = .cursor d → e ∈ m.pool.wait

theorem Media.LegChange.stands (h : m.LegChange t) (k : m.Stands c x) : t.Stands c x := by
  have hc : look t.cursors c = look m.cursors c := by rw [h.cursors]
  rcases k with k | k
  · exact .inl (k.of_eq hc (h.waits c) (h.wait c))
  · exact .inr ⟨hc ▸ k.placed, hc ▸ k.state, hc ▸ k.ring, (h.waits c).trans k.waits⟩

theorem grantLeg_change (legs : Vector Leg 64) (m : Media) (n : LegIx) (need : Nat) :
    m.LegChange (m.grant legs (.leg n) need) where
  cursors := rfl
  store := rfl
  router := rfl
  mark k := by
    simp only [Media.grant, Media.restate, Media.onCan_can, Media.onPool_can, upd_upd, look_upd]
    split
    next hk => rw [← hk]; simp [Canceller.restate]
    next => rfl
  waits d := by simp [Media.grant, Media.restate]
  wait d e he _ := by
    rw [grant_wait] at he
    exact List.mem_of_mem_filter he

/-- A canceller's request: what it changes before any pass, and the pass. -/
theorem askLeg_eq (legs : Vector Leg 64) (m : Media) (n : LegIx) (need : Nat) :
    ∃ v : Media, m.LegChange v ∧
      (m.ask legs (.leg n) need = v ∨ m.ask legs (.leg n) need = v.pass legs) := by
  unfold Media.ask
  split
  · refine ⟨m.onPool fun p => p.changeNeed (.leg n) need,
      ⟨rfl, rfl, rfl, fun _ => rfl, fun d => by simp, fun d e he hd => ?_⟩, .inr rfl⟩
    obtain ⟨f, hf, rfl⟩ := List.mem_map.mp he
    by_cases hfn : f.who = .leg n
    · rw [if_pos hfn] at hd
      cases hfn.symm.trans hd
    · rw [if_neg hfn]
      exact hf
  · split
    · exact ⟨_, grantLeg_change legs m n need, .inl rfl⟩
    · refine ⟨(m.onPool fun p => p.insert { who := .leg n, need := need }).restate legs n,
        ⟨rfl, rfl, rfl, fun k => (restate_can ..).2.1, fun d => by simp [Media.restate],
          fun d e he hd => ?_⟩, .inr rfl⟩
      rcases List.mem_append.mp he with he | he
      · exact he
      · rw [List.mem_singleton.mp he] at hd
        cases hd

theorem askLeg_stands (n : LegIx) (need : Nat) (h : m.Stands c x) : (m.ask legs (.leg n) need).Stands c x := by
  obtain ⟨v, hv, hask | hask⟩ := askLeg_eq legs m n need <;> rw [hask]
  · exact hv.stands h
  · exact pass_stands (hv.stands h)

theorem askLeg_mark (m : Media) (n : LegIx) (need : Nat) {k : LegIx} (hk : (look legs k).state ≠ .parked) :
    (look (m.ask legs (.leg n) need).can k).reclaimed = (look m.can k).reclaimed := by
  obtain ⟨v, hv, hask | hask⟩ := askLeg_eq legs m n need <;> rw [hask]
  · exact hv.mark k
  · exact ((pass_plays legs v).mark k hk).trans (hv.mark k)

end

end Sys2Proof.Machine
end

section
/-! PROOFS. BIND without a cue: the leg talks at once. -/

namespace Sys2Proof.Machine

/-! ## Requests taken by an owner of the units -/

/-- A request that the link takes at once and whose owner acts on the units: what that leads to settles, and the
reply is ready. -/
theorem request_units {s : State} {own : List Byte → Units → Units × Reply} {name : List Byte} {tag : BitVec 16}
    {payload : List Byte} {u : Units} {rep : Reply} (h : s.takes) (hl : payload.length ≤ 240)
    (hp : portAnswer { tag := tag, name := name, payload := payload, reply := none } = none)
    (ho : own payload s.toUnits = (u, rep)) :
    s.request (onUnits own) name tag payload =
      { s with toUnits := u.settle, link := s.link.answered tag name payload rep } :=
  request_eq (t := { s with
    toUnits := u
    link := s.link.accepted { tag := tag, name := name, payload := payload, reply := none } }) h.1 hl hp
    (onUnits_eq (s := { s with
      link := s.link.accepted { tag := tag, name := name, payload := payload, reply := none } }) ho) rfl

/-- A request that its owner refuses changes nothing. -/
theorem request_refused {s : State} {own : List Byte → Units → Units × Reply} {name : List Byte} {tag : BitVec 16}
    {payload : List Byte} {rep : Reply} (h : s.takes) (hl : payload.length ≤ 240)
    (hp : portAnswer { tag := tag, name := name, payload := payload, reply := none } = none)
    (ho : own payload s.toUnits = (s.toUnits, rep)) :
    s.request (onUnits own) name tag payload = s.replied tag name payload rep := by
  rw [request_units h hl hp ho, Units.settle_of_none _ h.2]
  rfl

/-- Without cue routes nothing is left to settle (R163). -/
theorem settle_of_keeps {s : State} {t : Units} (hs : s.postings = []) (hr : s.noCueRoutes)
    (h : s.toMedia.Keeps t.toMedia) : t.settle = t := Units.settle_of_none t ((h.postings hr).trans hs)

/-! ## Positions but for their coach links -/

/-- A position record without its coach link. -/
def Position.bare (x : Position) : Position := { x with coach := none }

theorem eq_of_bare {x y : Position} (h : x.bare = y.bare) : x = { y with coach := x.coach } := by
  cases x
  cases y
  unfold Position.bare at h
  simpa using h

section

variable (u : Units) (n : LegIx) (p q : PosIx)

theorem onPos_bare {f : Position → Position} (h : ∀ x, (f x).bare = x.bare) :
    (look (u.onPos p f).pos q).bare = (look u.pos q).bare := by
  rw [Units.onPos_pos, look_upd]
  split
  next hq => subst hq; exact h _
  next => rfl

theorem setLinks_bare (x : Pair) : (look (u.setLinks x).pos q).bare = (look u.pos q).bare :=
  (onPos_bare _ _ q fun _ => by rfl).trans (onPos_bare u _ q fun _ => by rfl)

theorem markPair_bare (x : Pair) (active : Bool) : (look (u.markPair x active).pos q).bare = (look u.pos q).bare :=
  setLinks_bare { u with pairs := u.pairs.map fun y => if y = x then { x with active := active } else y } q
    { x with active := active }

/-! ## The coach takes and leaves the playing place -/

theorem pushPlaying_legs (byCoach : Bool) : (u.pushPlaying p byCoach).legs = u.legs := by
  unfold Units.pushPlaying
  split
  · rfl
  · rfl
  · dsimp only
    split <;> rfl

theorem pushPlaying_groups (byCoach : Bool) : (u.pushPlaying p byCoach).groups = u.groups := by
  unfold Units.pushPlaying
  split
  · rfl
  · rfl
  · dsimp only
    split <;> rfl

theorem activatePair_legs (x : Pair) : (u.activatePair x).legs = u.legs := by
  rw [activatePair_eq, Units.raise_legs, Units.onWhisper_legs, pushPlaying_legs]
  rfl

theorem activatePair_groups (x : Pair) : (u.activatePair x).groups = u.groups := by
  rw [activatePair_eq, Units.raise_groups, Units.onWhisper_groups, pushPlaying_groups]
  rfl

theorem activatePair_media (x : Pair) : u.toMedia.Keeps (u.activatePair x).toMedia :=
  (pushPlaying_keeps (u.markPair x true) x.agent true).media.trans (raise_keeps ..)

theorem activatePair_bare (x : Pair) : (look (u.activatePair x).pos q).bare = (look u.pos q).bare := by
  rw [activatePair_eq, Units.raise_pos, Units.onWhisper_pos, (pushPlaying_keeps ..).pos]
  exact markPair_bare ..

/-! ## A bind handed to the position -/

theorem posBind_legs : (u.posBind p n).legs = u.legs := by
  unfold Units.posBind
  dsimp only
  split
  · exact activatePair_legs ..
  · rfl

theorem posBind_groups : (u.posBind p n).groups = u.groups := by
  unfold Units.posBind
  dsimp only
  split
  · exact activatePair_groups ..
  · rfl

theorem posBind_media : u.toMedia.Keeps (u.posBind p n).toMedia := by
  unfold Units.posBind
  dsimp only
  split
  · exact activatePair_media (u.onPos p fun x => x.boundTo n) _
  · exact .rfl'

theorem posBind_bare :
    (look (u.posBind p n).pos q).bare = (look (upd u.pos p fun x => x.boundTo n) q).bare := by
  unfold Units.posBind
  dsimp only
  split
  · exact activatePair_bare ..
  · rfl

/-- A position that is no pair's agent is bound and nothing else happens. -/
theorem posBind_of_unpaired (h : ∀ x ∈ u.pairs, x.agent ≠ p) :
    u.posBind p n = u.onPos p fun x => x.boundTo n := by
  have hnone : (u.onPos p fun x => { x with bound := some n, state := .engaged }).pairOfAgent p = none :=
    List.find?_eq_none.mpr fun x hx => by simpa using h x hx
  unfold Units.posBind
  dsimp only
  rw [hnone]
  rfl

/-! ## A bind handed to the canceller -/

theorem acquire_legs : (u.acquire n).legs = u.legs := by
  unfold Units.acquire
  dsimp only
  split <;> rfl

theorem acquire_groups : (u.acquire n).groups = u.groups := by
  unfold Units.acquire
  dsimp only
  split <;> rfl

theorem acquire_keeps : u.Keeps (u.acquire n) := by
  unfold Units.acquire
  dsimp only
  split
  · exact units_onMedia_keeps _ _ (ask_keeps ..)
  · exact .refl

theorem acquire_mark {u : Units} {n : LegIx} (h : (look u.legs n).state ≠ .parked) :
    (look (u.acquire n).can n).reclaimed = (look u.can n).reclaimed := by
  unfold Units.acquire
  dsimp only
  split
  · exact askLeg_mark _ n _ h
  · rfl

theorem echoBind_legs : (u.echoBind n).legs = u.legs := acquire_legs ..
theorem echoBind_groups : (u.echoBind n).groups = u.groups := acquire_groups ..

theorem echoBind_keeps : u.Keeps (u.echoBind n) :=
  (units_onMedia_keeps _ _ ((onCan_keeps ..).trans (restate_keeps ..))).trans (acquire_keeps ..)

theorem echoBind_mark {u : Units} {n : LegIx} (h : (look u.legs n).state ≠ .parked) :
    (look (u.echoBind n).can n).reclaimed = false := by
  refine (acquire_mark (u := u.onMedia fun m => (m.onCan n fun c => { c with reclaimed := false }).restate u.legs n)
    h).trans ((restate_can ..).2.1.trans ?_)
  rw [Media.onCan_can, look_upd_self]

end

/-! ## BIND -/

/-- What a BIND of any payload that fits answers and does (R25). -/
theorem ownBind_eq (u : Units) (n : LegIx) (p : PosIx) (cue : Option CueIx) {wait : Nat} (hw : wait ≤ 30) :
    ownBind [byte n, byte p, ixByte cue, byte wait] u =
      if (look u.legs n).state ≠ .free ∧ (look u.legs n).state ≠ .parked then (u, .refuse .state)
      else if (look u.pos p).state ≠ .idle then (u, .refuse .state)
      else
        match cue with
        | none => (u.bindTalk n p, .ok [])
        | some q =>
          if (look u.cues q).items.isEmpty then (u, .refuse .badarg)
          else if whisperLimit ≤ (look u.whisper p).queue.length then (u, .refuse .noroom)
          else (u.bindConnect n p q wait, .ok []) := by
  have hread : readRange 0 30 wait = some wait := if_pos ⟨Nat.zero_le _, hw⟩
  unfold ownBind
  dsimp only
  rw [readLeg_byte, readPos_byte, readIxNone_ixByte (by decide), toNat_byte (by omega), hread]
  rfl

section

variable {u : Units} {n : LegIx} {p : PosIx}

theorem bindTalk_leg : look (u.bindTalk n p).legs n = (look u.legs n).talks p := by
  rw [bindTalk_eq, echoBind_legs, posBind_legs, leaveFrom_legs, Units.onLeg_legs, look_upd_self]

theorem bindTalk_bare (q : PosIx) :
    (look (u.bindTalk n p).pos q).bare = (look (upd u.pos p fun x => x.boundTo n) q).bare := by
  rw [bindTalk_eq, (echoBind_keeps ..).pos, posBind_bare, (leaveFrom_keeps ..).pos]
  rfl

theorem bindTalk_media : u.toMedia.Keeps (u.bindTalk n p).toMedia := by
  rw [bindTalk_eq]
  exact ((leaveFrom_keeps (u.onLeg n fun l => l.talks p) n _).media.trans (posBind_media ..)).trans (echoBind_keeps ..).media

theorem bindTalk_pos_of_unpaired (h : ∀ x ∈ u.pairs, x.agent ≠ p) :
    (u.bindTalk n p).pos = upd u.pos p fun x => x.boundTo n := by
  have hk := leaveFrom_keeps (u.onLeg n fun l => l.talks p) n (look u.legs n).group
  rw [bindTalk_eq, (echoBind_keeps ..).pos, posBind_of_unpaired _ _ _ (by rw [hk.pairs]; exact h), Units.onPos_pos,
    hk.pos]
  rfl

theorem bindTalk_mark : (look (u.bindTalk n p).can n).reclaimed = false := by
  rw [bindTalk_eq]
  refine echoBind_mark ?_
  rw [posBind_legs, leaveFrom_legs, Units.onLeg_legs, look_upd_self]
  exact (by decide : LegState.talking ≠ .parked)

theorem bindTalk_left {g : GroupIx} (h : (look u.legs n).group = some g) :
    (look (u.bindTalk n p).groups g).members = (look u.groups g).members.filter (· ≠ n) := by
  rw [bindTalk_eq, echoBind_groups, posBind_groups, leaveFrom_members, if_pos h]
  rfl

end

/-- Settles O31: the leg leaves its group, the position and the canceller are told, and settling changes neither
record. -/
theorem bindWithoutCueTalks : Obligations.BindWithoutCueTalks := by
  unfold Obligations.BindWithoutCueTalks
  rintro s tag n p wait payload hs hw rfl
  refine ⟨fun hleg hpos => ?_, fun h => congrArg Host.Outcome.next ?_⟩
  · have hown : ownBind [byte n, byte p, 0xFF, byte wait] s.toUnits = (s.toUnits.bindTalk n p, .ok []) :=
      (ownBind_eq s.toUnits n p none hw).trans (by
        rw [if_neg (by rcases hleg with h | h <;> simp [h]), if_neg (not_not.mpr hpos)])
    have hset := settle_prompts (s.toUnits.bindTalk n p)
    have htalk := bindTalk_leg (u := s.toUnits) (n := n) (p := p)
    refine ⟨_, congrArg Host.Outcome.next (request_units hs (by simp) (by rfl) hown), rfl, ?_,
      eq_of_bare (y := (look s.pos p).boundTo n) ?_,
      fun h => ?_, ?_, fun hr g hg => ?_⟩
    · refine (hset.leg_of_not_awaits ?_).trans htalk
      rw [htalk]
      exact fun ha => nomatch (show LegState.talking = .connecting from ha.1)
    · rw [show (s.toUnits.bindTalk n p).settle.pos = _ from hset.pos, bindTalk_bare, look_upd_self]
    · exact hset.pos.trans (bindTalk_pos_of_unpaired h)
    · refine (hset.mark n ?_).trans bindTalk_mark
      rw [htalk]
      exact (by decide : LegState.talking ≠ .parked)
    · rw [show (s.toUnits.bindTalk n p).settle = _ from settle_of_keeps hs.2 hr bindTalk_media]
      exact bindTalk_left hg
  · refine request_refused hs (by simp) (by rfl) ((ownBind_eq s.toUnits n p none hw).trans ?_)
    split
    · rfl
    next hl =>
      rw [if_pos]
      rcases h with h | h | h
      · exact absurd (by simp [h]) hl
      · exact absurd (by simp [h]) hl
      · exact h

end Sys2Proof.Machine
end

section
/-! PROOFS. The connect timer and the park alarm of a leg. -/

namespace Sys2Proof.Machine

/-! ## Connect entries removed -/

/-- A whisper state without the entries that a test picks. -/
def Whisper.without (w : Whisper) (f : Entry → Bool) : Whisper :=
  { queue := w.queue.filter (!f ·), stack := w.stack.filter (!f ·)
    playing := if w.playing.isPrompt f then .none else w.playing }

section

variable (u : Units) (p : PosIx)

theorem stopPos_whisper : (u.stopPos p).whisper = u.whisper := rfl
theorem stopPos_legs : (u.stopPos p).legs = u.legs := rfl

theorem removeEntries_whisper (f : Entry → Bool) :
    (u.removeEntries p f).1.whisper = upd u.whisper p fun w => w.without f := by
  have h : (u.onWhisper p fun w =>
      { w with
        queue := w.queue.filter fun e => !f e
        stack := w.stack.filter fun e => !f e
        playing := if (look u.whisper p).playing.isPrompt f then .none else w.playing }).whisper =
      upd u.whisper p fun w => w.without f := by
    rw [Units.onWhisper_whisper, upd, upd]
    rfl
  unfold Units.removeEntries
  dsimp only
  split
  · exact (stopPos_whisper ..).trans h
  · exact h

theorem without_connect (w : Whisper) : (w.without Entry.connect).hasConnect = false := by
  have hfilter : ∀ l : List Entry, (l.filter (!Entry.connect ·)).any Entry.connect = false := fun l => by
    simp [List.any_filter]
  have hplay : (w.without Entry.connect).playing.isPrompt Entry.connect = false := by
    unfold Whisper.without
    dsimp only
    split
    · rfl
    next h => simpa using h
  unfold Whisper.hasConnect
  rw [hplay]
  simp only [Whisper.without, hfilter, Bool.or_false]

theorem removeConnect_hasConnect : (look (u.removeConnect p).whisper p).hasConnect = false := by
  have h : (look (u.removeEntries p Entry.connect).1.whisper p).hasConnect = false := by
    rw [removeEntries_whisper, look_upd_self]
    exact without_connect _
  unfold Units.removeConnect
  dsimp only
  split
  · exact Bool.eq_false_iff.mpr fun hc => Bool.eq_false_iff.mp h (((next_prompts _ p).whisper p).connect hc)
  · exact h

end

/-! ## Events -/

/-- What keeps the routes keeps each kind's. -/
theorem route_of_keeps {m t : Media} (h : m.Keeps t) (k : EventKind) : t.router.route k = m.router.route k := by
  unfold Router.route
  rw [h.routes]

/-- A cut-through that is notified is the last event taken, with the leg's owner (R31). -/
theorem cutThrough_last {u : Units} (n : LegIx) (cause : CutCause)
    (h : (u.router.route .cutThrough).notify = true) :
    (u.cutThrough n cause).router.overflow = true ∨
      (u.cutThrough n cause).router.notices.getLast? =
        some
          { kind := .cutThrough, subject := .leg n, stamp := u.router.stamp
            detail := detail2 cause.code (ixByte (look u.legs n).owner) } := by
  have hk := (leaveFrom_keeps (u.onLeg n Leg.cut) n (look u.legs n).group).media
  rw [cutThrough_eq]
  have hlast := record_last (.leg n) (detail2 cause.code (ixByte (look u.legs n).owner))
    ((congrArg Route.notify (route_of_keeps hk .cutThrough)).trans h)
  rw [hk.stamp] at hlast
  exact hlast

/-- With no cue route an event only enters its record. -/
theorem raise_of_noCue {m : Media} (h : ∀ k : Fin 24, (look m.router.routes k).cue = none) (k : EventKind)
    (x : Subject) (d : BitVec 16) (t : Option PosIx) :
    m.raise k x d t = { m with router := m.router.record k x d } := by
  rw [Media.raise, posting_nil _ _ _ (h k.index), List.append_nil]

/-! ## The connect timer -/

section

variable {u : Units} {n : LegIx} {p : PosIx}

/-- A cancelled connect leaves its position no connect entry. -/
theorem cancelConnect_hasConnect (hs : (look u.legs n).state = .connecting) (hb : (look u.legs n).bound = some p) :
    (look (u.cancelConnect n).whisper p).hasConnect = false := by
  unfold Units.cancelConnect
  simp only [hs, if_true, hb]
  exact removeConnect_hasConnect ..

theorem connectExpiry_of_due (hs : (look u.legs n).state = .connecting) (ht : (look u.legs n).timer = some 0) :
    u.connectExpiry n = (u.cancelConnect n).cutThrough n .timeout := if_pos ⟨hs, ht⟩

theorem connectExpiry_leg (hs : (look u.legs n).state = .connecting) (ht : (look u.legs n).timer = some 0)
    (hb : (look u.legs n).bound = some p) : look (u.connectExpiry n).legs n = (look u.legs n).cut := by
  rw [connectExpiry_of_due hs ht, cutThrough_legs, look_upd_self, (cancelConnect_bound hb).1]
  rfl

theorem connectExpiry_keeps : u.Keeps (u.connectExpiry n) := by
  unfold Units.connectExpiry
  dsimp only
  split
  · exact (cancelConnect_keeps u n).trans (cutThrough_keeps ..)
  · exact .refl

theorem connectExpiry_last (hs : (look u.legs n).state = .connecting) (ht : (look u.legs n).timer = some 0)
    (hb : (look u.legs n).bound = some p) (h : (u.router.route .cutThrough).notify = true) :
    (u.connectExpiry n).router.overflow = true ∨
      (u.connectExpiry n).router.notices.getLast? =
        some
          { kind := .cutThrough, subject := .leg n, stamp := u.router.stamp
            detail := detail2 2 (ixByte (look u.legs n).owner) } := by
  have hk := (cancelConnect_keeps u n).media
  have hlast := cutThrough_last n .timeout ((congrArg Route.notify (route_of_keeps hk .cutThrough)).trans h)
  rw [(cancelConnect_bound hb).1, hk.stamp] at hlast
  rw [connectExpiry_of_due hs ht]
  exact hlast

end

/-! ## The park alarm -/

theorem alarmDue_eq (u : Units) {n : LegIx} {g : GroupIx} {t : BitVec 32} (hg : (look u.legs n).group = some g)
    (ht : (look u.legs n).parkTime = some t) (hs : (look u.legs n).state = .parked)
    (hf : (look u.legs n).fired = false) :
    u.alarmDue n = true ↔
      0 < (look u.groups g).alarm ∧ 1000 * (look u.groups g).alarm ≤ (u.router.stamp - t).toNat := by
  unfold Units.alarmDue
  simp only [hg, ht, hs, hf, decide_true, Bool.not_false, Bool.true_and, Bool.and_eq_true, decide_eq_true_eq]
  rfl

theorem not_alarmDue {u : Units} {n : LegIx} (h : (look u.legs n).state ≠ .parked ∨ (look u.legs n).fired = true) :
    u.alarmDue n = false := by
  unfold Units.alarmDue
  dsimp only
  split
  · rcases h with h | h <;> simp [h]
  · rfl

theorem parkAlarm_of_not_due {u : Units} {n : LegIx} (h : ¬ u.alarmDue n = true) : u.parkAlarm n = u := if_neg h

/-- A command whose event the state does not hold leaves it as it was (log 3). -/
theorem settled_onUnits_of_eq {s : State} {f : Units → Units} (hs : s.postings = []) (h : f s.toUnits = s.toUnits) :
    (s.onUnits f).settled = s := by
  have hself : s.onUnits f = s := by
    rw [State.onUnits, h]
  rw [hself, settled_of_none hs]

/-- A park alarm due (R35). -/
theorem parkAlarm_of_due {u : Units} {n : LegIx} (h : u.alarmDue n = true) :
    u.parkAlarm n = (u.onLeg n fun l => { l with fired := true }).raise .parkAlarm (.leg n)
      (detail2 (ixByte (look u.legs n).owner) (ixByte (look u.legs n).group)) (look u.legs n).target := if_pos h

/-- Settles O34: the connect is cancelled, the leg cuts through, and nothing that settles touches it again; an alarm
that is due is one event. -/
theorem legTimersExpire : Obligations.LegTimersExpire := by
  unfold Obligations.LegTimersExpire
  intro s n hb hs
  refine ⟨fun h => ?_, fun hl ht => ?_, fun h => ?_, fun g t0 hl hf hg ht => ?_⟩
  · exact congrArg Host.Outcome.next (settled_onUnits_of_eq hs (if_neg h))
  · obtain ⟨p, hp⟩ := bound_of_inCall hb (n := n) (by simp [Leg.inCall, hl])
    have hleg := connectExpiry_leg hl ht hp
    have hset := settle_prompts (s.toUnits.connectExpiry n)
    have hkeeps := connectExpiry_keeps (u := s.toUnits) (n := n)
    refine ⟨_, rfl, ?_, hset.pos.trans hkeeps.pos, fun q hq => ⟨?_, fun hr hn => ?_⟩⟩
    · exact (hset.leg_of_not_awaits (by rw [hleg]; exact cut_not_awaits _)).trans hleg
    · have hno : (look (s.toUnits.connectExpiry n).whisper q).hasConnect = false := by
        rw [connectExpiry_of_due hl ht, cutThrough_whisper]
        exact cancelConnect_hasConnect hl hq
      exact Bool.eq_false_iff.mpr fun hc => Bool.eq_false_iff.mp hno ((hset.whisper q).connect hc)
    · have hsame : (s.toUnits.connectExpiry n).settle = s.toUnits.connectExpiry n :=
        settle_of_keeps hs hr hkeeps.media
      show (s.toUnits.connectExpiry n).settle.router.overflow = true ∨
        (s.toUnits.connectExpiry n).settle.router.notices.getLast? = _
      rw [hsame]
      exact connectExpiry_last hl ht hq hn
  · exact congrArg Host.Outcome.next
      (settled_onUnits_of_eq hs (parkAlarm_of_not_due (by rw [not_alarmDue h]; exact Bool.false_ne_true)))
  · have hdue := alarmDue_eq s.toUnits hg ht hl hf
    split
    next h =>
      have heq := parkAlarm_of_due (hdue.mpr h)
      have hset := settle_prompts (s.toUnits.parkAlarm n)
      have hleg : look (s.toUnits.parkAlarm n).legs n = { look s.legs n with fired := true } := by
        rw [heq, Units.raise_legs, Units.onLeg_legs, look_upd_self]
      refine ⟨_, rfl, ?_, fun hr => ?_⟩
      · have hsame := hset.leg_of_not_awaits (n := n) (by
          rw [hleg]
          exact fun ha => nomatch hl.symm.trans ha.1)
        exact congrArg Leg.fired (hsame.trans hleg)
      · have hunits : s.toUnits.parkAlarm n =
            { s.toUnits with
              legs := upd s.legs n fun l => { l with fired := true }
              router := s.router.record .parkAlarm (.leg n) (detail2 (ixByte (look s.legs n).owner) (byte g)) } := by
          rw [heq, Units.raise, Units.onMedia, hg]
          exact congrArg (fun m : Media => ({ s.toUnits with
            toMedia := m, legs := upd s.legs n fun l => { l with fired := true } } : Units))
            (raise_of_noCue (m := s.toMedia) hr ..)
        rw [State.settled, State.onUnits, State.onUnits, hunits]
        exact congrArg (fun v : Units => ({ s with toUnits := v } : State)) (Units.settle_of_none _ hs)
    next h => exact congrArg Host.Outcome.next (settled_onUnits_of_eq hs (parkAlarm_of_not_due (mt hdue.mp h)))

end Sys2Proof.Machine
end

section
/-! PROOFS. PARK and RELS, and what they leave of a call. -/

namespace Sys2Proof.Machine

/-! ## A connect cancelled -/

section

variable (u : Units) (n : LegIx) (p : PosIx)

theorem cancelConnect_leg : look (u.cancelConnect n).legs n = (look u.legs n).cancelled := by
  cases hb : (look u.legs n).bound with
  | some p => exact (cancelConnect_bound hb).1
  | none =>
    unfold Units.cancelConnect
    dsimp only
    by_cases hs : (look u.legs n).state = .connecting
    · rw [if_pos hs, hb, Units.onLeg_legs, look_upd_self, Leg.cancelled, if_pos hs, if_pos hs]
    · rw [if_neg hs, Leg.cancelled, if_neg hs, if_neg hs]

theorem cancelConnect_tail (m : LegIx) : (look (u.cancelConnect n).can m).tail = (look u.can m).tail := by
  obtain ⟨v, hv, h⟩ := cancelConnect_prompts_of u n
  refine (h.tail m).trans ?_
  rcases hv with rfl | rfl <;> rfl

theorem removeConnect_of_coach {u : Units} {p : PosIx} (h : (look u.whisper p).playing = .coach) :
    look (u.removeConnect p).whisper p = (look u.whisper p).without Entry.connect := by
  have hplay : (u.removeEntries p Entry.connect).2.2.2 = false := by
    unfold Units.removeEntries
    dsimp only
    rw [h]
    rfl
  unfold Units.removeConnect
  dsimp only
  rw [hplay, if_neg Bool.false_ne_true, removeEntries_whisper, look_upd_self]

/-- The coach keeps the playing place when a connect is cancelled behind it. -/
theorem cancelConnect_of_coach {u : Units} {n : LegIx} {p : PosIx} (hb : (look u.legs n).bound = some p)
    (h : (look u.whisper p).playing = .coach) :
    look (u.cancelConnect n).whisper p = look u.whisper p ∨
      look (u.cancelConnect n).whisper p = (look u.whisper p).without Entry.connect := by
  unfold Units.cancelConnect
  simp only [hb]
  split
  · exact .inr (removeConnect_of_coach (u := u.onLeg n fun l => { l with timer := none, connectRef := false }) h)
  · exact .inl rfl

/-! ## The coach leaves -/

theorem dropCoach_not_coach : (look (u.dropCoach p).whisper p).playing ≠ .coach := by
  unfold Units.dropCoach
  split
  · intro hc
    have hnext := ((next_prompts (u.onWhisper p fun w => { w with playing := .none }) p).whisper p).coach hc
    rw [Units.onWhisper_whisper, look_upd_self] at hnext
    cases hnext
  next h => rw [h]; exact nofun
  next h => rw [h]; exact nofun

theorem dropCoach_of_coach {u : Units} {p : PosIx} (h : (look u.whisper p).playing = .coach) :
    u.dropCoach p = (u.onWhisper p fun w => { w with playing := .none }).next p := by
  unfold Units.dropCoach
  rw [h]

/-- With nothing waiting and nothing stacked, nothing follows the coach. -/
theorem next_of_empty {u : Units} {p : PosIx} (hq : (look u.whisper p).queue = [])
    (hs : (look u.whisper p).stack = []) : u.next p = u := by
  unfold Units.next
  dsimp only
  split
  · unfold Units.nextLoop
    simp only [hq, hs]
  · rfl
  · rfl

/-- With nothing waiting, the one stacked entry that holds the cursor resumes. -/
theorem next_of_held {u : Units} {p : PosIx} {e : Entry} (hp : (look u.whisper p).playing = .none)
    (hq : (look u.whisper p).queue = []) (hs : (look u.whisper p).stack = [e]) (he : e.holdsCursor = true) :
    look (u.next p).whisper p =
      { queue := [], playing := .prompt { e with holdsCursor := false }, stack := [] } := by
  have hno : u.preemptor p e.level = none := by
    unfold Units.preemptor
    rw [hq]
  unfold Units.next
  simp only [hp]
  unfold Units.nextLoop
  simp only [hs, hno, he, if_true, Units.onMedia_whisper, Units.onWhisper_whisper, upd_upd, look_upd_self, hq]

end

/-! ## Pairs -/

/-- What later operations that neither touch positions nor pairs, nor bring a coach back, leave of a suspended
pair. -/
theorem pairSuspended_of {s v t : State} {p : PosIx} (h : s.pairSuspended v p) (hpairs : t.pairs = v.pairs)
    (hpos : t.pos = v.pos) (hw : (look t.whisper p).playing = .coach → (look v.whisper p).playing = .coach)
    (heq : s.noCueRoutes → look t.whisper p = look v.whisper p) : s.pairSuspended t p := by
  intro x w hx ha hwp
  obtain ⟨h1, h2, h3, h4⟩ := h x w hx ha hwp
  refine ⟨hpairs.trans h1, by rw [hpos]; exact h2, fun hn => by rw [hpos]; exact h3 hn, fun hc => ?_⟩
  obtain ⟨h5, h6⟩ := h4 hc
  refine ⟨mt hw h5, fun hr => ?_⟩
  rw [heq hr]
  exact h6 hr

section

variable {w : Units} {n : LegIx} {p : PosIx}

theorem posUnbind_of_active {x : Pair} (hx : w.pairOfAgent p = some x) (ha : x.active = true) :
    w.posUnbind p = ((w.onPos p Position.unbound).markPair x false).dropCoach p := by
  unfold Units.posUnbind Units.suspendPair
  rw [show (w.onPos p fun pos => { pos with bound := none, state := .idle }).pairOfAgent p = some x from hx]
  dsimp only
  rw [if_pos ha]
  rfl

theorem markPair_links (u : Units) (x : Pair) (active : Bool) :
    (look (u.markPair x active).pos x.agent).coach =
        some { partner := x.supervisor, side := .agent, active := active } ∧
      (x.supervisor ≠ x.agent → look (u.markPair x active).pos x.supervisor =
        { look u.pos x.supervisor with
          coach := some { partner := x.agent, side := .supervisor, active := active } }) := by
  refine ⟨?_, fun h => ?_⟩
  · simp only [Units.markPair, Units.setLinks, Units.onPos_pos, look_upd_self]
  · simp only [Units.markPair, Units.setLinks, Units.onPos_pos, look_upd_of_ne _ (Ne.symm h), look_upd_self]

/-- A position left by its leg: an active pair of which it is the agent is pending again, and the coach is gone
(R129). -/
theorem posUnbind_suspends {s : State} (hpairs : w.pairs = s.pairs) (hpos : w.pos = s.pos)
    (hw : (look s.whisper p).playing = .coach → look w.whisper p = look s.whisper p ∨
      look w.whisper p = (look s.whisper p).without Entry.connect) :
    s.pairSuspended { s with toUnits := w.posUnbind p } p := by
  rintro x _ hx ha rfl
  have hagent : x.agent = p := by simpa using List.find?_some hx
  subst hagent
  let v := (w.onPos x.agent Position.unbound).markPair x false
  have hv : w.posUnbind x.agent = v.dropCoach x.agent :=
    posUnbind_of_active (by rw [Units.pairOfAgent, hpairs]; exact hx) ha
  have hk : v.Keeps (v.dropCoach x.agent) := dropCoach_keeps ..
  obtain ⟨hl, hsup⟩ := markPair_links (w.onPos x.agent Position.unbound) x false
  refine ⟨?_, ?_, fun hne => ?_, fun hc => ⟨?_, fun _ hq => ?_⟩⟩
  · show (w.posUnbind x.agent).pairs = _
    rw [hv, hk.pairs, ← hpairs]
    rfl
  · show (look (w.posUnbind x.agent).pos x.agent).coach = _
    rw [hv, hk.pos]
    exact hl
  · show look (w.posUnbind x.agent).pos x.supervisor = _
    rw [hv, hk.pos]
    refine (hsup hne).trans ?_
    rw [Units.onPos_pos, look_upd_of_ne _ (Ne.symm hne), hpos]
  · show (look (w.posUnbind x.agent).whisper x.agent).playing ≠ _
    rw [hv]
    exact dropCoach_not_coach v x.agent
  · show (_ → look (w.posUnbind x.agent).whisper x.agent = _) ∧
      ∀ e, _ → _ → _ → look (w.posUnbind x.agent).whisper x.agent = _
    have hplay : (look v.whisper x.agent).playing = .coach := by
      show (look w.whisper x.agent).playing = .coach
      rcases hw hc with h | h <;> rw [h]
      · exact hc
      · simp [Whisper.without, hc, Playing.isPrompt]
    have hqueue : (look w.whisper x.agent).queue = [] := by
      rcases hw hc with h | h <;> rw [h]
      · exact hq
      · simp [Whisper.without, hq]
    rw [hv, dropCoach_of_coach hplay]
    have hset : look (v.onWhisper x.agent fun y => { y with playing := .none }).whisper x.agent =
        { look w.whisper x.agent with playing := .none } := look_upd_self ..
    refine ⟨fun hs => ?_, fun e hs he hh => next_of_held (e := e) ?_ ?_ ?_ hh⟩
    · have hstack : (look w.whisper x.agent).stack = [] := by
        rcases hw hc with h | h <;> rw [h]
        · exact hs
        · simp [Whisper.without, hs]
      rw [next_of_empty (by rw [hset]; exact hqueue) (by rw [hset]; exact hstack), hset]
      simp only [hqueue, hstack]
    · rw [hset]
    · rw [hset]; exact hqueue
    · rw [hset]
      rcases hw hc with h | h <;> rw [h]
      · exact hs
      · simp [Whisper.without, hs, he]

theorem posUnbind_bare (q : PosIx) :
    (look (w.posUnbind p).pos q).bare = (look (upd w.pos p Position.unbound) q).bare := by
  show (look ((w.onPos p Position.unbound).suspendPair p).pos q).bare = _
  unfold Units.suspendPair
  split
  · split
    · rw [(dropCoach_keeps ..).pos, markPair_bare]
      rfl
    · rfl
  · rfl

theorem pended_toMedia (u : Units) (p : PosIx) : (u.pended p).toMedia = u.toMedia := by
  unfold Units.pended
  split
  · split <;> rfl
  · rfl

theorem posUnbind_media (w : Units) (p : PosIx) : w.toMedia.Keeps (w.posUnbind p).toMedia := by
  show w.toMedia.Keeps ((w.onPos p Position.unbound).suspendPair p).toMedia
  unfold Units.suspendPair
  split
  · split
    · exact (dropCoach_keeps ((w.onPos p Position.unbound).markPair _ false) p).media
    · exact .rfl'
  · exact .rfl'

theorem unbindFrom_media (w : Units) (o : Option PosIx) : w.toMedia.Keeps (w.unbindFrom o).toMedia := by
  cases o with
  | none => exact .rfl'
  | some p => exact posUnbind_media w p

theorem unbindFrom_tail (w : Units) (o : Option PosIx) (m : LegIx) :
    (look (w.unbindFrom o).can m).tail = (look w.can m).tail := by
  cases o with
  | none => rfl
  | some p =>
    refine ((suspendPair_prompts (w.onPos p Position.unbound) p).tail m).trans ?_
    rw [pended_toMedia]
    rfl

end

end Sys2Proof.Machine
end

section
/-! PROOFS. PARK and RELS: the leg, its group, its canceller, and the position it leaves. -/

namespace Sys2Proof.Machine

/-! ## A position left by its leg -/

/-- What an operation that ends a leg's call leaves of positions and pairs: the position of the leg is IDLE and
unbound, an active pair of which it is the agent is suspended, and nothing else changes there. -/
structure State.Parts (s : State) (n : LegIx) (v : Units) : Prop where
  bare : ∀ q, (look v.pos q).bare =
    (if (look s.legs n).bound = some q then (look s.pos q).unbound else look s.pos q).bare
  media : s.toMedia.Keeps v.toMedia
  suspended : ∀ p, (look s.legs n).bound = some p → s.pairSuspended { s with toUnits := v } p

namespace State.Parts

variable {s : State} {n : LegIx} {v t : Units}

theorem of_unbound (h : (look s.legs n).bound = none) (hk : s.toUnits.Keeps t) : s.Parts n t where
  bare q := by
    rw [h, if_neg nofun, hk.pos]
  media := hk.media
  suspended p hp := by
    rw [h] at hp
    cases hp

theorem after (h : s.Parts n v) (hk : v.Keeps t) (hw : t.whisper = v.whisper) : s.Parts n t where
  bare q := by
    rw [hk.pos]
    exact h.bare q
  media := h.media.trans hk.media
  suspended p hp := pairSuspended_of (h.suspended p hp) hk.pairs hk.pos
    (fun hc => by rw [← show t.whisper = v.whisper from hw]; exact hc) fun _ => congrArg (look · p) hw

theorem position (h : s.Parts n v) (p : PosIx) :
    look v.settle.pos p =
      if (look s.legs n).bound = some p then
        { look s.pos p with state := .idle, bound := none, coach := (look v.settle.pos p).coach }
      else { look s.pos p with coach := (look v.settle.pos p).coach } := by
  have hb : (look v.settle.pos p).bare =
      (if (look s.legs n).bound = some p then (look s.pos p).unbound else look s.pos p).bare := by
    rw [settle_pos]
    exact h.bare p
  split
  next hp =>
    rw [if_pos hp] at hb
    exact eq_of_bare hb
  next hp =>
    rw [if_neg hp] at hb
    exact eq_of_bare hb

theorem settled_suspended (h : s.Parts n v) (hs : s.postings = []) {p : PosIx} (hp : (look s.legs n).bound = some p)
    (l : Link) : s.pairSuspended { s with toUnits := v.settle, link := l } p := by
  have hset := settle_prompts v
  refine pairSuspended_of (h.suspended p hp) hset.pairs hset.pos (hset.whisper p).coach fun hr => ?_
  exact congrArg (fun u : Units => look u.whisper p) (settle_of_keeps hs hr h.media)

end State.Parts

section

variable (s : State) (n : LegIx)

theorem cancelConnect_bound_eq (u : Units) : (look (u.cancelConnect n).legs n).bound = (look u.legs n).bound :=
  (congrArg Leg.bound (cancelConnect_leg u n)).trans rfl

/-- A leg whose connect is cancelled leaves its position, if it has one. -/
theorem unbindFrom_parts (f : Leg → Leg) :
    s.Parts n (((s.toUnits.cancelConnect n).onLeg n f).unbindFrom (look s.legs n).bound) := by
  have hk : s.toUnits.Keeps ((s.toUnits.cancelConnect n).onLeg n f) :=
    (cancelConnect_keeps ..).trans (units_onLeg_keeps ..)
  cases hb : (look s.legs n).bound with
  | none => exact .of_unbound hb hk
  | some p =>
    refine ⟨fun q => ?_, hk.media.trans (posUnbind_media ..), fun r hr => ?_⟩
    · refine (posUnbind_bare q).trans ?_
      rw [hk.pos, look_upd, hb]
      by_cases hq : p = q
      · subst hq
        rw [if_pos rfl, if_pos rfl]
      · rw [if_neg hq, if_neg (by simpa using hq)]
    · cases hb.symm.trans hr
      exact posUnbind_suspends hk.pairs hk.pos fun hc =>
        cancelConnect_of_coach (u := s.toUnits) hb hc

end

/-! ## PARK -/

section

variable {u : Units} {n : LegIx} {g : GroupIx}

/-- A leg as PARK leaves it (R22). -/
def Leg.parks (l : Leg) (g : GroupIx) (stamp : BitVec 32) : Leg :=
  { l.cancelled.standing g stamp with state := .parked, bound := none }

theorem cancelled_of_not_inCall {l : Leg} (h : l.inCall = false) : l.cancelled = l := by
  have hs : l.state ≠ .connecting := fun e => by simp [Leg.inCall, e] at h
  rw [Leg.cancelled, if_neg hs, if_neg hs]

theorem park_of_resting (hs : (look u.legs n).inCall = false) :
    u.park n g = (u.onLeg n fun l => { l with state := .parked }).standIn n g := by
  rcases (not_inCall_iff _).mp hs with hf | hf
  · exact park_of_free hf
  · have hself : (u.onLeg n fun l => { l with state := .parked }) = u := by
      rw [Units.onLeg, upd_id _ _ _ (by rw [← hf])]
    rw [park_of_parked hf, hself]

/-- A leg in a call leaves its position before it stands in the group (R24). -/
theorem park_of_calling (hs : (look u.legs n).inCall = true) :
    u.park n g =
      (((((u.cancelConnect n).onLeg n fun l => { l with bound := none }).unbindFrom
        (look u.legs n).bound).standIn n g).onLeg n fun l => { l with state := .parked }).echoPark n := by
  rw [park_of_inCall hs, Units.standPast, cancelConnect_bound_eq]

/-- The record of a leg that has left its position with its connect cancelled. -/
theorem parted_leg (u : Units) (n : LegIx) (o : Option PosIx) :
    look (((u.cancelConnect n).onLeg n fun l => { l with bound := none }).unbindFrom o).legs n =
      { (look u.legs n).cancelled with bound := none } := by
  have hl : look ((u.cancelConnect n).onLeg n fun l => { l with bound := none }).legs n =
      { (look u.legs n).cancelled with bound := none } := by
    rw [Units.onLeg_legs, look_upd_self, cancelConnect_leg]
  exact (unbindFrom_leg _ o (by rw [hl]; exact cancelled_not_awaits (look u.legs n))).trans hl

theorem park_leg (hb : (look u.legs n).inCall = false → (look u.legs n).bound = none) :
    look (u.park n g).legs n = (look u.legs n).parks g u.router.stamp := by
  cases hs : (look u.legs n).inCall
  case false =>
    rw [park_of_resting hs, standIn_legs, look_upd_self, Units.onLeg_legs, look_upd_self, Leg.parks,
      cancelled_of_not_inCall hs]
    simp only [Leg.standing, hb hs]
    rfl
  case true =>
    have hstamp : (((u.cancelConnect n).onLeg n fun l => { l with bound := none }).unbindFrom
        (look u.legs n).bound).router.stamp = u.router.stamp :=
      ((cancelConnect_keeps u n).media.trans
        (unbindFrom_media ((u.cancelConnect n).onLeg n fun l => { l with bound := none }) _)).stamp
    rw [park_of_calling hs, Units.echoPark, Units.onMedia_legs, Units.onLeg_legs, look_upd_self, standIn_legs,
      look_upd_self, parted_leg, hstamp]
    rfl

theorem park_parts (s : State) (n : LegIx) (g : GroupIx)
    (hb : (look s.legs n).inCall = false → (look s.legs n).bound = none) : s.Parts n (s.toUnits.park n g) := by
  cases hs : (look s.legs n).inCall
  case false =>
    rw [park_of_resting hs]
    exact .of_unbound (hb hs) ((units_onLeg_keeps s.toUnits n _).trans (standIn_keeps ..))
  case true =>
    rw [park_of_calling hs]
    refine (unbindFrom_parts s n fun l => { l with bound := none }).after ?_ ?_
    · exact ((standIn_keeps ..).trans (units_onLeg_keeps ..)).trans (echoPark_keeps ..)
    · exact standIn_whisper ..

theorem park_tail : (look (u.park n g).groups g).members.getLast? = some n := by
  cases hs : (look u.legs n).inCall
  case false =>
    rw [park_of_resting hs]
    exact standIn_tail ..
  case true =>
    rw [park_of_calling hs]
    exact standIn_tail ..

theorem standIn_left {v : Units} {o : GroupIx} (h : (look v.legs n).group = some o) (ho : o ≠ g) :
    n ∉ (look (v.standIn n g).groups o).members := by
  unfold Units.standIn Units.moveTo
  simp only [h, ho, if_false, join_members_eq, Ne.symm ho, List.append_nil, leave_members, if_true]
  simp

theorem park_left {o : GroupIx} (h : (look u.legs n).group = some o) (ho : o ≠ g) :
    n ∉ (look (u.park n g).groups o).members := by
  cases hs : (look u.legs n).inCall
  case false =>
    rw [park_of_resting hs]
    exact standIn_left (by rw [Units.onLeg_legs, look_upd_self]; exact h) ho
  case true =>
    rw [park_of_calling hs]
    exact standIn_left (by rw [parted_leg]; exact h) ho

end

/-! ## RELS -/

section

variable {u : Units} {n : LegIx}

/-- A leg as RELS leaves it (R33). -/
def Leg.released (l : Leg) : Leg :=
  { l.cancelled with
    state := .free, bound := none, owner := none, group := none, parkTime := none, fired := false }

theorem released_leg (u : Units) (n : LegIx) :
    look ((u.cancelConnect n).freed n).legs n = { (look u.legs n).cancelled with state := .free, bound := none } := by
  rw [freed_leg, cancelConnect_leg]

theorem rels_leg : look (u.rels n).legs n = (look u.legs n).released := by
  rw [rels_eq, Units.echoRelease, Units.onMedia_legs, ungrouped_leg, released_leg]
  rfl

theorem ungrouped_keeps (u : Units) (n : LegIx) (o : Option GroupIx) : u.Keeps (u.ungrouped n o) :=
  ((units_onLeg_keeps u n fun l => { l with group := none, parkTime := none, fired := false }).trans
    (leaveFrom_keeps ..)).trans (units_onLeg_keeps ..)

theorem echoRelease_keeps (u : Units) (n : LegIx) : u.Keeps (u.echoRelease n) :=
  units_onMedia_keeps _ _ (((onPool_keeps _ _ rfl).trans (onCan_keeps ..)).trans (pass_keeps ..))

theorem rels_parts (s : State) (n : LegIx) : s.Parts n (s.toUnits.rels n) := by
  have hfreed : s.Parts n ((s.toUnits.cancelConnect n).freed n) := by
    rw [Units.freed, cancelConnect_bound_eq]
    exact unbindFrom_parts ..
  rw [rels_eq]
  refine hfreed.after ((ungrouped_keeps ..).trans (echoRelease_keeps ..)) ?_
  exact leaveFrom_whisper ..

theorem rels_left {g : GroupIx} (h : (look u.legs n).group = some g) :
    n ∉ (look (u.rels n).groups g).members := by
  have hg : (look (u.cancelConnect n).legs n).group = some g := by
    rw [cancelConnect_leg]
    exact h
  rw [rels_eq]
  show n ∉ (look (((u.cancelConnect n).freed n).ungrouped n
    (look (u.cancelConnect n).legs n).group).groups g).members
  rw [Units.ungrouped, Units.onLeg_groups, leaveFrom_members, if_pos hg]
  simp

/-- A canceller released: reset values but for its tail, and waiting for nothing (R49). -/
theorem echoRelease_can (u : Units) (n : LegIx) :
    look (u.echoRelease n).can n = { Canceller.reset with tail := (look u.can n).tail } ∧
      (u.echoRelease n).pool.waits (.leg n) = false := by
  let m := (u.onPool fun p => (p.mark ((look u.can n).held.map HeldSeg.num) .free).remove (.leg n)).onCan n
    fun _ => { Canceller.reset with tail := (look u.can n).tail }
  have hcan : look m.can n = { Canceller.reset with tail := (look u.can n).tail } := look_upd_self ..
  obtain ⟨h1, h2⟩ := (pass_plays u.legs m).idle n (by simp [m]) (by rw [hcan]; rfl)
  exact ⟨h1.trans hcan, h2⟩

theorem rels_can :
    look (u.rels n).can n = { Canceller.reset with tail := (look u.can n).tail } ∧
      (u.rels n).pool.waits (.leg n) = false := by
  have htail : (look (((u.cancelConnect n).freed n).ungrouped n (look (u.cancelConnect n).legs n).group).can n).tail =
      (look u.can n).tail :=
    ((leaveFrom_plays (((u.cancelConnect n).freed n).onLeg n
      fun l => { l with group := none, parkTime := none, fired := false }) n _).tail n).trans
      ((unbindFrom_tail _ _ n).trans (cancelConnect_tail u n n))
  rw [rels_eq, ← htail]
  exact echoRelease_can ..

end

/-- Settles O33: a leg in a call first leaves its position, whose pair is suspended, then stands in its group or is
released; what settles later finds it waiting for no report. -/
theorem parkAndRelsEndCall : Obligations.ParkAndRelsEndCall := by
  unfold Obligations.ParkAndRelsEndCall
  refine ⟨fun s tag n g hs hb => ?_, fun s tag n hs hb => ⟨fun hf => congrArg Host.Outcome.next ?_, fun hf => ?_⟩⟩
  · have hown : ownPark [byte n, byte g] s.toUnits = (s.toUnits.park n g, .ok []) := by
      simp only [ownPark, readLeg_byte, readGroup_byte]
    have hleg := park_leg (n := n) (g := g) fun h => (unbound_of_not_inCall hb h).1
    have hparts := park_parts s n g fun h => (unbound_of_not_inCall hb h).1
    have hwait : ¬ (look (s.toUnits.park n g).legs n).awaits := by
      rw [hleg]
      exact fun ha => nomatch (show LegState.parked = .connecting from ha.1)
    have hset := settle_prompts (s.toUnits.park n g)
    refine ⟨_, congrArg Host.Outcome.next (request_units hs (by simp) (by rfl) hown), rfl, ?_, ?_, fun o ho hne => ?_,
      hparts.position, fun p hp => hparts.settled_suspended hs.2 hp _⟩
    · exact (hset.leg_of_not_awaits hwait).trans hleg
    · exact (settle_acts _).2.2 n hwait g park_tail
    · exact mt (hset.sub o n) (park_left ho hne)
  · refine request_refused hs (by simp) (by rfl) ?_
    simp only [ownRels, readLeg_byte, hf, if_true]
  · have hown : ownRels [byte n] s.toUnits = (s.toUnits.rels n, .ok []) := by
      simp only [ownRels, readLeg_byte, hf, if_false]
    have hleg := rels_leg (u := s.toUnits) (n := n)
    have hparts := rels_parts s n
    have hwait : ¬ (look (s.toUnits.rels n).legs n).awaits := by
      rw [hleg]
      exact fun ha => nomatch (show LegState.free = .connecting from ha.1)
    have hset := settle_prompts (s.toUnits.rels n)
    obtain ⟨hcan, hwaits⟩ := rels_can (u := s.toUnits) (n := n)
    obtain ⟨hidle, hquiet⟩ := hset.idle n hwait hwaits (by rw [hcan]; rfl)
    refine ⟨_, congrArg Host.Outcome.next (request_units hs (by simp) (by rfl) hown), rfl, ?_, hidle.trans hcan,
      hquiet, fun g hg => mt (hset.sub g n) (rels_left hg), hparts.position,
      fun p hp => hparts.settled_suspended hs.2 hp _⟩
    exact (hset.leg_of_not_awaits hwait).trans hleg

end Sys2Proof.Machine
end

section
/-! PROOFS. BIND with a cue: the leg connects behind its connect prompt. -/

namespace Sys2Proof.Machine

/-! ## What hold groups leave of position cursors -/

theorem posCursor_ne_groupCursor (p : PosIx) (g : GroupIx) : posCursor p ≠ groupCursor g := fun h => by
  have := congrArg Fin.val h
  simp only [posCursor, groupCursor] at this
  omega

/-- Clips stay as cursors know them, and STOPPED position cursors stay so. -/
structure Media.Spares (m t : Media) : Prop where
  clips : ∀ id, t.store.info id = m.store.info id
  stopped : ∀ p, (look m.cursors (posCursor p)).state = .stopped → (look t.cursors (posCursor p)).state = .stopped

theorem Media.Spares.refl {m : Media} : m.Spares m := ⟨fun _ => rfl, fun _ => id⟩

theorem Media.Spares.trans {m t v : Media} (h : m.Spares t) (k : t.Spares v) : m.Spares v :=
  ⟨fun id => (k.clips id).trans (h.clips id), fun p hp => k.stopped p (h.stopped p hp)⟩

theorem Media.Plays.spares {legs : Vector Leg 64} {o : Option GroupIx} {m t : Media}
    (h : m.Plays legs (o.map groupCursor) t) : m.Spares t where
  clips := h.clips
  stopped p := h.stopped _ (by
    cases o with
    | none => exact nofun
    | some g => simpa using posCursor_ne_groupCursor p g)

theorem leave_spares (u : Units) (g : GroupIx) (n : LegIx) : u.toMedia.Spares (u.leave g n).toMedia :=
  Media.Plays.spares (o := some g) (leave_plays u g n)

theorem join_spares (u : Units) (g : GroupIx) (n : LegIx) : u.toMedia.Spares (u.join g n).toMedia :=
  Media.Plays.spares (o := some g)
    (startTest_plays (u.onGroup g fun gr => { gr with members := gr.members ++ [n] }) g)

theorem standIn_spares (u : Units) (n : LegIx) (g : GroupIx) : u.toMedia.Spares (u.standIn n g).toMedia := by
  show u.toMedia.Spares ((u.onLeg n fun l => l.standing g u.router.stamp).moveTo (look u.legs n).group g n).toMedia
  unfold Units.moveTo
  split
  · exact join_spares (u.onLeg n fun l => l.standing g u.router.stamp) g n
  · split
    · exact .refl
    · exact (leave_spares (u.onLeg n fun l => l.standing g u.router.stamp) _ n).trans (join_spares ..)

theorem valid_of_info {st st' : Store} {id : ClipIx} (h : st'.info id = st.info id) : st'.valid id ↔ st.valid id := by
  rw [← grants_iff, ← grants_iff, grants_of_info h]

theorem admits_of_info {st st' : Store} (h : ∀ id, st'.info id = st.info id) {it : Item} (hi : st.admits it) :
    st'.admits it := fun id gain he => (valid_of_info (h id)).mpr (hi id gain he)

/-- The first item of a list a cursor can enter is one it is admitted to. -/
theorem admits_of_canEnter {s : State} {items : List Item} {it : Item} (h : s.canEnter items)
    (hi : items[0]? = some it) : s.store.admits it := by
  rintro id gain rfl
  cases items with
  | nil => cases hi
  | cons x rest =>
    cases Option.some.inj hi
    rcases h with h | ⟨id', gain', rest', h, hv⟩
    · exact absurd rfl (h id gain rest)
    · cases h
      exact hv

/-! ## An entry placed at a position with nothing to play -/

theorem enqueue_nil (e : Entry) : enqueue [] e = [e] := by
  simp [enqueue]

section

variable {u : Units} {n : LegIx} {p : PosIx}

/-- The first entry of a position starts at once (R116). -/
theorem place_first {e : Entry} (hw : look u.whisper p = { queue := [], playing := .none, stack := [] })
    (hc : (u.toMedia.startCursor u.legs (posCursor p) e.cue e.saved).2 = false) :
    (u.place p e).toMedia = (u.toMedia.startCursor u.legs (posCursor p) e.cue e.saved).1 ∧
      look (u.place p e).whisper p =
        { queue := [], playing := .prompt { e with saved := none, holdsCursor := false }, stack := [] } := by
  let v := (u.onWhisper p fun w => { w with queue := enqueue w.queue e }).onWhisper p fun w => { w with queue := [] }
  have hq : look (u.onWhisper p fun w => { w with queue := enqueue w.queue e }).whisper p =
      { queue := [e], playing := .none, stack := [] } := by
    rw [Units.onWhisper_whisper, look_upd_self, hw, enqueue_nil]
  have hplace : u.place p e = (v.startEntry p e).1 := by
    unfold Units.place Units.schedule Units.startHead
    simp only [hq]
    exact if_neg (by rw [show (v.startEntry p e).2 = false from hc]; exact Bool.false_ne_true)
  rw [hplace]
  refine ⟨rfl, ?_⟩
  show look (upd v.whisper p fun w =>
    { w with playing := .prompt { e with saved := none, holdsCursor := false } }) p = _
  simp only [v, Units.onWhisper_whisper, look_upd_self, hw]

/-! ## The leg that connects -/

theorem connecting_keeps (u : Units) (n : LegIx) (p : PosIx) : u.Keeps (u.connecting n p) := by
  unfold Units.connecting
  dsimp only
  split
  · exact (units_onLeg_keeps ..).trans (standIn_keeps ..)
  · exact units_onLeg_keeps ..

theorem connecting_spares (u : Units) (n : LegIx) (p : PosIx) : u.toMedia.Spares (u.connecting n p).toMedia := by
  unfold Units.connecting
  dsimp only
  split
  · exact standIn_spares (u.onLeg n fun l => { l with state := .connecting, bound := some p, owner := some p }) n _
  · exact .refl

theorem connecting_whisper (u : Units) (n : LegIx) (p : PosIx) : (u.connecting n p).whisper = u.whisper := by
  unfold Units.connecting
  dsimp only
  split
  · exact standIn_whisper ..
  · rfl

theorem prompted_keeps (u : Units) (n : LegIx) (p : PosIx) (q : CueIx) : u.Keeps (u.prompted n p q) :=
  ((connecting_keeps u n p).trans (units_onLeg_keeps ..)).trans (place_keeps ..)

/-- A leg in no call keeps its record while its connect entry is placed. -/
theorem prompted_leg (q : CueIx) (hb : u.bindingsConsistent) (hl : (look u.legs n).inCall = false) :
    look (u.prompted n p q).legs n = { look (u.connecting n p).legs n with connectRef := true } := by
  have hfree := (unbound_of_not_inCall hb hl).2
  have hset : look ((u.connecting n p).onLeg n fun l => { l with connectRef := true }).legs n =
      { look (u.connecting n p).legs n with connectRef := true } := look_upd_self ..
  refine ((schedule_prompts _ p).leg_of_unbound fun r => ?_).trans hset
  show (look (u.connecting n p).pos r).bound ≠ some n
  rw [(connecting_keeps u n p).pos]
  exact hfree r

/-- A CONNECTING leg with its timer, at the end of BIND (R27). -/
def Units.bound (u : Units) (n : LegIx) (p : PosIx) (q : CueIx) (wait : Nat) : Units :=
  (((u.prompted n p q).onLeg n fun l => { l with timer := some (connectFrames wait) }).posBind p n).echoBind n

theorem bound_leg (q : CueIx) (wait : Nat) (hb : u.bindingsConsistent) (hl : (look u.legs n).inCall = false) :
    look (u.bound n p q wait).legs n =
      { look (u.connecting n p).legs n with connectRef := true, timer := some (connectFrames wait) } := by
  rw [Units.bound, echoBind_legs, posBind_legs, Units.onLeg_legs, look_upd_self, prompted_leg q hb hl]

theorem bound_bare (q : CueIx) (wait : Nat) (r : PosIx) :
    (look (u.bound n p q wait).pos r).bare = (look (upd u.pos p fun x => x.boundTo n) r).bare := by
  rw [Units.bound, (echoBind_keeps ..).pos, posBind_bare, Units.onLeg_pos, (prompted_keeps ..).pos]

theorem bound_media (q : CueIx) (wait : Nat) : u.toMedia.Keeps (u.bound n p q wait).toMedia :=
  ((prompted_keeps u n p q).media.trans
    (posBind_media ((u.prompted n p q).onLeg n fun l => { l with timer := some (connectFrames wait) }) n p)).trans
    (echoBind_keeps ..).media

theorem bindConnect_bound (q : CueIx) (wait : Nat) :
    u.bindConnect n p q wait =
      if (look (u.prompted n p q).whisper p).hasConnect then u.bound n p q wait
      else (u.bound n p q wait).connectReport p .completed := bindConnect_eq ..

/-- BIND with a cue, but for the report of a connect entry that completed as it started. -/
theorem bindConnect_prompts (q : CueIx) (wait : Nat) : (u.bound n p q wait).Prompts (u.bindConnect n p q wait) := by
  rw [bindConnect_bound]
  split
  · exact .refl
  · exact connectReport_prompts ..

theorem connectFrames_eq (wait : Nat) : connectFrames wait = 8000 * if wait = 0 then 8 else wait := by
  unfold connectFrames framesOf
  omega

end

/-! ## A connect entry that starts to play -/

theorem Media.Stands.of_eq {c : CurIx} {x : Cursor} {m t : Media} (h : m.Stands c x) (hc : t.cursors = m.cursors)
    (hp : t.pool = m.pool) : t.Stands c x := by
  unfold Media.Stands at h ⊢
  refine h.imp (fun k => k.of_eq (by rw [hc]) (by rw [hp]) fun e he _ => by rw [← hp]; exact he) fun k => ?_
  exact ⟨hc ▸ k.placed, hc ▸ k.state, hc ▸ k.ring, hp ▸ k.waits⟩

theorem echoBind_stands {u : Units} {c : CurIx} {x : Cursor} (n : LegIx) (h : u.toMedia.Stands c x) :
    (u.echoBind n).toMedia.Stands c x := by
  unfold Units.echoBind Units.acquire
  dsimp only
  split
  · exact askLeg_stands n _ (h.of_eq rfl rfl)
  · exact h.of_eq rfl rfl

/-- The cursor of the position, where the connect entry is the first to play there. -/
theorem prompted_stands {u : Units} {n : LegIx} {p : PosIx} {q : CueIx} {it : Item}
    (hw : look u.whisper p = { queue := [], playing := .none, stack := [] })
    (hi : (look u.cues q).items[0]? = some it) (ha : u.store.admits it) :
    look (u.prompted n p q).whisper p =
        { queue := [], stack := []
          playing := .prompt
            { cue := q, level := .urgent, origin := .connect, resume := .resume, connect := true,
              saved := none, holdsCursor := false } } ∧
      ((look u.cursors (posCursor p)).state = .stopped → ∃ cur : Cursor,
        (u.prompted n p q).toMedia.Stands (posCursor p) (cur.entering it 0 0) ∧ cur.gap = false ∧
          cur.snapshot = some { cue := q, items := (look u.cues q).items, duck := (look u.cues q).duck }) := by
  let v := (u.connecting n p).onLeg n fun l => { l with connectRef := true }
  have hvw : look v.whisper p = { queue := [], playing := .none, stack := [] } :=
    (congrArg (look · p) (connecting_whisper u n p)).trans hw
  have hspares : u.toMedia.Spares v.toMedia := connecting_spares u n p
  have hcues : v.cues = u.cues := (connecting_keeps u n p).media.cues
  have hstart (h : (look v.cursors (posCursor p)).state = .stopped) :=
    startCursor_stands (legs := v.legs) (place := none) (elapsed := 0) h rfl
      (show (look v.cues q).items[0]? = some it by rw [hcues]; exact hi) (admits_of_info hspares.clips ha)
  have hdone : (v.toMedia.startCursor v.legs (posCursor p) q none).2 = false := by
    by_cases h : (look v.cursors (posCursor p)).state = .stopped
    · exact (hstart h).1
    · rw [startCursor_of_started _ _ h]
  obtain ⟨hmedia, hwhisper⟩ := place_first (e := Entry.new q .urgent .connect .resume) hvw hdone
  refine ⟨hwhisper, fun hs => ?_⟩
  obtain ⟨cur, hstands, hgap, hsnap⟩ := (hstart (hspares.stopped p hs)).2
  refine ⟨cur, ?_, hgap, by rw [hsnap, hcues]⟩
  rw [show (u.prompted n p q).toMedia = _ from hmedia]
  exact hstands

section

variable {s : State} {n : LegIx} {p : PosIx} {q : CueIx}

/-- BIND whose connect entry plays at once: the leg waits for its end. -/
theorem bindConnect_plays {it : Item} (wait : Nat) (hi : (look s.cues q).items[0]? = some it)
    (ha : s.store.admits it) (hw : look s.whisper p = { queue := [], playing := .none, stack := [] })
    (hx : ∀ x ∈ s.pairs, x.agent ≠ p) :
    s.toUnits.bindConnect n p q wait = s.toUnits.bound n p q wait ∧
      look (s.toUnits.bound n p q wait).whisper p =
        { queue := [], stack := []
          playing := .prompt
            { cue := q, level := .urgent, origin := .connect, resume := .resume, connect := true,
              saved := none, holdsCursor := false } } ∧
      ((look s.cursors (posCursor p)).state = .stopped →
        ∀ l : Link, { s with toUnits := s.toUnits.bound n p q wait, link := l }.startedAt (posCursor p) q 0 0) := by
  obtain ⟨hprompt, hstands⟩ := prompted_stands (u := s.toUnits) (n := n) (p := p) hw hi ha
  have hkeeps := prompted_keeps s.toUnits n p q
  have hbind : s.toUnits.bound n p q wait =
      (((s.toUnits.prompted n p q).onLeg n fun l => { l with timer := some (connectFrames wait) }).onPos p
        fun x => x.boundTo n).echoBind n := by
    rw [Units.bound, posBind_of_unpaired ((s.toUnits.prompted n p q).onLeg n _) n p
      fun x hm => hx x (hkeeps.pairs ▸ hm)]
  refine ⟨?_, ?_, fun hs l => ?_⟩
  · rw [bindConnect_bound, hprompt]
    rfl
  · rw [hbind]
    refine Eq.trans ?_ hprompt
    unfold Units.echoBind Units.acquire
    dsimp only
    split <;> rfl
  · obtain ⟨cur, hcur, hgap, hsnap⟩ := hstands hs
    have hcues : (s.toUnits.bound n p q wait).cues = s.cues := (bound_media q wait).cues
    refine startedAt_of_stands (it := it) (cur := cur) ?_ hgap ?_ ?_
    · rw [hbind]
      exact echoBind_stands n (hcur.of_eq rfl rfl)
    · rw [hsnap, ← hcues]
    · show (look (s.toUnits.bound n p q wait).cues q).items[0]? = _
      rw [hcues]
      exact hi

end

/-- Settles O32: the leg is made to connect before its entry is placed, so no report can reach it until it is bound;
then it waits, or is cut through once. -/
theorem bindWithCueConnects : Obligations.BindWithCueConnects := by
  unfold Obligations.BindWithCueConnects
  rintro s tag n p q wait payload hs hb hwait rfl hleg hpos hne hroom
  have hown : ownBind [byte n, byte p, byte q, byte wait] s.toUnits =
      (s.toUnits.bindConnect n p q wait, .ok []) := by
    refine (ownBind_eq s.toUnits n p (some q) hwait).trans ?_
    rw [if_neg (by rcases hleg with h | h <;> simp [h]), if_neg (not_not.mpr hpos)]
    dsimp only
    rw [if_neg (by simpa using hne), if_neg (show ¬ whisperLimit ≤ _ from Nat.not_le.mpr hroom)]
  have hcall : (look s.legs n).inCall = false := (not_inCall_iff _).mpr hleg
  have hrecord := bound_leg (p := p) q wait hb hcall
  rw [connecting_leg, connectFrames_eq] at hrecord
  have hprompts := (bindConnect_prompts (u := s.toUnits) (n := n) (p := p) q wait).trans (settle_prompts _)
  refine ⟨_, _, congrArg Host.Outcome.next (request_units hs (by simp) (by rfl) hown), rfl,
    eq_of_bare (y := (look s.pos p).boundTo n) ?_, rfl, ?_, fun hcan hw hx hr => ?_⟩
  · rw [show (s.toUnits.bindConnect n p q wait).settle.pos = _ from hprompts.pos, bound_bare, look_upd_self]
  · rcases hprompts.legs n with h | ⟨-, -, h⟩
    · exact .inl (h.trans hrecord)
    · refine .inr (h.trans ?_)
      rw [hrecord]
      rfl
  · obtain ⟨it, hi⟩ : ∃ it, (look s.cues q).items[0]? = some it := by
      cases h : (look s.cues q).items with
      | nil => exact absurd h hne
      | cons it _ => exact ⟨it, rfl⟩
    obtain ⟨hsame, hwhisper, hstart⟩ := bindConnect_plays (n := n) wait hi (admits_of_canEnter hcan hi) hw hx
    have hsettle : (s.toUnits.bindConnect n p q wait).settle = s.toUnits.bound n p q wait := by
      rw [hsame]
      exact settle_of_keeps hs.2 hr (bound_media q wait)
    rw [hsettle]
    refine ⟨?_, fun hstop => hstart hstop _, hwhisper⟩
    rw [show look (s.toUnits.bound n p q wait).legs n = _ from hrecord]

end Sys2Proof.Machine
end

section
/-! PROOFS. WFLS: the prompts of a level set removed, and what is taken next. -/

namespace Sys2Proof.Machine

/-! ## Stopped cursors -/

theorem stopCursor_stopped (legs : Vector Leg 64) (m : Media) (c : CurIx) :
    (look (m.stopCursor legs c).cursors c).state = .stopped := by
  unfold Media.stopCursor
  split
  next h => exact h
  · rw [Media.onCur_cursors, look_upd_self]
    rfl

theorem connectReport_spares (u : Units) (p : PosIx) (cause : CutCause) :
    u.toMedia.Spares (u.connectReport p cause).toMedia := by
  unfold Units.connectReport
  split
  · exact .refl
  next n _ =>
    dsimp only
    split
    · rw [cutThrough_eq]
      have h := (leaveFrom_plays (u.onLeg n Leg.cut) n (look u.legs n).group).spares
      exact ⟨h.clips, h.stopped⟩
    · exact .refl

theorem connectReport_whisper (u : Units) (p : PosIx) (cause : CutCause) :
    (u.connectReport p cause).whisper = u.whisper := by
  unfold Units.connectReport
  split
  · rfl
  · dsimp only
    split
    · exact cutThrough_whisper ..
    · rfl

/-! ## Entries removed -/

/-- The entries that a test picks (R123). -/
def Whisper.gone (w : Whisper) (f : Entry → Bool) : List Entry :=
  w.queue.filter f ++ w.stack.filter f ++
    match w.playing with
    | .prompt e => if f e then [e] else []
    | .none | .coach => []

/-- A position without the entries that a test picks, its cursor stopped if one of them held it. -/
def Units.removed (u : Units) (p : PosIx) (f : Entry → Bool) : Units :=
  if (look u.whisper p).playing.isPrompt f || (look u.whisper p).stack.any fun e => f e && e.holdsCursor then
    (u.onWhisper p fun w => w.without f).stopPos p
  else u.onWhisper p fun w => w.without f

/-- Removal with the report of a removed connect entry (R29). -/
def Units.reported (u : Units) (p : PosIx) (f : Entry → Bool) : Units :=
  if ((look u.whisper p).gone f).any Entry.connect then (u.removed p f).connectReport p .flushed
  else u.removed p f

/-- WFLS of the entries that a test picks (R123). -/
def Units.flush (u : Units) (p : PosIx) (f : Entry → Bool) : Units :=
  if (look u.whisper p).playing.isPrompt f then (u.reported p f).next p else u.reported p f

theorem removeEntries_eq (u : Units) (p : PosIx) (f : Entry → Bool) :
    u.removeEntries p f =
      (u.removed p f, ((look u.whisper p).gone f).length, ((look u.whisper p).gone f).any Entry.connect,
        (look u.whisper p).playing.isPrompt f) := by
  have hset : (u.onWhisper p fun w =>
      { w with
        queue := w.queue.filter fun e => !f e
        stack := w.stack.filter fun e => !f e
        playing := if (look u.whisper p).playing.isPrompt f then .none else w.playing }) =
      u.onWhisper p fun w => w.without f := rfl
  unfold Units.removeEntries Units.removed Whisper.gone
  dsimp only
  rw [hset] <;> cases (look u.whisper p).playing <;> rfl

theorem readLevels_byte (set : Fin 4) : readRange 0 3 (byte set.val).toNat = some set.val := by
  revert set
  decide

theorem inLevelSet_byte (set : Fin 4) (lvl : Level) :
    inLevelSet (byte set.val) lvl =
      if lvl = .urgent then decide (set.val % 2 = 1) else decide (2 ≤ set.val) := by
  revert set
  cases lvl <;> decide

theorem ownWfls_eq (u : Units) (p : PosIx) (set : Fin 4) {f : Entry → Bool}
    (hf : f = fun e => if e.level = .urgent then decide (set.val % 2 = 1) else decide (2 ≤ set.val)) :
    ownWfls [byte p, byte set] u =
      (u.flush p f, .ok (byte ((look u.whisper p).gone f).length :: (look (u.flush p f).whisper p).summary)) := by
  have hset : (fun e : Entry => inLevelSet (byte set.val) e.level) = f := by
    rw [hf]
    funext e
    exact inLevelSet_byte set e.level
  simp only [ownWfls, readPos_byte, readLevels_byte, hset, removeEntries_eq]
  rfl

section

variable {u : Units} {p : PosIx} {f : Entry → Bool}

theorem removed_eq (u : Units) (p : PosIx) (f : Entry → Bool) : u.removed p f = (u.removeEntries p f).1 := by
  rw [removeEntries_eq]

theorem removed_legs (u : Units) (p : PosIx) (f : Entry → Bool) : (u.removed p f).legs = u.legs := by
  unfold Units.removed
  split <;> rfl

theorem removed_keeps (u : Units) (p : PosIx) (f : Entry → Bool) : u.Keeps (u.removed p f) := by
  rw [removed_eq]
  exact removeEntries_keeps ..

theorem removed_info (u : Units) (p : PosIx) (f : Entry → Bool) (id : ClipIx) :
    (u.removed p f).store.info id = u.store.info id := by
  unfold Units.removed
  split
  · exact (stopCursor_plays u.legs u.toMedia (posCursor p)).clips id
  · rfl

theorem removed_stopped (h : (look u.whisper p).playing.isPrompt f = true) :
    (look (u.removed p f).cursors (posCursor p)).state = .stopped := by
  unfold Units.removed
  rw [h, Bool.true_or, if_pos rfl]
  exact stopCursor_stopped ..

theorem reported_keeps (u : Units) (p : PosIx) (f : Entry → Bool) : u.Keeps (u.reported p f) := by
  unfold Units.reported
  split
  · exact (removed_keeps ..).trans (connectReport_keeps ..)
  · exact removed_keeps ..

theorem reported_whisper (u : Units) (p : PosIx) (f : Entry → Bool) :
    look (u.reported p f).whisper p = (look u.whisper p).without f := by
  have h : look (u.removed p f).whisper p = (look u.whisper p).without f := by
    rw [removed_eq, removeEntries_whisper, look_upd_self]
  unfold Units.reported
  split
  · rw [connectReport_whisper, h]
  · exact h

theorem removed_spares (u : Units) (p : PosIx) (f : Entry → Bool) :
    (u.removed p f).toMedia.Spares (u.reported p f).toMedia := by
  unfold Units.reported
  split
  · exact connectReport_spares ..
  · exact .refl

theorem reported_info (u : Units) (p : PosIx) (f : Entry → Bool) (id : ClipIx) :
    (u.reported p f).store.info id = u.store.info id :=
  ((removed_spares u p f).clips id).trans (removed_info u p f id)

theorem reported_stopped (h : (look u.whisper p).playing.isPrompt f = true) :
    (look (u.reported p f).cursors (posCursor p)).state = .stopped :=
  (removed_spares u p f).stopped p (removed_stopped h)

/-- The leg of a removed connect entry cuts through (R29). -/
theorem reported_eq_cut {n : LegIx} (hb : (look u.pos p).bound = some n) (ha : (look u.legs n).awaits)
    (hc : ((look u.whisper p).gone f).any Entry.connect = true) :
    u.reported p f = (u.removed p f).cutThrough n .flushed := by
  unfold Units.reported Units.connectReport
  rw [if_pos hc, (removed_keeps u p f).pos, hb]
  exact if_pos (by rw [removed_legs]; simpa [Leg.awaits] using ha)

theorem flush_prompts (u : Units) (p : PosIx) (f : Entry → Bool) : (u.reported p f).Prompts (u.flush p f) := by
  unfold Units.flush
  split
  · exact next_prompts ..
  · exact .refl

theorem flush_keeps (u : Units) (p : PosIx) (f : Entry → Bool) : u.Keeps (u.flush p f) := by
  unfold Units.flush
  split
  · exact (reported_keeps ..).trans (next_keeps ..)
  · exact reported_keeps ..

theorem flush_cut_leg {n : LegIx} (hb : (look u.pos p).bound = some n) (ha : (look u.legs n).awaits)
    (hc : ((look u.whisper p).gone f).any Entry.connect = true) :
    look (u.flush p f).legs n = (look u.legs n).cut := by
  have hleg : look (u.reported p f).legs n = (look u.legs n).cut := by
    rw [reported_eq_cut hb ha hc, cutThrough_legs, look_upd_self, removed_legs]
  exact ((flush_prompts u p f).leg_of_not_awaits (by rw [hleg]; exact cut_not_awaits _)).trans hleg

theorem flush_notifies {n : LegIx} (hb : (look u.pos p).bound = some n) (ha : (look u.legs n).awaits)
    (hc : ((look u.whisper p).gone f).any Entry.connect = true)
    (hn : (u.router.route .cutThrough).notify = true) :
    (u.flush p f).router.overflow = true ∨
      { kind := .cutThrough, subject := .leg n, stamp := u.router.stamp
        detail := detail2 1 (ixByte (look u.legs n).owner) } ∈ (u.flush p f).router.notices := by
  have hk := (removed_keeps u p f).media
  have hgrows := (flush_prompts u p f).grows
  have hlast := cutThrough_last n .flushed ((congrArg Route.notify (route_of_keeps hk .cutThrough)).trans hn)
  rw [← reported_eq_cut hb ha hc, removed_legs, hk.stamp] at hlast
  exact hlast.imp hgrows.overflow fun h => hgrows.notices _ (List.mem_of_getLast? h)

/-! ## What is taken next -/

/-- With nothing left, WFLS ends with its removals. -/
theorem flush_of_empty (hq : (look u.whisper p).queue.filter (!f ·) = [])
    (hs : (look u.whisper p).stack.filter (!f ·) = []) : u.flush p f = u.reported p f := by
  have hw := reported_whisper u p f
  unfold Units.flush
  split
  · exact next_of_empty (by rw [hw]; exact hq) (by rw [hw]; exact hs)
  · rfl

theorem resolvePlace_of_resolvesTo {s : State} {items : List Item} {place : Option Place} {i elapsed : Nat}
    (h : s.resolvesTo items place i elapsed) : resolvePlace s.store items place = (i, elapsed) := by
  cases place with
  | none => exact Prod.ext h.1.symm h.2.symm
  | some x =>
    obtain ⟨hover, hin⟩ := h
    unfold resolvePlace
    dsimp only
    cases hi : items[x.index]? with
    | none =>
      obtain ⟨rfl, rfl⟩ := hover (List.getElem?_eq_none_iff.mp hi)
      rfl
    | some it =>
      obtain ⟨hend, hrest⟩ := hin it hi
      dsimp only
      split
      next he =>
        obtain ⟨rfl, rfl⟩ := hend he
        rfl
      next he =>
        obtain ⟨rfl, rfl⟩ := hrest (Bool.eq_false_iff.mpr he)
        rfl

theorem resolvePlace_of_info {st st' : Store} (h : ∀ id, st'.info id = st.info id) (items : List Item)
    (place : Option Place) : resolvePlace st' items place = resolvePlace st items place := by
  unfold resolvePlace
  cases place with
  | none => rfl
  | some x => simp only [endsBy_of_info h]

/-- An entry taken from queue or stack whose first item can be entered. -/
structure Units.Starts (u : Units) (p : PosIx) (x : Entry) (i elapsed : Nat) (it : Item) : Prop where
  stopped : (look u.cursors (posCursor p)).state = .stopped
  place : resolvePlace u.store (look u.cues x.cue).items x.saved = (i, elapsed)
  item : (look u.cues x.cue).items[i]? = some it
  admits : u.store.admits it

/-- Such an entry started: it plays, its cursor waits for its ring or has it, and it has not completed (R116). -/
theorem startEntry_starts {x : Entry} {i elapsed : Nat} {it : Item} (h : u.Starts p x i elapsed it) :
    (u.startEntry p x).2 = false ∧
      look (u.startEntry p x).1.whisper p =
        { look u.whisper p with playing := .prompt { x with saved := none, holdsCursor := false } } ∧
      ∃ cur : Cursor, (u.startEntry p x).1.toMedia.Stands (posCursor p) (cur.entering it i elapsed) ∧
        cur.gap = false ∧
        cur.snapshot = some { cue := x.cue, items := (look u.cues x.cue).items, duck := (look u.cues x.cue).duck } := by
  obtain ⟨h1, h2⟩ := startCursor_stands (legs := u.legs) h.stopped h.place h.item h.admits
  exact ⟨h1, look_upd_self .., h2⟩

/-- The entry that is taken next, and what it leaves of queue and stack (R119). -/
def Whisper.takes (w : Whisper) (nesting : Bool) (x : Entry) (xs : List Entry) : Prop :=
  (w.stack = x :: xs ∧ x.holdsCursor = false ∧
      (x.level = .urgent ∨ nesting = false ∨ ∀ h ∈ w.queue, h.level = .routine)) ∨
    (w.stack = [] ∧ w.queue = x :: xs)

theorem preemptor_none {x : Entry}
    (h : x.level = .urgent ∨ (look u.pos p).nesting = false ∨ ∀ h ∈ (look u.whisper p).queue, h.level = .routine) :
    u.preemptor p x.level = none := by
  unfold Units.preemptor
  split
  next h' q hq =>
    refine if_neg ?_
    rw [hq] at h
    rcases h with h | h | h
    · simp [preempts, h]
    · simp [preempts, h]
    · simp [preempts, h h' List.mem_cons_self]
  · rfl

theorem next_takes {x : Entry} {xs : List Entry} {i elapsed : Nat} {it : Item}
    (hp : (look u.whisper p).playing = .none)
    (ht : (look u.whisper p).takes (look u.pos p).nesting x xs) (h : u.Starts p x i elapsed it) :
    look (u.next p).whisper p =
        { queue := if (look u.whisper p).stack = [] then xs else (look u.whisper p).queue
          playing := .prompt { x with saved := none, holdsCursor := false }
          stack := if (look u.whisper p).stack = [] then [] else xs } ∧
      ∃ cur : Cursor, (u.next p).toMedia.Stands (posCursor p) (cur.entering it i elapsed) ∧ cur.gap = false ∧
        cur.snapshot = some { cue := x.cue, items := (look u.cues x.cue).items, duck := (look u.cues x.cue).duck } := by
  have go : ∀ g : Whisper → Whisper, u.next p = ((u.onWhisper p g).startEntry p x).1 →
      look (u.next p).whisper p =
          { g (look u.whisper p) with playing := .prompt { x with saved := none, holdsCursor := false } } ∧
        ∃ cur : Cursor, (u.next p).toMedia.Stands (posCursor p) (cur.entering it i elapsed) ∧ cur.gap = false ∧
          cur.snapshot =
            some { cue := x.cue, items := (look u.cues x.cue).items, duck := (look u.cues x.cue).duck } := by
    intro g hg
    obtain ⟨-, h2, h3⟩ := startEntry_starts (u := u.onWhisper p g) (p := p)
      ⟨h.stopped, h.place, h.item, h.admits⟩
    rw [hg]
    exact ⟨h2.trans (by rw [Units.onWhisper_whisper, look_upd_self]), h3⟩
  have hdone : ∀ g : Whisper → Whisper, ((u.onWhisper p g).startEntry p x).2 = false := fun g =>
    (startEntry_starts (u := u.onWhisper p g) (p := p) ⟨h.stopped, h.place, h.item, h.admits⟩).1
  rcases ht with ⟨hs, hh, hl⟩ | ⟨hs, hq⟩
  · have hnext : u.next p = ((u.onWhisper p fun w => { w with stack := xs }).startEntry p x).1 := by
      unfold Units.next
      simp only [hp]
      unfold Units.nextLoop
      simp only [hs, preemptor_none hl, hh, hdone, Bool.false_eq_true, if_false]
    obtain ⟨h1, h2⟩ := go _ hnext
    refine ⟨h1.trans ?_, h2⟩
    rw [hs]
    rfl
  · have hnext : u.next p = ((u.onWhisper p fun w => { w with queue := xs }).startEntry p x).1 := by
      unfold Units.next
      simp only [hp]
      unfold Units.nextLoop
      simp only [hs, hq, hdone, Bool.false_eq_true, if_false]
    obtain ⟨h1, h2⟩ := go _ hnext
    refine ⟨h1.trans ?_, h2⟩
    rw [hs]
    rfl

end

/-! ## Counts and connect entries -/

theorem mem_gone {w : Whisper} {f : Entry → Bool} {e : Entry} :
    e ∈ w.gone f ↔ (e ∈ w.queue ∨ e ∈ w.stack ∨ w.playing = .prompt e) ∧ f e = true := by
  have hplay : e ∈ (match w.playing with
      | .prompt e => if f e then [e] else []
      | .none | .coach => []) ↔ w.playing = .prompt e ∧ f e = true := by
    cases w.playing with
    | none => simp
    | coach => simp
    | prompt d =>
      by_cases hd : f d = true
      · simp only [hd, if_true, List.mem_singleton, Playing.prompt.injEq]
        exact ⟨fun h => ⟨h.symm, h ▸ hd⟩, fun h => h.1.symm⟩
      · simp only [hd, Bool.false_eq_true, if_false, List.not_mem_nil, Playing.prompt.injEq, false_iff]
        exact fun h => hd (h.1 ▸ h.2)
  unfold Whisper.gone
  rw [List.mem_append, List.mem_append, List.mem_filter, List.mem_filter, hplay]
  tauto

theorem gone_connect {w : Whisper} {f : Entry → Bool} :
    (w.gone f).any Entry.connect = true ↔
      ∃ e, (e ∈ w.queue ∨ e ∈ w.stack ∨ w.playing = .prompt e) ∧ f e = true ∧ e.connect = true := by
  simp only [List.any_eq_true, mem_gone, and_assoc]

theorem hasConnect_iff (w : Whisper) :
    w.hasConnect = true ↔ ∃ e, (e ∈ w.queue ∨ e ∈ w.stack ∨ w.playing = .prompt e) ∧ e.connect = true := by
  have hplay : w.playing.isPrompt Entry.connect = true ↔ ∃ e, w.playing = .prompt e ∧ e.connect = true := by
    cases w.playing <;> simp [Playing.isPrompt]
  unfold Whisper.hasConnect
  rw [Bool.or_eq_true, Bool.or_eq_true, List.any_eq_true, List.any_eq_true, hplay]
  simp only [or_and_right, exists_or, or_assoc]

theorem gone_of_kept {w : Whisper} {f : Entry → Bool} (h : ∀ e, w.playing = .prompt e → f e = false) :
    w.gone f = w.queue.filter f ++ w.stack.filter f ∧ w.playing.isPrompt f = false := by
  unfold Whisper.gone
  cases hp : w.playing with
  | none => exact ⟨List.append_nil _, rfl⟩
  | coach => exact ⟨List.append_nil _, rfl⟩
  | prompt e =>
    have he := h e hp
    exact ⟨by simp [he], he⟩

theorem gone_length_of_removed {w : Whisper} {f : Entry → Bool} {e : Entry} (hp : w.playing = .prompt e)
    (he : f e = true) :
    (w.gone f).length = w.queue.length + w.stack.length + 1 - (w.queue.filter (!f ·)).length -
      (w.stack.filter (!f ·)).length := by
  have hq := List.length_eq_length_filter_add (l := w.queue) f
  have hs := List.length_eq_length_filter_add (l := w.stack) f
  simp only [Whisper.gone, hp, he, if_true, List.length_append, List.length_singleton]
  omega

/-- All prompts of a position. -/
theorem gone_length_all (w : Whisper) :
    (w.gone fun _ => true).length =
      w.queue.length + w.stack.length + if w.playing = .none ∨ w.playing = .coach then 0 else 1 := by
  unfold Whisper.gone
  cases w.playing <;> simp [Nat.add_assoc]

/-- The whisper state that a set of both levels leaves: no prompt, and a coach that played. -/
theorem without_all (w : Whisper) :
    w.without (fun _ => true) =
      { queue := [], stack := [], playing := if w.playing = .coach then .coach else .none } := by
  unfold Whisper.without
  cases w.playing <;> simp [Playing.isPrompt]

/-! ## WFLS -/

/-- Where neither the playing entry nor any that is connected or holds the cursor goes, only queue and stack
change. -/
theorem flush_of_kept {u : Units} {p : PosIx} {f : Entry → Bool}
    (hp : ∀ e, (look u.whisper p).playing = .prompt e → f e = false)
    (hk : ∀ e ∈ (look u.whisper p).queue ++ (look u.whisper p).stack, f e = true →
      e.connect = false ∧ e.holdsCursor = false) :
    u.flush p f = u.onWhisper p fun w => w.without f := by
  obtain ⟨hgone, hplay⟩ := gone_of_kept hp
  have hno : ((look u.whisper p).gone f).any Entry.connect = false := by
    refine Bool.eq_false_iff.mpr fun h => ?_
    obtain ⟨e, he, hc⟩ := List.any_eq_true.mp h
    rw [hgone, ← List.filter_append, List.mem_filter] at he
    exact absurd hc (by rw [(hk e he.1 he.2).1]; exact Bool.false_ne_true)
  have hheld : (look u.whisper p).stack.any (fun e => f e && e.holdsCursor) = false := by
    refine List.any_eq_false.mpr fun e he h => ?_
    obtain ⟨hf, hh⟩ := Bool.and_eq_true_iff.mp h
    exact absurd hh (by rw [(hk e (List.mem_append_right _ he) hf).2]; exact Bool.false_ne_true)
  simp only [Units.flush, Units.reported, Units.removed, hplay, hno, hheld, Bool.or_false, Bool.false_eq_true,
    if_false]

section

variable {s : State} {tag : BitVec 16} {p : PosIx} {set : Fin 4} {f : Entry → Bool}

/-- WFLS, once what it brings about has settled. -/
theorem exec_wfls (hs : s.takes)
    (hf : f = fun e => if e.level = .urgent then decide (set.val % 2 = 1) else decide (2 ≤ set.val)) :
    exec (.wfls tag [byte p, byte set]) s =
      .next { s with
        toUnits := (s.toUnits.flush p f).settle
        link := s.link.answered tag (ascii4 'W' 'F' 'L' 'S') [byte p, byte set]
          (.ok (byte ((look s.whisper p).gone f).length ::
            (look (s.toUnits.flush p f).whisper p).summary)) } :=
  congrArg Host.Outcome.next (request_units hs (by simp) (by rfl) (ownWfls_eq s.toUnits p set hf))

theorem flush_settle (hs : s.takes) (hr : s.noCueRoutes) (p : PosIx) (f : Entry → Bool) :
    (s.toUnits.flush p f).settle = s.toUnits.flush p f := settle_of_keeps hs.2 hr (flush_keeps ..).media

/-- The entry taken after a playing prompt has been removed starts where it was saved (R119). -/
theorem flush_takes {e x : Entry} {xs : List Entry} {it : Item} {i elapsed : Nat}
    (hp : (look s.whisper p).playing = .prompt e) (he : f e = true)
    (ht : ((look s.whisper p).without f).takes (look s.pos p).nesting x xs)
    (hr : s.resolvesTo (look s.cues x.cue).items x.saved i elapsed)
    (hi : (look s.cues x.cue).items[i]? = some it) (ha : s.store.admits it) :
    look (s.toUnits.flush p f).whisper p =
        { queue := if (look s.whisper p).stack.filter (!f ·) = [] then xs else (look s.whisper p).queue.filter (!f ·)
          playing := .prompt { x with saved := none, holdsCursor := false }
          stack := if (look s.whisper p).stack.filter (!f ·) = [] then [] else xs } ∧
      ∀ l : Link, { s with toUnits := s.toUnits.flush p f, link := l }.startedAt (posCursor p) x.cue i elapsed := by
  have hplay : (look s.whisper p).playing.isPrompt f = true := by rw [hp]; exact he
  have hk := reported_keeps s.toUnits p f
  have hw := reported_whisper s.toUnits p f
  have hinfo := reported_info s.toUnits p f
  have hcues : (s.toUnits.reported p f).cues = s.cues := hk.media.cues
  have hall : (s.toUnits.flush p f).cues = s.cues := (flush_keeps s.toUnits p f).media.cues
  have hflush : s.toUnits.flush p f = (s.toUnits.reported p f).next p := if_pos hplay
  obtain ⟨h1, cur, h2, hg, hsn⟩ := next_takes (u := s.toUnits.reported p f) (p := p) (x := x) (xs := xs) (i := i)
    (elapsed := elapsed) (it := it) (by rw [hw, Whisper.without, hplay]; rfl) (by rw [hw, hk.pos]; exact ht)
    ⟨reported_stopped hplay,
      by rw [hcues, resolvePlace_of_info hinfo]; exact resolvePlace_of_resolvesTo hr,
      by rw [hcues]; exact hi, admits_of_info hinfo ha⟩
  rw [← hflush] at h1 h2
  rw [hw] at h1
  refine ⟨h1, fun l => startedAt_of_stands h2 hg ?_ ?_⟩
  · rw [hsn, hcues, ← hall]
  · show (look (s.toUnits.flush p f).cues x.cue).items[i]? = _
    rw [hall]
    exact hi

end

/-- Settles O45: the entries go, a removed connect entry is reported, and with the playing prompt gone the next entry
is taken. -/
theorem wflsRemovesEntries : Obligations.WflsRemovesEntries := by
  unfold Obligations.WflsRemovesEntries
  rintro s tag p set w f hs rfl hf
  refine ⟨fun hp hk => ?_, fun h3 hr => ?_, fun e queue stack count hp he hr hqueue hstack hcount => ?_,
    fun n hr hb hl hc hx => ?_⟩
  · obtain ⟨hgone, hplay⟩ := gone_of_kept hp
    have hw : (look s.whisper p).without f =
        { look s.whisper p with
          queue := (look s.whisper p).queue.filter (!f ·), stack := (look s.whisper p).stack.filter (!f ·) } := by
      rw [Whisper.without, hplay]
      rfl
    refine ⟨_, rfl, ?_⟩
    rw [← hw, exec_wfls hs hf, flush_of_kept hp hk,
      Units.settle_of_none (s.toUnits.onWhisper p fun w => w.without f) hs.2, Units.onWhisper_whisper, look_upd_self,
      hgone, List.length_append]
    rfl
  · have hfall : f = fun _ => true := by
      rw [hf, h3]
      funext e
      simp
    have hempty : s.toUnits.flush p f = s.toUnits.reported p f := flush_of_empty (by simp [hfall]) (by simp [hfall])
    have hw : look (s.toUnits.flush p f).whisper p =
        { queue := [], stack := [], playing := if (look s.whisper p).playing = .coach then .coach else .none } := by
      rw [hempty, reported_whisper, hfall, without_all]
    refine ⟨_, _, exec_wfls hs hf, rfl, ?_, ?_, fun n hc hb hl ha => ?_⟩
    · exact (congrArg (fun u : Units => look u.whisper p) (flush_settle hs hr p f)).trans hw
    · show s.link.answered _ _ _ _ = _
      rw [hw, hfall, gone_length_all]
    · obtain ⟨e, he, hce⟩ := (hasConnect_iff _).mp hc
      have hgone : ((look s.whisper p).gone f).any Entry.connect = true :=
        gone_connect.mpr ⟨e, he, by rw [hfall], hce⟩
      have hleg := flush_cut_leg (u := s.toUnits) hb ⟨hl, ha⟩ hgone
      show (look (s.toUnits.flush p f).settle.legs n).state = _ ∧ (look (s.toUnits.flush p f).settle.legs n).timer = _
      rw [flush_settle hs hr, hleg]
      exact ⟨rfl, rfl⟩
  · subst hqueue hstack
    refine ⟨_, look (s.toUnits.flush p f).whisper p, exec_wfls hs hf, ?_, ?_, fun hq hst => ?_,
      fun x xs it i elapsed ht hres hi ha => ?_⟩
    · exact congrArg (fun u : Units => look u.whisper p) (flush_settle hs hr p f)
    · rw [hcount, ← gone_length_of_removed hp he]
    · have hplay : (look s.whisper p).playing.isPrompt f = true := by rw [hp]; exact he
      have hempty := flush_of_empty (u := s.toUnits) (p := p) (f := f) hq hst
      refine ⟨?_, ?_⟩
      · rw [hempty, reported_whisper, Whisper.without, hplay, hq, hst]
        rfl
      · show (look (s.toUnits.flush p f).settle.cursors (posCursor p)).state = _
        rw [flush_settle hs hr, hempty]
        exact reported_stopped hplay
    · obtain ⟨h1, h2⟩ := flush_takes hp he ht hres hi ha
      refine ⟨h1, ?_⟩
      rw [flush_settle hs hr]
      exact h2 _
  · have hgone := gone_connect.mpr hx
    have hset := flush_settle hs hr p f
    refine ⟨_, exec_wfls hs hf, ?_, fun hn => ?_⟩
    · exact (congrArg (fun u : Units => look u.legs n) hset).trans (flush_cut_leg hb ⟨hl, hc⟩ hgone)
    · show (s.toUnits.flush p f).settle.router.overflow = true ∨ _ ∈ (s.toUnits.flush p f).settle.router.notices
      rw [hset]
      exact flush_notifies hb ⟨hl, hc⟩ hgone hn

end Sys2Proof.Machine
end

section
/-! PROOFS. The end of an item: what a cursor leaves, what it enters, and the refill it asks for. -/

namespace Sys2Proof.Machine

/-! ## References dropped and taken -/

theorem markSectors_of_mem {v : Vector (Option SectorState) 256} {x : SectorState} {ss : List SectorIx}
    {j : SectorIx} (h : j ∈ ss) : look (markSectors v x ss) j = some x := by
  have hkeep : ∀ (ss : List SectorIx) (v : Vector (Option SectorState) 256), look v j = some x →
      look (ss.foldl (fun v i => put v i (some x)) v) j = some x := by
    intro ss
    induction ss with
    | nil => exact fun _ h => h
    | cons i ss ih =>
      refine fun v hv => ih _ ?_
      rw [look_put]
      split
      · rfl
      · exact hv
  unfold markSectors
  induction ss generalizing v with
  | nil => cases h
  | cons i ss ih =>
    rcases List.mem_cons.mp h with rfl | h
    · exact hkeep ss _ (by rw [look_put, if_pos rfl])
    · exact ih h

theorem takeRef_clip {st : Store} {id : ClipIx} {k : Clip} (h : st.clip id = some k) :
    (st.takeRef id).clip id = some { k with refs := k.refs + 1 } := by
  unfold Store.takeRef
  rw [h, Store.setClip_clip, if_pos rfl]

theorem queueClip_eq {st : Store} {id : ClipIx} {k : Clip} (h : st.clip id = some k) :
    st.queueClip id =
      (st.setClip id (some { k with eraseLeft := k.sectors, goneBad := 0 })).appendErase k.run := by
  unfold Store.queueClip
  rw [h]

theorem queueClip_clip_of_ne (st : Store) {id j : ClipIx} (h : id ≠ j) : (st.queueClip id).clip j = st.clip j := by
  unfold Store.queueClip
  split
  · rfl
  · unfold Store.clip
    rw [appendErase_dir]
    exact (Store.setClip_clip st id j _).trans (if_neg h)

theorem dropRef_clip_of_ne (st : Store) {id j : ClipIx} (h : id ≠ j) : (st.dropRef id).clip j = st.clip j := by
  unfold Store.dropRef
  split
  · rfl
  · dsimp only
    split
    · exact (queueClip_clip_of_ne _ h).trans ((Store.setClip_clip ..).trans (if_neg h))
    · exact (Store.setClip_clip ..).trans (if_neg h)

theorem dropRef_of_kept {st : Store} {id : ClipIx} {k : Clip} (h : st.clip id = some k)
    (hk : ¬ (k.state = .retiring ∧ k.refs = 1)) :
    st.dropRef id = st.setClip id (some { k with refs := k.refs - 1 }) := by
  unfold Store.dropRef
  rw [h]
  exact if_neg hk

theorem referenceDropped_of {s t : State} {id : ClipIx} {k : Clip} (h : s.store.clip id = some k)
    (ht : t.store = s.store.dropRef id) : s.referenceDropped t id k := by
  refine ⟨fun hk => ?_, fun hr h1 => ?_⟩
  · rw [ht, dropRef_of_kept h (by tauto)]
    rfl
  · let st := s.store.setClip id (some { k with refs := k.refs - 1 })
    have hst : st.clip id = some { k with refs := k.refs - 1 } := by
      rw [Store.setClip_clip, if_pos rfl]
    have hq : t.store =
        (st.setClip id (some { k with refs := 0, eraseLeft := k.sectors, goneBad := 0 })).appendErase k.run := by
      rw [ht]
      unfold Store.dropRef
      rw [h]
      dsimp only
      rw [if_pos ⟨hr, h1⟩]
      rw [queueClip_eq hst, h1]
      rfl
    refine ⟨?_, ?_, fun j hj => ?_⟩
    · rw [hq]
      unfold Store.clip
      rw [appendErase_dir]
      exact (Store.setClip_clip st id id _).trans (if_pos rfl)
    · rw [hq]
      unfold Store.appendErase
      split
      next he => rw [List.isEmpty_iff.mp he, List.append_nil]; rfl
      · rfl
    · rw [hq]
      unfold Store.appendErase
      rw [if_neg (by rw [List.isEmpty_iff]; exact List.ne_nil_of_mem hj)]
      exact markSectors_of_mem hj

/-! ## An item left -/

/-- A cursor that has left its item, in its pass if it loops (R98). -/
def Cursor.leaving (cur : Cursor) (loop : Bool) : Cursor :=
  { cur with
    clip := none, ring := cur.ring.map emptyRing, played := cur.played || (loop && !cur.gap), gap := false }

theorem leaving_of_pos (cur : Cursor) :
    cur.leaving false = { cur with clip := none, ring := cur.ring.map emptyRing, gap := false } := by
  simp only [Cursor.leaving, Bool.false_and, Bool.or_false]

theorem leaving_of_group {cur : Cursor} (h : cur.gap = false) :
    cur.leaving true = { cur with clip := none, ring := cur.ring.map emptyRing, gap := false, played := true } := by
  simp only [Cursor.leaving, h, Bool.not_false, Bool.and_true, Bool.or_true]

theorem eq_of_no_clip {cur : Cursor} (h : cur.clip = none) : { cur with clip := none } = cur := by
  rw [← h]

section

variable {m : Media} {c : CurIx}

theorem leaveItem_eq (m : Media) (c : CurIx) :
    m.leaveItem c =
      { m with
        cursors := put m.cursors c ((look m.cursors c).leaving (loops c))
        store := (look m.cursors c).clip.elim m.store m.store.dropRef } := by
  unfold Media.leaveItem Media.dropReference
  cases h : (look m.cursors c).clip with
  | none =>
    have hcur : (look m.cursors c).leaving (loops c) =
        { look m.cursors c with
          ring := (look m.cursors c).ring.map emptyRing
          played := (look m.cursors c).played || (loops c && !(look m.cursors c).gap)
          gap := false } := by
      rw [Cursor.leaving, ← h]
    rw [hcur]
    rfl
  | some id =>
    simp only [Media.onCur, Media.onStore, upd_upd]
    rfl

theorem leaveItem_cursor (m : Media) (c : CurIx) :
    look (m.leaveItem c).cursors c = (look m.cursors c).leaving (loops c) := by
  rw [leaveItem_eq]
  exact look_put_self ..

theorem leaveItem_postings (m : Media) (c : CurIx) : (m.leaveItem c).postings = m.postings := by
  rw [leaveItem_eq]

theorem drop_of_getElem? {α : Type} {l : List α} {i : Nat} {x : α} (h : l[i]? = some x) :
    l.drop i = x :: l.drop (i + 1) := by
  obtain ⟨hlt, rfl⟩ := List.getElem?_eq_some_iff.mp h
  exact List.drop_eq_getElem_cons hlt

/-! ## An item entered at its start -/

theorem enterItems_silence (m : Media) (c : CurIx) (ms : Nat) (rest : List Item) (i : Nat) :
    m.enterItems c (.silence ms :: rest) i 0 =
      (m.onCur c fun cur => { cur with index := i, place := 8 * ms }, true) := rfl

theorem enterItems_tone (m : Media) (c : CurIx) (k : Fin 8) (ms : Nat) (rest : List Item) (i : Nat) :
    m.enterItems c (.tone k ms :: rest) i 0 =
      (m.onCur c fun cur => { cur with index := i, place := 8 * ms, phase := 0 }, true) := rfl

theorem enterItems_valid {id : ClipIx} (gain : Int) (rest : List Item) (i : Nat) (h : m.store.valid id) :
    m.enterItems c (.clip id gain :: rest) i 0 =
      ((m.onStore fun st => st.takeRef id).onCur c fun cur =>
        { cur with index := i, place := 0, clip := some id, requested := 0 }, true) :=
  if_pos ((grants_iff ..).mpr h)

theorem enterItems_missing {id : ClipIx} (gain : Int) (rest : List Item) (i : Nat) (h : ¬ m.store.valid id) :
    m.enterItems c (.clip id gain :: rest) i 0 =
      (m.raise .clipMissing (ownerSubject c) (detail1 (byte id)) none).enterItems c rest (i + 1) 0 :=
  if_neg (mt (grants_iff ..).mp h)

/-- An event that resolves to no position posts nothing. -/
theorem raise_none (m : Media) (k : EventKind) (x : Subject) (d : BitVec 16) :
    m.raise k x d none = { m with router := m.router.record k x d } := by
  rw [Media.raise, show m.router.posting k none = [] from rfl, List.append_nil]

/-! ## The refill asked for -/

theorem issueRefill_of_no_clip (h : (look m.cursors c).clip = none) : m.issueRefill c = m := by
  have hn : (look m.cursors c).nextRefill c m.store = none := by
    unfold Cursor.nextRefill
    rw [h]
    cases (look m.cursors c).ring <;> rfl
  unfold Media.issueRefill
  rw [hn]

/-- A refill changes the ring, the offset asked for and what is outstanding of its cursor. -/
theorem issueRefill_cursor_eq (m : Media) (c : CurIx) :
    look (m.issueRefill c).cursors c =
      { look m.cursors c with
        ring := (look (m.issueRefill c).cursors c).ring
        requested := (look (m.issueRefill c).cursors c).requested
        refill := (look (m.issueRefill c).cursors c).refill } := by
  rw [issueRefill_cursor]
  cases (look m.cursors c).nextRefill c m.store <;> rfl

/-- The first refill of a clip just entered (R94). -/
theorem asksFor_of_entered {t : State} {cur nxt : Cursor} {ring : Vector RingSeg 2} {id : ClipIx} {gain : Int}
    (ht : t.toMedia = m.issueRefill c) (hn : look m.cursors c = nxt) (hr : nxt.ring = some ring)
    (hc : nxt.clip = some id) (hi : nxt.item = some (.clip id gain)) (hf : nxt.refill = cur.refill)
    (hq : nxt.requested = cur.requested) : t.asksFor c cur ring id := by
  subst hn
  refine asksFor_of (st := m.store) hr hc hi hf hq ?_ ?_ fun rf h => ?_
  · rw [ht]
    exact (issueRefill_framed m c).clip id
  · rw [ht, issueRefill_cursor]
  · rw [ht]
    exact issueRefill_mem h

end

end Sys2Proof.Machine
end

section
/-! PROOFS. The end of an item: the next item, the next pass, or the stop. -/

namespace Sys2Proof.Machine

/-! ## Owners -/

theorem ownerOf_posCursor (p : PosIx) : ownerOf (posCursor p) = .inr p := by
  unfold ownerOf posCursor
  rw [dif_neg (by simp)]
  simp

theorem ownerOf_groupCursor (g : GroupIx) : ownerOf (groupCursor g) = .inl g := by
  unfold ownerOf groupCursor
  rw [dif_pos g.isLt]

theorem ownerSubject_posCursor (p : PosIx) : ownerSubject (posCursor p) = .position p := by
  rw [ownerSubject, ownerOf_posCursor]

theorem ownerSubject_groupCursor (g : GroupIx) : ownerSubject (groupCursor g) = .group g := by
  rw [ownerSubject, ownerOf_groupCursor]

theorem loops_posCursor (p : PosIx) : loops (posCursor p) = false := by
  unfold loops posCursor
  exact decide_eq_false (by simp)

theorem loops_groupCursor (g : GroupIx) : loops (groupCursor g) = true := by
  unfold loops groupCursor
  exact decide_eq_true g.isLt

/-! ## What a cursor leaves, by what it is then -/

/-- `Media` once a cursor has left its item, where the cursor then stands as `x`. -/
def Media.left (m : Media) (c : CurIx) (x : Cursor) : Media :=
  { m with
    cursors := put m.cursors c x
    store := (look m.cursors c).clip.elim m.store m.store.dropRef }

section

variable {m : Media} {c : CurIx} {p : PosIx} {g : GroupIx}

theorem leaveItem_left (m : Media) (c : CurIx) : m.leaveItem c = m.left c ((look m.cursors c).leaving (loops c)) :=
  leaveItem_eq m c

theorem left_onCur (m : Media) (c : CurIx) (x : Cursor) (f : Cursor → Cursor) :
    (m.left c x).onCur c f = m.left c (f x) := by
  simp only [Media.left, Media.onCur, upd_put]

theorem left_cursor (m : Media) (c : CurIx) (x : Cursor) : look (m.left c x).cursors c = x := look_put_self ..

theorem left_of_no_clip (h : (look m.cursors c).clip = none) (x : Cursor) :
    m.left c x = { m with cursors := put m.cursors c x } := by
  rw [Media.left, h]
  rfl

theorem leaving_pos_of_no_clip {cur : Cursor} (h : cur.clip = none) :
    cur.leaving false = { cur with ring := cur.ring.map emptyRing, gap := false } := by
  rw [leaving_of_pos, ← h]

theorem leaving_group_of_no_clip {cur : Cursor} (h : cur.clip = none) (hg : cur.gap = false) :
    cur.leaving true = { cur with ring := cur.ring.map emptyRing, gap := false, played := true } := by
  rw [leaving_of_group hg, ← h]

theorem enterAt_left (m : Media) (c : CurIx) (i : Nat) :
    (m.leaveItem c).enterAt c i 0 =
      (m.left c ((look m.cursors c).leaving (loops c))).enterItems c ((look m.cursors c).items.drop i) i 0 := by
  rw [Media.enterAt, leaveItem_cursor, leaveItem_left]
  rfl

theorem enterAt_silence {i ms : Nat} (hi : (look m.cursors c).items[i]? = some (.silence ms)) :
    (m.leaveItem c).enterAt c i 0 =
      (m.left c { (look m.cursors c).leaving (loops c) with index := i, place := 8 * ms }, true) := by
  rw [enterAt_left, drop_of_getElem? hi, enterItems_silence, left_onCur]

theorem enterAt_tone {i ms : Nat} {k : Fin 8} (hi : (look m.cursors c).items[i]? = some (.tone k ms)) :
    (m.leaveItem c).enterAt c i 0 =
      (m.left c { (look m.cursors c).leaving (loops c) with index := i, place := 8 * ms, phase := 0 }, true) := by
  rw [enterAt_left, drop_of_getElem? hi, enterItems_tone, left_onCur]

theorem enterAt_past {i : Nat} (hi : (look m.cursors c).items.length ≤ i) :
    (m.leaveItem c).enterAt c i 0 = (m.leaveItem c, false) := by
  rw [enterAt_left, List.drop_eq_nil_of_le hi, leaveItem_left]
  rfl

/-- A clip that is not VALID is skipped with CLIP_MISSING (R93). -/
theorem enterAt_skip {i ms : Nat} {id : ClipIx} {gain : Int} (hc : (look m.cursors c).clip = none)
    (hi : (look m.cursors c).items[i]? = some (.clip id gain)) (hv : ¬ m.store.valid id)
    (hn : (look m.cursors c).items[i + 1]? = some (.silence ms)) :
    (m.leaveItem c).enterAt c i 0 =
      ({ m with
        router := m.router.record .clipMissing (ownerSubject c) (detail1 (byte id))
        cursors := put m.cursors c { (look m.cursors c).leaving (loops c) with index := i + 1, place := 8 * ms } },
        true) := by
  have hv' : ¬ (m.left c ((look m.cursors c).leaving (loops c))).store.valid id := by
    rw [left_of_no_clip hc]
    exact hv
  rw [enterAt_left, drop_of_getElem? hi, drop_of_getElem? hn, enterItems_missing _ _ _ hv', raise_none,
    enterItems_silence, left_of_no_clip hc]
  simp only [Media.onCur, upd_put]

theorem enterAt_valid {i : Nat} {id : ClipIx} {gain : Int} (hc : (look m.cursors c).clip = none)
    (hi : (look m.cursors c).items[i]? = some (.clip id gain)) (hv : m.store.valid id) :
    (m.leaveItem c).enterAt c i 0 =
      ({ m with
        store := m.store.takeRef id
        cursors := put m.cursors c
          { (look m.cursors c).leaving (loops c) with index := i, place := 0, clip := some id, requested := 0 } },
        true) := by
  have hv' : (m.left c ((look m.cursors c).leaving (loops c))).store.valid id := by
    rw [left_of_no_clip hc]
    exact hv
  rw [enterAt_left, drop_of_getElem? hi, enterItems_valid _ _ _ hv', left_of_no_clip hc]
  simp only [Media.onCur, Media.onStore, upd_put]

end

/-! ## The end of an item within a list -/

section

variable {s : State} {p : PosIx} {g : GroupIx}

theorem itemEnd_pos (hs : (look s.cursors (posCursor p)).state = .playing)
    (he : (look s.cursors (posCursor p)).atEnd s.store = true) :
    s.toUnits.itemEnd (posCursor p) = s.toUnits.posItemEnd p := by
  unfold Units.itemEnd
  dsimp only
  rw [if_pos ⟨hs, he⟩, ownerOf_posCursor]

theorem itemEnd_group (hs : (look s.cursors (groupCursor g)).state = .playing)
    (he : (look s.cursors (groupCursor g)).atEnd s.store = true) :
    s.toUnits.itemEnd (groupCursor g) = s.toUnits.groupItemEnd g := by
  unfold Units.itemEnd
  dsimp only
  rw [if_pos ⟨hs, he⟩, ownerOf_groupCursor]

/-- What an item end leads to where it posts nothing. -/
theorem exec_itemEnd_of {c : CurIx} {t : Units} (h : s.toUnits.itemEnd c = t) (ht : t.postings = []) :
    exec (.itemEnd c) s = .next { s with toUnits := t } := by
  show Host.Outcome.next (s.onUnits fun u => u.itemEnd c).settled = _
  rw [State.onUnits, h]
  exact congrArg Host.Outcome.next (settled_of_none (s := { s with toUnits := t }) ht)

/-- A position cursor that enters another item asks for its first refill and goes on (R98). -/
theorem exec_itemEnd_pos {m : Media} (hs : (look s.cursors (posCursor p)).state = .playing)
    (he : (look s.cursors (posCursor p)).atEnd s.store = true)
    (h : (s.toMedia.leaveItem (posCursor p)).enterAt (posCursor p) ((look s.cursors (posCursor p)).index + 1) 0 =
      (m, true)) (hm : m.postings = []) :
    exec (.itemEnd (posCursor p)) s = .next { s with toMedia := m.issueRefill (posCursor p) } := by
  refine exec_itemEnd_of (t := { s.toUnits with toMedia := m.issueRefill (posCursor p) }) ?_
    ((issueRefill_framed ..).postings.trans hm)
  rw [itemEnd_pos hs he]
  unfold Units.posItemEnd
  dsimp only
  rw [h]
  rfl

/-- So does a group cursor within its pass. -/
theorem exec_itemEnd_group {m : Media} (hs : (look s.cursors (groupCursor g)).state = .playing)
    (he : (look s.cursors (groupCursor g)).atEnd s.store = true) (hg : (look s.cursors (groupCursor g)).gap = false)
    (hp : (look s.groups g).pendingChange = false)
    (h : (s.toMedia.leaveItem (groupCursor g)).enterAt (groupCursor g)
      ((look s.cursors (groupCursor g)).index + 1) 0 = (m, true)) (hm : m.postings = []) :
    exec (.itemEnd (groupCursor g)) s = .next { s with toMedia := m.issueRefill (groupCursor g) } := by
  refine exec_itemEnd_of (t := { s.toUnits with toMedia := m.issueRefill (groupCursor g) }) ?_
    ((issueRefill_framed ..).postings.trans hm)
  rw [itemEnd_group hs he]
  unfold Units.groupItemEnd
  dsimp only
  rw [hg, Units.onMedia_groups, hp, Bool.or_self, if_neg Bool.false_ne_true, Units.onMedia_toMedia, h]
  rfl

/-! ## The stop -/

/-- A cursor that does not wait, stopped: it holds nothing (R93, R100). -/
theorem stopCursor_blank {legs : Vector Leg 64} {m : Media} {c : CurIx} (hs : (look m.cursors c).state ≠ .stopped)
    (hw : m.pool.waits (.cursor c) = false) :
    (look (m.stopCursor legs c).cursors c).snapshot = none ∧ (look (m.stopCursor legs c).cursors c).ring = none ∧
      (look (m.stopCursor legs c).cursors c).clip = none ∧ (m.stopCursor legs c).pool.waits (.cursor c) = false := by
  let v := (m.dropReference c).withdrawRefill c
  have hclip : (look v.cursors c).clip = none := by
    show (look ((m.dropReference c).onCur c _).cursors c).clip = none
    rw [Media.onCur_cursors, look_upd_self]
    show (look (m.dropReference c).cursors c).clip = none
    unfold Media.dropReference
    split
    next h => exact h
    · rw [Media.onStore_cursors, Media.onCur_cursors, look_upd_self]
  have hwaits : v.pool.waits (.cursor c) = false := by
    have hpool : v.pool = m.pool := by
      show (m.dropReference c).pool = m.pool
      unfold Media.dropReference
      split <;> rfl
    rw [hpool]
    exact hw
  have hgive : (look (v.giveRing legs c).cursors c).ring = none ∧ (look (v.giveRing legs c).cursors c).clip = none ∧
      (v.giveRing legs c).pool.waits (.cursor c) = false := by
    unfold Media.giveRing
    split
    next r _ =>
      let w := (v.onCur c fun cur => { cur with ring := none }).onPool fun q =>
        q.mark [(look r 0).num, (look r 1).num] .free
      have hcur : look w.cursors c = { look v.cursors c with ring := none } := look_upd_self ..
      obtain ⟨h1, h2⟩ := (pass_plays legs w).other c nofun hwaits
      exact ⟨by rw [show look (Media.release legs _ _).cursors c = _ from h1, hcur],
        by rw [show look (Media.release legs _ _).cursors c = _ from h1, hcur]; exact hclip, h2⟩
    next h =>
      unfold Media.withdraw
      rw [if_neg (by rw [hwaits]; exact Bool.false_ne_true)]
      exact ⟨h, hclip, hwaits⟩
  have hstop : m.stopCursor legs c = (v.giveRing legs c).onCur c Cursor.stopped := if_neg hs
  rw [hstop, Media.onCur_cursors, look_upd_self]
  exact ⟨rfl, hgive.1, hgive.2.1, hgive.2.2⟩

theorem leaveItem_waits (m : Media) (c : CurIx) (w : Requester) :
    (m.leaveItem c).pool.waits w = m.pool.waits w := by
  rw [leaveItem_eq]

theorem connectReport_cursor {u : Units} {p q : PosIx} (cause : CutCause)
    (hw : u.pool.waits (.cursor (posCursor q)) = false) :
    look (u.connectReport p cause).cursors (posCursor q) = look u.cursors (posCursor q) := by
  unfold Units.connectReport
  split
  · rfl
  next n _ =>
    dsimp only
    split
    · rw [cutThrough_eq]
      refine ((leaveFrom_plays (u.onLeg n Leg.cut) n (look u.legs n).group).other (posCursor q) ?_ hw).1
      cases (look u.legs n).group with
      | none => exact nofun
      | some g => simpa using posCursor_ne_groupCursor q g
    · rfl

theorem completeEntry_whisper (u : Units) (p : PosIx) (e : Entry) :
    (u.completeEntry p e).whisper = upd u.whisper p fun w => { w with playing := .none } := by
  unfold Units.completeEntry
  dsimp only
  split
  · exact connectReport_whisper ..
  · rfl

theorem completeEntry_cursor {u : Units} {p : PosIx} (e : Entry)
    (hw : u.pool.waits (.cursor (posCursor p)) = false) :
    look (u.completeEntry p e).cursors (posCursor p) = look u.cursors (posCursor p) := by
  unfold Units.completeEntry
  dsimp only
  split
  · exact connectReport_cursor _ hw
  · rfl

/-- A position's cursor at its list end (R98). -/
def Units.ended (u : Units) (p : PosIx) : Units :=
  (u.onMedia fun m => m.leaveItem (posCursor p)).stopPos p

theorem posItemEnd_of_end {e : Entry}
    (hi : (look s.cursors (posCursor p)).items.length ≤ (look s.cursors (posCursor p)).index + 1)
    (hw : look s.whisper p = { queue := [], playing := .prompt e, stack := [] }) :
    s.toUnits.posItemEnd p = (s.toUnits.ended p).completeEntry p e := by
  have hnext : ((s.toUnits.ended p).completeEntry p e).next p = (s.toUnits.ended p).completeEntry p e := by
    have hwhisper : look ((s.toUnits.ended p).completeEntry p e).whisper p =
        { queue := [], playing := .none, stack := [] } := by
      rw [completeEntry_whisper, look_upd_self]
      show { look s.whisper p with playing := Playing.none } = _
      rw [hw]
    exact next_of_empty (by rw [hwhisper]) (by rw [hwhisper])
  have hplay : (look (s.toUnits.ended p).whisper p).playing = .prompt e := by
    show (look s.whisper p).playing = _
    rw [hw]
  rw [← hnext]
  unfold Units.posItemEnd
  dsimp only
  rw [enterAt_past hi, if_neg Bool.false_ne_true]
  show (match (look (s.toUnits.ended p).whisper p).playing with
    | .prompt e => ((s.toUnits.ended p).completeEntry p e).next p
    | .none | .coach => s.toUnits.ended p) = _
  rw [hplay]

theorem ended_keeps (u : Units) (p : PosIx) : u.Keeps (u.ended p) :=
  (units_onMedia_keeps _ _ (leaveItem_keeps ..)).trans (stopPos_keeps ..)

theorem ended_blank (hs : (look s.cursors (posCursor p)).state = .playing)
    (hw : s.pool.waits (.cursor (posCursor p)) = false) :
    (look (s.toUnits.ended p).cursors (posCursor p)).state = .stopped ∧
      (look (s.toUnits.ended p).cursors (posCursor p)).snapshot = none ∧
      (look (s.toUnits.ended p).cursors (posCursor p)).ring = none ∧
      (look (s.toUnits.ended p).cursors (posCursor p)).clip = none ∧
      (s.toUnits.ended p).pool.waits (.cursor (posCursor p)) = false := by
  have hstate : (look (s.toMedia.leaveItem (posCursor p)).cursors (posCursor p)).state ≠ .stopped := by
    rw [leaveItem_cursor]
    exact fun h => nomatch hs.symm.trans h
  exact ⟨stopCursor_stopped .., stopCursor_blank (legs := s.legs) hstate ((leaveItem_waits ..).trans hw)⟩

end

end Sys2Proof.Machine
end

section
/-! PROOFS. The end of a position cursor's item: the next item, or the list end. -/

namespace Sys2Proof.Machine

/-- A cursor with its segments emptied, outside the silence of an empty pass. -/
def Cursor.emptied (cur : Cursor) : Cursor := { cur with ring := cur.ring.map emptyRing, gap := false }

theorem items_of_snapshot {cur : Cursor} {sn : Snapshot} (h : cur.snapshot = some sn) : cur.items = sn.items := by
  rw [Cursor.items, h]

theorem item_of_get {cur : Cursor} {it : Item} (hg : cur.gap = false) (hi : cur.items[cur.index]? = some it) :
    cur.item = some it := by
  cases hs : cur.snapshot with
  | none => simp [Cursor.items, hs] at hi
  | some sn =>
    rw [items_of_snapshot hs] at hi
    simp only [Cursor.item, hg, hs, hi]

/-! ## The next item -/

section

variable {s : State} {p : PosIx} {i ms : Nat} {id : ClipIx} {gain : Int}

/-- An item other than a clip asks for no refill: what its entry leaves is what the state is. -/
theorem exec_itemEnd_pos_quiet {x : Cursor} {r : Router} (hp : s.postings = [])
    (hs : (look s.cursors (posCursor p)).state = .playing)
    (he : (look s.cursors (posCursor p)).atEnd s.store = true)
    (h : (s.toMedia.leaveItem (posCursor p)).enterAt (posCursor p) ((look s.cursors (posCursor p)).index + 1) 0 =
      ({ s.toMedia with router := r, cursors := put s.cursors (posCursor p) x }, true)) (hx : x.clip = none) :
    exec (.itemEnd (posCursor p)) s = .next { s with router := r, cursors := put s.cursors (posCursor p) x } := by
  rw [exec_itemEnd_pos hs he h hp, issueRefill_of_no_clip (by rw [look_put_self]; exact hx)]

theorem posEnters_silence (hp : s.postings = []) (hs : (look s.cursors (posCursor p)).state = .playing)
    (he : (look s.cursors (posCursor p)).atEnd s.store = true) (hc : (look s.cursors (posCursor p)).clip = none)
    (hi : (look s.cursors (posCursor p)).items[(look s.cursors (posCursor p)).index + 1]? = some (.silence ms)) :
    exec (.itemEnd (posCursor p)) s =
      .next { s with
        cursors := put s.cursors (posCursor p)
          { (look s.cursors (posCursor p)).emptied with
            index := (look s.cursors (posCursor p)).index + 1, place := 8 * ms } } := by
  refine exec_itemEnd_pos_quiet hp hs he ?_ hc
  rw [enterAt_silence hi, loops_posCursor, leaving_pos_of_no_clip hc, left_of_no_clip hc]
  rfl

theorem posEnters_tone {k : Fin 8} (hp : s.postings = [])
    (hs : (look s.cursors (posCursor p)).state = .playing)
    (he : (look s.cursors (posCursor p)).atEnd s.store = true) (hc : (look s.cursors (posCursor p)).clip = none)
    (hi : (look s.cursors (posCursor p)).items[(look s.cursors (posCursor p)).index + 1]? = some (.tone k ms)) :
    exec (.itemEnd (posCursor p)) s =
      .next { s with
        cursors := put s.cursors (posCursor p)
          { (look s.cursors (posCursor p)).emptied with
            index := (look s.cursors (posCursor p)).index + 1, place := 8 * ms, phase := 0 } } := by
  refine exec_itemEnd_pos_quiet hp hs he ?_ hc
  rw [enterAt_tone hi, loops_posCursor, leaving_pos_of_no_clip hc, left_of_no_clip hc]
  rfl

theorem posSkips_clip (hp : s.postings = []) (hs : (look s.cursors (posCursor p)).state = .playing)
    (he : (look s.cursors (posCursor p)).atEnd s.store = true) (hc : (look s.cursors (posCursor p)).clip = none)
    (hi : (look s.cursors (posCursor p)).items[(look s.cursors (posCursor p)).index + 1]? = some (.clip id gain))
    (hv : ¬ s.store.valid id)
    (hn : (look s.cursors (posCursor p)).items[(look s.cursors (posCursor p)).index + 2]? = some (.silence ms)) :
    exec (.itemEnd (posCursor p)) s =
      .next { s with
        router := s.router.record .clipMissing (.position p) (detail1 (byte id))
        cursors := put s.cursors (posCursor p)
          { (look s.cursors (posCursor p)).emptied with
            index := (look s.cursors (posCursor p)).index + 2, place := 8 * ms } } := by
  refine exec_itemEnd_pos_quiet hp hs he ?_ hc
  rw [enterAt_skip hc hi hv hn, loops_posCursor, leaving_pos_of_no_clip hc, ownerSubject_posCursor]
  rfl

/-- The position's cursor as it enters a clip. -/
def Cursor.entersClip (cur : Cursor) (i : Nat) (id : ClipIx) : Cursor :=
  { cur.emptied with index := i, place := 0, clip := some id, requested := 0 }

theorem posEnters_clip {k : Clip} (hp : s.postings = []) (hs : (look s.cursors (posCursor p)).state = .playing)
    (he : (look s.cursors (posCursor p)).atEnd s.store = true) (hc : (look s.cursors (posCursor p)).clip = none)
    (hi : (look s.cursors (posCursor p)).items[(look s.cursors (posCursor p)).index + 1]? = some (.clip id gain))
    (hk : s.store.clip id = some k) (hv : k.state = .valid) :
    ∃ t : State, exec (.itemEnd (posCursor p)) s = .next t ∧ (look t.cursors (posCursor p)).clip = some id ∧
      (look t.cursors (posCursor p)).index = (look s.cursors (posCursor p)).index + 1 ∧
      (look t.cursors (posCursor p)).place = 0 ∧ (t.store.clip id).map Clip.refs = some (k.refs + 1) ∧
      ∀ r, (look s.cursors (posCursor p)).ring = some r →
        t.asksFor (posCursor p) { look s.cursors (posCursor p) with requested := 0 } (emptyRing r) id := by
  let x := (look s.cursors (posCursor p)).entersClip ((look s.cursors (posCursor p)).index + 1) id
  let m : Media := { s.toMedia with store := s.store.takeRef id, cursors := put s.cursors (posCursor p) x }
  have hent : (s.toMedia.leaveItem (posCursor p)).enterAt (posCursor p)
      ((look s.cursors (posCursor p)).index + 1) 0 = (m, true) := by
    rw [enterAt_valid hc hi ⟨k, hk, hv⟩, loops_posCursor, leaving_pos_of_no_clip hc]
    rfl
  have hx : look m.cursors (posCursor p) = x := look_put_self ..
  refine ⟨_, exec_itemEnd_pos hs he hent hp, ?_, ?_, ?_, ?_, fun r hr => ?_⟩
  · show (look (m.issueRefill (posCursor p)).cursors (posCursor p)).clip = some id
    rw [issueRefill_cursor_eq, hx]
    rfl
  · show (look (m.issueRefill (posCursor p)).cursors (posCursor p)).index = _
    rw [issueRefill_cursor_eq, hx]
    rfl
  · show (look (m.issueRefill (posCursor p)).cursors (posCursor p)).place = 0
    rw [issueRefill_cursor_eq, hx]
    rfl
  · refine (congrArg (Option.map Clip.refs) ((issueRefill_framed m _).clip id)).trans ?_
    rw [show m.store = s.store.takeRef id from rfl, takeRef_clip hk]
    rfl
  · refine asksFor_of_entered (m := m) (gain := gain) rfl hx ?_ rfl (item_of_get rfl hi) rfl rfl
    show (look s.cursors (posCursor p)).ring.map emptyRing = some (emptyRing r)
    rw [hr]
    rfl

theorem posLeaves_clip {k : Clip} (hp : s.postings = []) (hs : (look s.cursors (posCursor p)).state = .playing)
    (he : (look s.cursors (posCursor p)).atEnd s.store = true)
    (hc : (look s.cursors (posCursor p)).clip = some id) (hk : s.store.clip id = some k)
    (hi : (look s.cursors (posCursor p)).items[(look s.cursors (posCursor p)).index + 1]? = some (.silence ms)) :
    ∃ t : State, exec (.itemEnd (posCursor p)) s = .next t ∧
      t.cursors = put s.cursors (posCursor p)
        { (look s.cursors (posCursor p)).emptied with
          clip := none, index := (look s.cursors (posCursor p)).index + 1, place := 8 * ms } ∧
      s.referenceDropped t id k := by
  have h := enterAt_silence hi
  rw [loops_posCursor, leaving_of_pos] at h
  refine ⟨_, exec_itemEnd_pos hs he h hp, ?_, referenceDropped_of hk ?_⟩ <;>
    rw [issueRefill_of_no_clip (by rw [left_cursor])]
  · rfl
  · show Option.elim (look s.cursors (posCursor p)).clip s.store s.store.dropRef = _
    rw [hc]
    rfl

end

/-! ## The list end -/

section

variable {s : State} {p : PosIx} {e : Entry}

theorem endedEntry_keeps (u : Units) (p : PosIx) (e : Entry) : u.Keeps ((u.ended p).completeEntry p e) :=
  (ended_keeps ..).trans (completeEntry_keeps ..)

theorem exec_itemEnd_last (hp : s.postings = []) (hs : (look s.cursors (posCursor p)).state = .playing)
    (he : (look s.cursors (posCursor p)).atEnd s.store = true)
    (hi : (look s.cursors (posCursor p)).items.length ≤ (look s.cursors (posCursor p)).index + 1)
    (hw : look s.whisper p = { queue := [], playing := .prompt e, stack := [] }) (hr : s.noCueRoutes) :
    exec (.itemEnd (posCursor p)) s = .next { s with toUnits := (s.toUnits.ended p).completeEntry p e } :=
  exec_itemEnd_of ((itemEnd_pos hs he).trans (posItemEnd_of_end hi hw))
    (((endedEntry_keeps s.toUnits p e).media.postings hr).trans hp)

/-- An entry that no call waits for is done with WHISPER_DONE (R118). -/
theorem endedEntry_last (hc : e.connect = false) (h : (s.router.route .whisperDone).notify = true) :
    ((s.toUnits.ended p).completeEntry p e).router.overflow = true ∨
      ((s.toUnits.ended p).completeEntry p e).router.notices.getLast? =
        some
          { kind := .whisperDone, subject := .position p, stamp := s.router.stamp
            detail := detail2 (byte e.cue) e.origin.code } := by
  have hk := (ended_keeps s.toUnits p).media
  have hlast := record_last (.position p) (detail2 (byte e.cue) e.origin.code)
    ((congrArg Route.notify (route_of_keeps hk .whisperDone)).trans h)
  rw [hk.stamp] at hlast
  unfold Units.completeEntry
  dsimp only
  rw [hc, if_neg Bool.false_ne_true]
  exact hlast

/-- A connect entry that completes cuts its call through (R29). -/
theorem endedEntry_cuts {n : LegIx} (hc : e.connect = true) (hb : (look s.pos p).bound = some n)
    (hl : (look s.legs n).state = .connecting) (hf : (look s.legs n).connectRef = true) :
    (s.toUnits.ended p).completeEntry p e =
      ((s.toUnits.ended p).onWhisper p fun w => { w with playing := .none }).cutThrough n .completed := by
  unfold Units.completeEntry
  dsimp only
  rw [if_pos hc]
  unfold Units.connectReport
  rw [show (look ((s.toUnits.ended p).onWhisper p fun w => { w with playing := .none }).pos p).bound = some n from hb]
  exact if_pos ⟨hl, hf⟩

theorem posItemEnd_completes (hp : s.postings = []) (hs : (look s.cursors (posCursor p)).state = .playing)
    (he : (look s.cursors (posCursor p)).atEnd s.store = true)
    (hi : (look s.cursors (posCursor p)).items.length ≤ (look s.cursors (posCursor p)).index + 1)
    (hw : look s.whisper p = { queue := [], playing := .prompt e, stack := [] }) (hr : s.noCueRoutes)
    (hq : s.pool.waits (.cursor (posCursor p)) = false) :
    ∃ t : State, exec (.itemEnd (posCursor p)) s = .next t ∧ (look t.cursors (posCursor p)).state = .stopped ∧
      (look t.cursors (posCursor p)).snapshot = none ∧ (look t.cursors (posCursor p)).ring = none ∧
      (look t.cursors (posCursor p)).clip = none ∧
      look t.whisper p = { queue := [], playing := .none, stack := [] } ∧
      (e.connect = false → (s.router.route .whisperDone).notify = true →
        t.router.overflow = true ∨
          t.router.notices.getLast? =
            some
              { kind := .whisperDone, subject := .position p, stamp := s.router.stamp
                detail := detail2 (byte e.cue) e.origin.code }) ∧
      ∀ n, e.connect = true → (look s.pos p).bound = some n → (look s.legs n).state = .connecting →
        (look s.legs n).connectRef = true →
        look t.legs n = (look s.legs n).cut ∧
          ((s.router.route .cutThrough).notify = true →
            t.router.overflow = true ∨
              t.router.notices.getLast? =
                some
                  { kind := .cutThrough, subject := .leg n, stamp := s.router.stamp
                    detail := detail2 0 (ixByte (look s.legs n).owner) }) := by
  obtain ⟨hstate, hsnap, hring, hclip, hwaits⟩ := ended_blank hs hq
  have hcur := completeEntry_cursor e hwaits
  refine ⟨_, exec_itemEnd_last hp hs he hi hw hr, (congrArg Cursor.state hcur).trans hstate,
    (congrArg Cursor.snapshot hcur).trans hsnap, (congrArg Cursor.ring hcur).trans hring,
    (congrArg Cursor.clip hcur).trans hclip, ?_, endedEntry_last, fun n hc hb hl hf => ⟨?_, fun h => ?_⟩⟩
  · show look ((s.toUnits.ended p).completeEntry p e).whisper p = _
    rw [completeEntry_whisper, look_upd_self]
    show { look s.whisper p with playing := Playing.none } = _
    rw [hw]
  · show look ((s.toUnits.ended p).completeEntry p e).legs n = _
    rw [endedEntry_cuts hc hb hl hf, cutThrough_legs, look_upd_self]
    rfl
  · have hk := (ended_keeps s.toUnits p).media
    have hlast := cutThrough_last (u := (s.toUnits.ended p).onWhisper p fun w => { w with playing := .none }) n
      .completed ((congrArg Route.notify (route_of_keeps hk .cutThrough)).trans h)
    rw [show (Units.onWhisper (s.toUnits.ended p) p _).router.stamp = s.router.stamp from hk.stamp] at hlast
    show ((s.toUnits.ended p).completeEntry p e).router.overflow = true ∨ _
    rw [endedEntry_cuts hc hb hl hf]
    exact hlast

end

end Sys2Proof.Machine
end

section
/-! PROOFS. The end of a group cursor's item: the next item, the next pass, or the stop. -/

namespace Sys2Proof.Machine

/-! ## The next item of the pass -/

section

variable {s : State} {g : GroupIx} {ms : Nat} {id : ClipIx}

theorem groupEnters_silence (hp : s.postings = []) (hs : (look s.cursors (groupCursor g)).state = .playing)
    (he : (look s.cursors (groupCursor g)).atEnd s.store = true)
    (hc : (look s.cursors (groupCursor g)).clip = none) (hg : (look s.cursors (groupCursor g)).gap = false)
    (hn : (look s.groups g).pendingChange = false)
    (hi : (look s.cursors (groupCursor g)).items[(look s.cursors (groupCursor g)).index + 1]? = some (.silence ms)) :
    exec (.itemEnd (groupCursor g)) s =
      .next { s with
        cursors := put s.cursors (groupCursor g)
          { (look s.cursors (groupCursor g)).emptied with
            index := (look s.cursors (groupCursor g)).index + 1, place := 8 * ms, played := true } } := by
  have h := enterAt_silence hi
  rw [loops_groupCursor, leaving_group_of_no_clip hc hg, left_of_no_clip hc] at h
  rw [exec_itemEnd_group hs he hg hn h hp, issueRefill_of_no_clip (by rw [look_put_self]; exact hc)]
  rfl

theorem groupLeaves_clip {k : Clip} (hp : s.postings = [])
    (hs : (look s.cursors (groupCursor g)).state = .playing)
    (he : (look s.cursors (groupCursor g)).atEnd s.store = true)
    (hc : (look s.cursors (groupCursor g)).clip = some id) (hk : s.store.clip id = some k)
    (hg : (look s.cursors (groupCursor g)).gap = false) (hn : (look s.groups g).pendingChange = false)
    (hi : (look s.cursors (groupCursor g)).items[(look s.cursors (groupCursor g)).index + 1]? = some (.silence ms)) :
    ∃ t : State, exec (.itemEnd (groupCursor g)) s = .next t ∧
      t.cursors = put s.cursors (groupCursor g)
        { (look s.cursors (groupCursor g)).emptied with
          clip := none, index := (look s.cursors (groupCursor g)).index + 1, place := 8 * ms, played := true } ∧
      t.groups = s.groups ∧ s.referenceDropped t id k := by
  have h := enterAt_silence hi
  rw [loops_groupCursor, leaving_of_group hg] at h
  refine ⟨_, exec_itemEnd_group hs he hg hn h hp, ?_, rfl, referenceDropped_of hk ?_⟩ <;>
    rw [issueRefill_of_no_clip (by rw [left_cursor])]
  · rfl
  · show Option.elim (look s.cursors (groupCursor g)).clip s.store s.store.dropRef = _
    rw [hc]
    rfl

end

/-! ## The pass start -/

/-- A cursor at the start of a pass over a cue list, before it enters an item. -/
def Cursor.passing (cur : Cursor) (q : CueIx) (l : CueList) : Cursor :=
  { cur.emptied with
    clip := none, played := false, snapshot := some { cue := q, items := l.items, duck := l.duck } }

theorem passing_of_no_clip {cur : Cursor} (h : cur.clip = none) (q : CueIx) (l : CueList) :
    cur.passing q l =
      { cur.emptied with
        played := false, snapshot := some { cue := q, items := l.items, duck := l.duck } } := by
  rw [Cursor.passing, ← h]
  rfl

section

variable {m t : Media} {g : GroupIx} {q : CueIx} {id : ClipIx}

theorem newPass_eq (m : Media) (g : GroupIx) (q : CueIx) :
    (m.leaveItem (groupCursor g)).newPass (groupCursor g) q =
      let r := (m.left (groupCursor g) ((look m.cursors (groupCursor g)).passing q (look m.cues q))).enterItems
        (groupCursor g) (look m.cues q).items 0 0
      if r.2 then r.1.issueRefill (groupCursor g) else r.1.onCur (groupCursor g) Cursor.toGap := by
  unfold Media.newPass Media.snap
  dsimp only
  rw [leaveItem_left, left_onCur, left_onCur, Media.enterAt, left_cursor]
  rfl

theorem newPass_of_entered
    (h : (m.left (groupCursor g) ((look m.cursors (groupCursor g)).passing q (look m.cues q))).enterItems
      (groupCursor g) (look m.cues q).items 0 0 = (t, true)) :
    (m.leaveItem (groupCursor g)).newPass (groupCursor g) q = t.issueRefill (groupCursor g) := by
  rw [newPass_eq, h]
  rfl

theorem newPass_of_skipped
    (h : (m.left (groupCursor g) ((look m.cursors (groupCursor g)).passing q (look m.cues q))).enterItems
      (groupCursor g) (look m.cues q).items 0 0 = (t, false)) :
    (m.leaveItem (groupCursor g)).newPass (groupCursor g) q = t.onCur (groupCursor g) Cursor.toGap := by
  rw [newPass_eq, h]
  rfl

/-- A VALID clip is there, with one reference less where the cursor leaves it. -/
theorem left_clip {c : CurIx} {k : Clip} (x : Cursor) (hk : m.store.clip id = some k) (hv : k.state = .valid) :
    (m.left c x).store.clip id =
      some { k with refs := if (look m.cursors c).clip = some id then k.refs - 1 else k.refs } := by
  show (Option.elim (look m.cursors c).clip m.store m.store.dropRef).clip id = _
  cases hc : (look m.cursors c).clip with
  | none => exact hk
  | some j =>
    by_cases hj : j = id
    · subst hj
      rw [if_pos rfl]
      show (m.store.dropRef j).clip j = _
      rw [dropRef_of_kept hk (by simp [hv]), Store.setClip_clip, if_pos rfl]
    · rw [if_neg fun h => hj (Option.some.inj h)]
      exact (dropRef_clip_of_ne _ hj).trans hk

end

/-- Whether the end of a group's item begins a pass: its source changed, the pass was empty, or this was the last
item. -/
def State.passEnds (s : State) (g : GroupIx) : Prop :=
  (look s.groups g).pendingChange = true ∨ (look s.cursors (groupCursor g)).gap = true ∨
    (look s.cursors (groupCursor g)).items.length ≤ (look s.cursors (groupCursor g)).index + 1

section

variable {s : State} {g : GroupIx} {q : CueIx} {id : ClipIx}

theorem groupItemEnd_passStart (h : s.passEnds g) :
    s.toUnits.groupItemEnd g = (s.toUnits.onMedia fun m => m.leaveItem (groupCursor g)).passStart g := by
  unfold Units.groupItemEnd
  dsimp only
  rw [Units.onMedia_groups]
  split
  · rfl
  next hb =>
    obtain ⟨hgap, hpend⟩ := Bool.or_eq_false_iff.mp (Bool.eq_false_iff.mpr hb)
    have hlast : (look s.cursors (groupCursor g)).items.length ≤ (look s.cursors (groupCursor g)).index + 1 := by
      rcases h with h | h | h
      · exact nomatch hpend.symm.trans h
      · exact nomatch hgap.symm.trans h
      · exact h
    have hplayed : (look (s.toMedia.leaveItem (groupCursor g)).cursors (groupCursor g)).played = true := by
      rw [leaveItem_cursor, loops_groupCursor, leaving_of_group hgap]
    rw [Units.onMedia_toMedia, enterAt_past hlast, if_neg Bool.false_ne_true]
    exact if_pos hplayed

theorem passStart_playable {u : Units} (hsrc : (look u.groups g).source = some q)
    (hq : (look u.cues q).items ≠ []) :
    u.passStart g = (u.onGroup g fun gr => { gr with pendingChange := false }).onMedia fun m =>
      m.newPass (groupCursor g) q := by
  have hplay : (u.onGroup g fun gr => { gr with pendingChange := false }).playable g = some q := by
    unfold Units.playable
    rw [show look (u.onGroup g fun gr => { gr with pendingChange := false }).groups g = _ from look_upd_self ..]
    dsimp only
    rw [hsrc]
    exact if_neg (mt List.isEmpty_iff.mp hq)
  unfold Units.passStart
  dsimp only
  rw [hplay]

theorem passStart_unplayable {u : Units} (h : ∀ q, (look u.groups g).source = some q → (look u.cues q).items = []) :
    u.passStart g = (u.onGroup g fun gr => { gr with pendingChange := false }).stopUnplayable g := by
  have hplay : (u.onGroup g fun gr => { gr with pendingChange := false }).playable g = none := by
    unfold Units.playable
    rw [show look (u.onGroup g fun gr => { gr with pendingChange := false }).groups g = _ from look_upd_self ..]
    dsimp only
    cases hsrc : (look u.groups g).source with
    | none => rfl
    | some q => exact if_pos (List.isEmpty_iff.mpr (h q hsrc))
  unfold Units.passStart
  dsimp only
  rw [hplay]

/-- The state once a group's change is met and its cursor begins the pass. -/
theorem exec_itemEnd_pass {t : Media} (hs : (look s.cursors (groupCursor g)).state = .playing)
    (he : (look s.cursors (groupCursor g)).atEnd s.store = true) (h : s.passEnds g)
    (hsrc : (look s.groups g).source = some q) (hq : (look s.cues q).items ≠ [])
    (ht : (s.toMedia.leaveItem (groupCursor g)).newPass (groupCursor g) q = t) (hp : t.postings = []) :
    exec (.itemEnd (groupCursor g)) s =
      .next { s with
        groups := upd s.groups g fun gr => { gr with pendingChange := false }
        toMedia := t } := by
  have hcues : (s.toMedia.leaveItem (groupCursor g)).cues = s.cues := (leaveItem_keeps ..).cues
  refine exec_itemEnd_of
    (t := { s.toUnits with
      groups := upd s.groups g fun gr => { gr with pendingChange := false }
      toMedia := t }) ?_ hp
  rw [itemEnd_group hs he, groupItemEnd_passStart h,
    passStart_playable (u := s.toUnits.onMedia fun m => m.leaveItem (groupCursor g)) hsrc, ← ht]
  · rfl
  · rw [Units.onMedia_toMedia, hcues]
    exact hq

theorem passEnters_clip {gain : Int} {rest : List Item} {k : Clip} (hp : s.postings = [])
    (hs : (look s.cursors (groupCursor g)).state = .playing)
    (he : (look s.cursors (groupCursor g)).atEnd s.store = true) (h : s.passEnds g)
    (hsrc : (look s.groups g).source = some q) (hq : (look s.cues q).items = .clip id gain :: rest)
    (hk : s.store.clip id = some k) (hv : k.state = .valid)
    (hrefs : (look s.cursors (groupCursor g)).clip = some id → 0 < k.refs) :
    ∃ t : State, exec (.itemEnd (groupCursor g)) s = .next t ∧
      t.groups = (upd s.groups g fun gr => { gr with pendingChange := false }) ∧
      look t.cursors (groupCursor g) =
        { (look s.cursors (groupCursor g)).passing q (look s.cues q) with
          index := 0, place := 0, clip := some id
          ring := (look t.cursors (groupCursor g)).ring
          requested := (look t.cursors (groupCursor g)).requested
          refill := (look t.cursors (groupCursor g)).refill } ∧
      (t.store.clip id).map Clip.refs =
        some (if (look s.cursors (groupCursor g)).clip = some id then k.refs else k.refs + 1) ∧
      ∀ r, (look s.cursors (groupCursor g)).ring = some r →
        t.asksFor (groupCursor g) { look s.cursors (groupCursor g) with requested := 0 } (emptyRing r) id := by
  let c := groupCursor g
  let x := (look s.cursors c).passing q (look s.cues q)
  let y : Cursor := { x with index := 0, place := 0, clip := some id, requested := 0 }
  have hleft := left_clip (c := c) x hk hv
  have hent := enterItems_valid (c := c) gain rest 0 (m := s.toMedia.left c x) ⟨_, hleft, hv⟩
  rw [← hq] at hent
  have ht := newPass_of_entered hent
  have hx : look (((s.toMedia.left c x).onStore fun st => st.takeRef id).onCur c fun cur =>
      { cur with index := 0, place := 0, clip := some id, requested := 0 }).cursors c = y := by
    rw [Media.onCur_cursors, look_upd_self]
    show Cursor.mk .. = _
    simp only [Media.onStore_cursors, left_cursor]
    rfl
  refine ⟨_, exec_itemEnd_pass hs he h hsrc (by rw [hq]; exact List.cons_ne_nil _ _) ht
    ((issueRefill_framed ..).postings.trans hp), rfl, ?_, ?_, fun r hr => ?_⟩
  · exact (issueRefill_cursor_eq ..).trans (by rw [hx])
  · refine (congrArg (Option.map Clip.refs) ((issueRefill_framed ..).clip id)).trans ?_
    show Option.map Clip.refs (((s.toMedia.left c x).store.takeRef id).clip id) = _
    rw [takeRef_clip hleft]
    show some ((if (look s.cursors c).clip = some id then k.refs - 1 else k.refs) + 1) = _
    split
    next hc => rw [Nat.sub_add_cancel (hrefs hc)]
    next => rfl
  · refine asksFor_of_entered (gain := gain) rfl hx ?_ rfl (item_of_get rfl ?_) rfl rfl
    · show (look s.cursors c).ring.map emptyRing = some (emptyRing r)
      rw [hr]
      rfl
    · show (look s.cues q).items[0]? = _
      rw [hq]
      rfl

theorem passEnters_silence {ms : Nat} {rest : List Item} (hp : s.postings = [])
    (hs : (look s.cursors (groupCursor g)).state = .playing)
    (he : (look s.cursors (groupCursor g)).atEnd s.store = true) (h : s.passEnds g)
    (hc : (look s.cursors (groupCursor g)).clip = none)
    (hsrc : (look s.groups g).source = some q) (hq : (look s.cues q).items = .silence ms :: rest) :
    exec (.itemEnd (groupCursor g)) s =
      .next { s with
        groups := upd s.groups g fun gr => { gr with pendingChange := false }
        cursors := put s.cursors (groupCursor g)
          { (look s.cursors (groupCursor g)).passing q (look s.cues q) with index := 0, place := 8 * ms } } := by
  have ht := newPass_of_entered (m := s.toMedia) (g := g) (q := q) (by rw [hq]; exact enterItems_silence ..)
  rw [left_onCur, left_of_no_clip hc, issueRefill_of_no_clip (by rw [look_put_self]; rfl)] at ht
  exact exec_itemEnd_pass hs he h hsrc (by rw [hq]; exact List.cons_ne_nil _ _) ht hp

/-- A pass of which every item is skipped goes on in silence (R98). -/
theorem passSkips_clip {gain : Int} (hp : s.postings = [])
    (hs : (look s.cursors (groupCursor g)).state = .playing)
    (he : (look s.cursors (groupCursor g)).atEnd s.store = true) (h : s.passEnds g)
    (hc : (look s.cursors (groupCursor g)).clip = none)
    (hsrc : (look s.groups g).source = some q) (hq : (look s.cues q).items = [.clip id gain])
    (hv : ¬ s.store.valid id) :
    exec (.itemEnd (groupCursor g)) s =
      .next { s with
        groups := upd s.groups g fun gr => { gr with pendingChange := false }
        router := s.router.record .clipMissing (.group g) (detail1 (byte id))
        cursors := put s.cursors (groupCursor g)
          ((look s.cursors (groupCursor g)).passing q (look s.cues q)).toGap } := by
  let x := (look s.cursors (groupCursor g)).passing q (look s.cues q)
  have hv' : ¬ (s.toMedia.left (groupCursor g) x).store.valid id := by
    rw [left_of_no_clip hc]
    exact hv
  have hskip := enterItems_missing (c := groupCursor g) gain [] 0 hv'
  rw [← hq, raise_none, ownerSubject_groupCursor] at hskip
  have ht := newPass_of_skipped (m := s.toMedia) (g := g) (q := q) hskip
  rw [left_of_no_clip hc] at ht
  simp only [Media.onCur, upd_put] at ht
  exact exec_itemEnd_pass hs he h hsrc (by rw [hq]; exact List.cons_ne_nil _ _) ht hp

theorem passStops (hp : s.postings = []) (hs : (look s.cursors (groupCursor g)).state = .playing)
    (he : (look s.cursors (groupCursor g)).atEnd s.store = true) (h : s.passEnds g)
    (hsrc : ∀ q, (look s.groups g).source = some q → (look s.cues q).items = []) (hr : s.noCueRoutes)
    (hw : s.pool.waits (.cursor (groupCursor g)) = false) :
    ∃ t : State, exec (.itemEnd (groupCursor g)) s = .next t ∧ (look t.cursors (groupCursor g)).state = .stopped ∧
      (look t.cursors (groupCursor g)).snapshot = none ∧ (look t.cursors (groupCursor g)).ring = none ∧
      (look t.cursors (groupCursor g)).clip = none ∧
      t.groups = upd s.groups g fun gr => { gr with pendingChange := false, point := none } := by
  have hleave := leaveItem_keeps s.toMedia (groupCursor g)
  have hstate : (look (s.toMedia.leaveItem (groupCursor g)).cursors (groupCursor g)).state ≠ .stopped := by
    rw [leaveItem_cursor]
    exact fun h => nomatch hs.symm.trans h
  obtain ⟨hsnap, hring, hclip, -⟩ := stopCursor_blank (legs := s.legs) hstate ((leaveItem_waits ..).trans hw)
  have hend : s.toUnits.itemEnd (groupCursor g) =
      ((s.toUnits.onMedia fun m => m.leaveItem (groupCursor g)).onGroup g fun gr =>
        { gr with pendingChange := false }).stopUnplayable g := by
    rw [itemEnd_group hs he, groupItemEnd_passStart h, passStart_unplayable]
    rw [Units.onMedia_toMedia, hleave.cues]
    exact hsrc
  have hpost := (hleave.trans (stopCursor_keeps (legs := s.legs) _ (groupCursor g))).postings hr
  refine ⟨_, exec_itemEnd_of hend (hpost.trans hp), stopCursor_stopped .., hsnap, hring, hclip, ?_⟩
  exact upd_upd s.groups g (fun gr => { gr with pendingChange := false }) fun gr => { gr with point := none }

end

/-- Settles O42: within a list the cursor leaves its item and enters the next; a position's list end is the stop and
the completion of its entry, a group's is a pass start over the list as it then stands. -/
theorem itemEndGoesOn : Obligations.ItemEndGoesOn := by
  unfold Obligations.ItemEndGoesOn
  rintro s c _ _ hp rfl rfl
  refine ⟨fun h => ?_, fun hs he => ⟨?_, ?_, ?_, ?_, ?_, ?_, ?_⟩⟩
  · refine congrArg Host.Outcome.next (settled_onUnits_of_eq hp (if_neg fun hn => ?_))
    exact h.elim (fun h => h hn.1) fun h => nomatch h.symm.trans hn.2
  · rintro p sn rfl hsn
    rw [← items_of_snapshot hsn]
    exact ⟨fun hc => ⟨fun ms hi => posEnters_silence hp hs he hc hi,
      fun k ms hi => posEnters_tone hp hs he hc hi,
      fun id gain ms hi hv hn => posSkips_clip hp hs he hc hi hv hn,
      fun id gain k hi hk hv => posEnters_clip hp hs he hc hi hk hv⟩,
      fun id k ms hc hk hi => posLeaves_clip hp hs he hc hk hi⟩
  · rintro p e rfl hi hw hr hq
    exact posItemEnd_completes hp hs he hi hw hr hq
  · rintro g ms rfl hc hg hn hi
    exact groupEnters_silence hp hs he hc hg hn hi
  · rintro g id k ms rfl hc hk hg hn hi
    exact groupLeaves_clip hp hs he hc hk hg hn hi
  · rintro g q _ id gain rest k rfl h hsrc rfl hq hk hv hrefs
    exact passEnters_clip hp hs he h hsrc hq hk hv hrefs
  · rintro g q _ rfl hc h hsrc rfl
    have hpass := passing_of_no_clip hc
    exact ⟨fun ms rest hq => (passEnters_silence hp hs he h hc hsrc hq).trans (by rw [hpass]; rfl),
      fun id gain hq hv => (passSkips_clip hp hs he h hc hsrc hq hv).trans (by rw [hpass]; rfl)⟩
  · rintro g rfl h hsrc hr hw
    exact passStops hp hs he h hsrc hr hw

end Sys2Proof.Machine
end

section
/-! PROOFS. The end of an echo window, and the convergence timer. -/

namespace Sys2Proof.Machine

/-! ## The state a canceller takes -/

theorem enter_state (c : Canceller) (x : CanState) : (c.enter x).state = x := by
  unfold Canceller.enter
  split
  next h => exact h
  next => rfl

@[simp] theorem enter_held (c : Canceller) (x : CanState) : (c.enter x).held = c.held := by
  unfold Canceller.enter
  split <;> rfl

@[simp] theorem enter_working (c : Canceller) (x : CanState) : (c.enter x).working = c.working := by
  unfold Canceller.enter
  split <;> rfl

@[simp] theorem enter_erle (c : Canceller) (x : CanState) : (c.enter x).erle = c.erle := by
  unfold Canceller.enter
  split <;> rfl

theorem enter_timer {c : Canceller} (h : c.timer = 0) (x : CanState) : (c.enter x).timer = 0 := by
  unfold Canceller.enter
  split
  next => exact h
  next => rfl

/-- A change between CONVERGING and CONVERGED keeps the double-talk flag (R52). -/
theorem enter_measures {c : Canceller} {x : CanState} (hc : c.state.measures = true) (hx : x.measures = true)
    (ht : c.timer = 0) :
    ∃ w, c.enter x = { c with state := x, window := w } := by
  unfold Canceller.enter
  split
  next h => exact ⟨c.window, by rw [← h]⟩
  next => exact ⟨c.window.cutOff, by simp only [hc, hx, ht, Bool.and_true]⟩

/-- The state of a canceller that measures in a working state (Table 3-2). -/
def Working.shown : Working → CanState
  | .converging => .converging
  | .converged => .converged

/-- A canceller that holds segments in a TALKING leg with mode ON shows its working state (Table 3-2). -/
theorem canTable_talking_on (waits : Bool) (w : Working) : canTable true waits .talking .on w = w.shown := by
  cases w <;> rfl

theorem holds_of_ne {held : List HeldSeg} (h : held ≠ []) : (!held.isEmpty) = true := by
  simpa using h

/-- The other working state, as the statements write it (R53). -/
theorem other_eq (w : Working) : w.other = if w = .converging then .converged else .converging := by
  cases w <;> rfl

theorem other_shown (w : Working) : w.other.shown = if w = .converging then .converged else .converging := by
  cases w <;> rfl

theorem shown_measures (w : Working) : w.shown.measures = true := by cases w <;> rfl

theorem measures_iff (x : CanState) : x.measures = true ↔ x = .converging ∨ x = .converged := by
  cases x <;> simp [CanState.measures]

theorem windowDue_iff (c : Canceller) :
    c.windowDue = true ↔ (c.state = .converging ∨ c.state = .converged) ∧ 32 ≤ c.window.count := by
  rw [Canceller.windowDue, Bool.and_eq_true, measures_iff, decide_eq_true_eq, echoWindowFrames]

theorem not_windowDue {c : Canceller}
    (h : (c.state ≠ .converging ∧ c.state ≠ .converged) ∨ c.window.count < 32) : ¬ c.windowDue = true := by
  rw [windowDue_iff]
  rintro ⟨hs, hw⟩
  rcases h with ⟨h1, h2⟩ | h
  · exact hs.elim h1 h2
  · omega

/-! ## The measurement of a window -/

/-- What the measurement of a window leaves of the canceller (R52, R53). -/
theorem measure_eq (nonce : Nat) (c : Canceller) :
    c.measure nonce =
      { c with
        doubleTalk := !ratioAtLeast c.window.est c.window.rx (-60)
        erle := if c.window.adapts then erleOf nonce c.window else c.erle
        timer :=
          if c.window.adapts then
            (if convergenceMet c.working (erleOf nonce c.window) then c.timer + 4 else 0)
          else c.timer } := by
  unfold Canceller.measure doubleTalkIn
  by_cases h : c.window.adapts = true
  · simp only [h, if_true]
  · simp only [h, if_false, Bool.false_eq_true]

/-- The canceller a window's end leaves where the timer stays short of its limit (R51, R52, R53). -/
def Canceller.windowEnded (c : Canceller) (nonce : Nat) : Canceller := (c.measure nonce).nextWindow c.window

theorem windowEnded_eq (nonce : Nat) (c : Canceller) :
    c.windowEnded nonce =
      { c with
        doubleTalk := !ratioAtLeast c.window.est c.window.rx (-60)
        erle := if c.window.adapts then erleOf nonce c.window else c.erle
        timer :=
          if c.window.adapts then
            (if convergenceMet c.working (erleOf nonce c.window) then c.timer + 4 else 0)
          else c.timer
        window :=
          { count := 0, ref := 0, rx := 0, est := 0, res := 0
            adapts := levelAtLeast c.window.ref 32 (-450) &&
              ratioAtLeast c.window.est c.window.rx (-60) } } := by
  rw [Canceller.windowEnded, measure_eq, Canceller.nextWindow]
  simp only [EchoWindow.zero, referenceLoud, echoWindowFrames, Bool.not_not]

/-! ## The units -/

section

variable {u : Units} {n : LegIx}

/-- The units with a window measured (R52, R53). -/
def Units.measured (u : Units) (n : LegIx) : Units :=
  u.onMedia fun m => { (m.onCan n fun c => c.measure m.nonce) with nonce := m.nonce + 1 }

theorem measured_can (u : Units) (n : LegIx) : look (u.measured n).can n = (look u.can n).measure u.nonce :=
  look_upd_self ..

theorem windowEnd_eq (u : Units) (n : LegIx) :
    u.windowEnd n =
      (if 500 ≤ ((look u.can n).measure u.nonce).timer then (u.measured n).convergenceTurn n
        else u.measured n).onMedia fun m => m.onCan n fun c => c.nextWindow (look u.can n).window := by
  rw [← measured_can]
  rfl

theorem windowEnd_short (h : ((look u.can n).measure u.nonce).timer < 500) :
    u.windowEnd n =
      u.onMedia fun m => { m with can := put m.can n ((look m.can n).windowEnded m.nonce), nonce := m.nonce + 1 } := by
  rw [windowEnd_eq, if_neg (Nat.not_le.mpr h)]
  simp only [Units.measured, Units.onMedia, Media.onCan, upd_upd]
  rfl

/-- The canceller the convergence timer's expiry leaves (R53). -/
def Units.turned (u : Units) (n : LegIx) : Canceller :=
  (look u.can n).turn.restate (look u.legs n) (u.pool.waits (.leg n))

/-- The record of that expiry: ECHO_CONVERGED on entry to CONVERGED (R53). -/
def Units.turnRecord (u : Units) (n : LegIx) : Router :=
  if (look u.can n).working = .converging then
    u.router.record .echoConverged (.leg n) (detail1 (byte (look u.can n).held.length))
  else u.router

theorem turned_held (u : Units) (n : LegIx) : (u.turned n).held = (look u.can n).held := enter_held ..

theorem turned_working (u : Units) (n : LegIx) : (u.turned n).working = (look u.can n).working.other :=
  enter_working ..

theorem turned_timer (u : Units) (n : LegIx) : (u.turned n).timer = 0 := enter_timer rfl _

theorem turned_state (hl : (look u.legs n).state = .talking) (hm : (look u.legs n).mode = .on)
    (hh : (look u.can n).held ≠ []) : (u.turned n).state = (look u.can n).working.other.shown := by
  refine (enter_state ..).trans ?_
  rw [show (!(look u.can n).turn.held.isEmpty) = true from holds_of_ne hh, hl, hm]
  exact canTable_talking_on ..

/-- A TALKING leg's canceller in CONVERGING or CONVERGED, as the expiry turns it (R53). -/
theorem turned_of_measures (hl : (look u.legs n).state = .talking) (hm : (look u.legs n).mode = .on)
    (hh : (look u.can n).held ≠ []) (hs : (look u.can n).state.measures = true) :
    ∃ w, u.turned n =
      { look u.can n with
        timer := 0, working := (look u.can n).working.other
        state := (look u.can n).working.other.shown, window := w } := by
  have htable : canTable (!(look u.can n).turn.held.isEmpty) (u.pool.waits (.leg n)) (look u.legs n).state
      (look u.legs n).mode (look u.can n).turn.working = (look u.can n).working.other.shown := by
    rw [show (!(look u.can n).turn.held.isEmpty) = true from holds_of_ne hh, hl, hm]
    exact canTable_talking_on ..
  rw [Units.turned, Canceller.restate, htable]
  exact enter_measures hs (shown_measures _) rfl

/-- With no cue route the expiry changes the canceller and enters its record (R53). -/
theorem convergenceTurn_of_noCue (h : ∀ k : Fin 24, (look u.router.routes k).cue = none) :
    u.convergenceTurn n =
      u.onMedia fun m => { m with can := put m.can n (u.turned n), router := u.turnRecord n } := by
  have hm : (u.toMedia.onCan n Canceller.turn).restate u.legs n = { u.toMedia with can := put u.can n (u.turned n) } :=
    congrArg (fun v => ({ u.toMedia with can := v } : Media)) (upd_upd ..)
  unfold Units.convergenceTurn Units.turnRecord
  simp only [decide_eq_true_eq]
  split
  next =>
    simp only [Units.raise, Units.onMedia, hm, look_put_self, turned_held]
    exact congrArg (fun m : Media => ({ u with toMedia := m } : Units))
      (raise_of_noCue (m := { u.toMedia with can := put u.can n (u.turned n) }) h ..)
  next => simp only [Units.onMedia, hm]

end

/-! ## The commands -/

section

variable {s : State} {n : LegIx}

theorem exec_windowEnd_of_not_due (h : ¬ (look s.can n).windowDue = true) : exec (.echoWindowEnd n) s = .next s :=
  congrArg Host.Outcome.next (if_neg h)

theorem exec_windowEnd_of_due (h : (look s.can n).windowDue = true) :
    exec (.echoWindowEnd n) s = .next (s.onUnits fun u => u.windowEnd n).settled :=
  congrArg Host.Outcome.next (if_pos h)

theorem exec_expiry_at_limit (h : 500 ≤ (look s.can n).timer) :
    exec (.convergenceTimerExpiry n) s = .next (s.onUnits fun u => u.convergenceTurn n).settled :=
  congrArg Host.Outcome.next (if_pos h)

theorem exec_expiry_due (ht : (look s.can n).timer < 500) (hd : (look s.can n).windowDue = true)
    (h : 500 ≤ ((look s.can n).measure s.nonce).timer) :
    exec (.convergenceTimerExpiry n) s = .next (s.onUnits fun u => u.windowEnd n).settled := by
  refine congrArg Host.Outcome.next ((if_neg (Nat.not_le.mpr ht)).trans (if_pos ?_))
  rw [State.convergenceDue, hd]
  exact decide_eq_true h

theorem exec_expiry_not_due (ht : (look s.can n).timer < 500)
    (h : ¬ (look s.can n).windowDue = true ∨ ((look s.can n).measure s.nonce).timer < 500) :
    exec (.convergenceTimerExpiry n) s = .next s := by
  refine congrArg Host.Outcome.next ((if_neg (Nat.not_le.mpr ht)).trans (if_neg fun hd => ?_))
  rw [State.convergenceDue, Bool.and_eq_true, decide_eq_true_eq] at hd
  obtain ⟨hdue, hlim⟩ := hd
  rcases h with h | h
  · exact h hdue
  · exact absurd hlim (Nat.not_le.mpr h)

/-- A command on the units that leaves no posting settles as it stands. -/
theorem settled_onUnits {f : Units → Units} {v : Units} (hv : v.postings = []) (h : f s.toUnits = v) :
    (s.onUnits f).settled = { s with toUnits := v } := by
  rw [State.settled, State.onUnits, State.onUnits, h, Units.settle_of_none v hv]

/-- A window's end that brings the timer to its limit, with no cue route (R52, R53). -/
theorem windowEnd_turned (hs : s.postings = []) (hr : s.noCueRoutes) (hd : (look s.can n).windowDue = true)
    (h : 500 ≤ ((look s.can n).measure s.nonce).timer) (hl : (look s.legs n).state = .talking)
    (hm : (look s.legs n).mode = .on) (hh : (look s.can n).held ≠ []) :
    (s.onUnits fun u => u.windowEnd n).settled =
      { s with
        nonce := s.nonce + 1
        can := put s.can n
          { (look s.can n).windowEnded s.nonce with
            timer := 0, working := (look s.can n).working.other, state := (look s.can n).working.other.shown }
        router := s.toUnits.turnRecord n } := by
  have hmeas := measured_can s.toUnits n
  have hrec : (s.toUnits.measured n).turnRecord n = s.toUnits.turnRecord n := by
    unfold Units.turnRecord
    rw [hmeas, measure_eq]
    rfl
  obtain ⟨w, hw⟩ := turned_of_measures (u := s.toUnits.measured n) (n := n) hl hm
    (by rw [hmeas, measure_eq]; exact hh)
    (by rw [hmeas, measure_eq]; exact (measures_iff _).mpr ((windowDue_iff _).mp hd).1)
  refine settled_onUnits (by exact hs) ?_
  rw [windowEnd_eq, if_pos h, convergenceTurn_of_noCue (u := s.toUnits.measured n) hr, hrec, hw, hmeas]
  simp only [Units.onMedia, Media.onCan, Units.measured, put_upd, upd_put, measure_eq, windowEnded_eq,
    Canceller.nextWindow, EchoWindow.zero, referenceLoud, echoWindowFrames, Bool.not_not]

end

/-- Settles O36: the end of a window measures it and begins the next, and at 500 ms the timer's expiry comes between
the two. -/
theorem echoWindowEndMeasures : Obligations.EchoWindowEndMeasures := by
  unfold Obligations.EchoWindowEndMeasures
  refine ⟨?_, fun s n hs ht => ⟨_, exec_expiry_at_limit ht, fun hr => ?_⟩⟩
  · rintro s n _ m hs rfl hm
    rw [← windowEnded_eq] at hm
    have htimer : m.timer = ((look s.can n).measure s.nonce).timer := by rw [hm]; rfl
    refine ⟨fun h => exec_windowEnd_of_not_due (not_windowDue h), fun hst hc => ?_, fun ht h => ?_⟩
    · have hdue := (windowDue_iff _).mpr ⟨hst, hc⟩
      refine ⟨fun hlt => ?_, fun hge hl hmode hh => ?_⟩
      · rw [exec_windowEnd_of_due hdue,
          settled_onUnits (by exact hs) (windowEnd_short (u := s.toUnits) (htimer ▸ hlt)), hm]
        rfl
      · rw [htimer] at hge
        refine ⟨_, exec_windowEnd_of_due hdue, fun ht => exec_expiry_due ht hdue hge, fun hr => ?_⟩
        rw [windowEnd_turned hs hr hdue hge hl hmode hh, hm, other_shown, other_eq]
        rfl
    · refine exec_expiry_not_due ht ?_
      rcases h with h | h | h
      · exact .inl (not_windowDue (.inl h))
      · exact .inl (not_windowDue (.inr h))
      · exact .inr (htimer ▸ h)
  · rw [settled_onUnits (by exact hs) (convergenceTurn_of_noCue (u := s.toUnits) hr)]
    have hcan : look (put s.can n (s.toUnits.turned n)) n = s.toUnits.turned n := look_put_self ..
    refine ⟨rfl, rfl, rfl, rfl, ?_, ?_, ?_, fun hl hmode hh => ?_⟩
    · exact (congrArg Canceller.timer hcan).trans (turned_timer ..)
    · exact (congrArg Canceller.held hcan).trans (turned_held ..)
    · exact (congrArg Canceller.working hcan).trans ((turned_working ..).trans (other_eq _))
    · exact (congrArg Canceller.state hcan).trans ((turned_state hl hmode hh).trans (other_shown _))

end Sys2Proof.Machine
end

section
/-! PROOFS. What grant passes, cursors and prompts do to the canceller of a leg that is not PARKED: nothing while it
does not wait, and the grant it waits for. -/

namespace Sys2Proof.Machine

/-! ## A canceller that is supplied -/

/-- A canceller that holds nothing and waits for a number of segments (R76). -/
structure Media.Awaits (n : LegIx) (need : Nat) (m : Media) : Prop where
  held : (look m.can n).held = []
  waits : m.pool.waits (.leg n) = true
  need : ∀ e ∈ m.pool.wait, e.who = .leg n → e.need = need

/-- A canceller that holds a number of segments with zero taps and waits for nothing (R46). -/
structure Media.Given (n : LegIx) (need : Nat) (m : Media) : Prop where
  waits : m.pool.waits (.leg n) = false
  length : (look m.can n).held.length = need
  taps : ∀ h ∈ (look m.can n).held, h.taps = List.replicate 128 0

/-- A canceller that has been granted what it asked for, or waits for it. -/
def Media.Supplied (n : LegIx) (need : Nat) (m : Media) : Prop := m.Awaits n need ∨ m.Given n need

section

variable {legs : Vector Leg 64} {n : LegIx} {need : Nat} {m t v : Media}

theorem Media.Given.of_held (h : m.Given n need) (hc : (look t.can n).held = (look m.can n).held)
    (hw : t.pool.waits (.leg n) = false) : t.Given n need := ⟨hw, hc ▸ h.length, hc ▸ h.taps⟩

theorem Media.Awaits.of_held (h : m.Awaits n need) (hc : (look t.can n).held = (look m.can n).held)
    (hw : t.pool.waits (.leg n) = m.pool.waits (.leg n))
    (he : ∀ e ∈ t.pool.wait, e.who = .leg n → e ∈ m.pool.wait) : t.Awaits n need :=
  ⟨hc.trans h.held, hw.trans h.waits, fun e hm hn => h.need e (he e hm hn) hn⟩

/-- What a change of `Media` by another than the leg's own owner block does to a canceller that no reclaim can
take segments from: nothing while it does not wait, and the grant it waits for. -/
structure Media.Serves (legs : Vector Leg 64) (n : LegIx) (m t : Media) : Prop where
  rest : (look legs n).state ≠ .parked ∨ (look m.can n).held = [] → m.pool.waits (.leg n) = false →
    look t.can n = look m.can n ∧ t.pool.waits (.leg n) = false
  waiting : ∀ need, (look legs n).state ≠ .parked → m.Awaits n need → t.Supplied n need

namespace Media.Serves

/-- A change that leaves the canceller and its entry alone. -/
theorem of_same (hc : look t.can n = look m.can n) (hw : t.pool.waits (.leg n) = m.pool.waits (.leg n))
    (he : ∀ e ∈ t.pool.wait, e.who = .leg n → e ∈ m.pool.wait) : m.Serves legs n t :=
  ⟨fun _ h => ⟨hc, hw.trans h⟩, fun _ _ h => .inl (h.of_held (by rw [hc]) hw he)⟩

theorem of_eq (hc : t.can = m.can) (hp : t.pool = m.pool) : m.Serves legs n t :=
  of_same (by rw [hc]) (by rw [hp]) fun _ h _ => hp ▸ h

theorem refl : m.Serves legs n m := of_eq rfl rfl

theorem trans (h : m.Serves legs n t) (k : t.Serves legs n v) : m.Serves legs n v where
  rest hs hw := by
    obtain ⟨hc, hw'⟩ := h.rest hs hw
    obtain ⟨hc', hw''⟩ := k.rest (by rw [hc]; exact hs) hw'
    exact ⟨hc'.trans hc, hw''⟩
  waiting need hs ha := by
    rcases h.waiting need hs ha with ha | hg
    · exact k.waiting need hs ha
    · obtain ⟨hc, hw⟩ := k.rest (.inl hs) hg.waits
      exact .inr (hg.of_held (by rw [hc]) hw)

end Media.Serves

/-! ## Grants and reclaims -/

/-- The canceller of a leg that is granted segments (R78). -/
theorem grantLeg_can (legs : Vector Leg 64) (m : Media) (n : LegIx) (need : Nat) :
    look (m.grant legs (.leg n) need).can n =
      ((look m.can n).granted (m.pool.lowestFree need)).restate (look legs n) false := by
  simp only [Media.grant, Media.restate, Media.onCan_can, Media.onCan_pool, Media.onPool_can, Media.onPool_pool,
    upd_upd, look_upd_self, waits_remove, ne_eq, not_true_eq_false, decide_false, Bool.and_false]

@[simp] theorem restate_held (c : Canceller) (l : Leg) (w : Bool) : (c.restate l w).held = c.held := enter_held ..

@[simp] theorem granted_held (c : Canceller) (segs : List SegIx) :
    (c.granted segs).held = c.held ++ segs.map HeldSeg.fresh := by
  unfold Canceller.granted
  dsimp only
  split <;> rfl

theorem grantLeg_waits (legs : Vector Leg 64) (m : Media) (n : LegIx) (need : Nat) :
    (m.grant legs (.leg n) need).pool.waits (.leg n) = false := by
  simp [Media.grant, Media.restate]

/-- What fits a leg is free (Table 5-2). -/
theorem le_free_of_fits {p : Pool} (h : p.fits (.leg n) need = true) : need ≤ p.free := by
  have hfree := of_decide_eq_true (Bool.and_eq_true_iff.mp h).1
  omega

theorem grantLeg_given (hh : (look m.can n).held = []) (hf : m.pool.fits (.leg n) need = true) :
    (m.grant legs (.leg n) need).Given n need where
  waits := grantLeg_waits ..
  length := by
    rw [grantLeg_can, restate_held, granted_held, hh, List.nil_append, List.length_map,
      lowestFree_length (le_free_of_fits hf)]
  taps := by
    rw [grantLeg_can, restate_held, granted_held, hh, List.nil_append]
    exact List.forall_mem_map.mpr fun _ _ => rfl

theorem grant_pool (legs : Vector Leg 64) (m : Media) (who : Requester) (need : Nat) :
    (m.grant legs who need).pool = (m.pool.mark (m.pool.lowestFree need) who.owner).remove who := by
  cases who with
  | leg n => rfl
  | cursor c =>
    unfold Media.grant
    dsimp only
    split
    · exact (issueRefill_framed ..).pool
    · rfl

theorem grantCursor_can (legs : Vector Leg 64) (m : Media) (c : CurIx) (need : Nat) :
    (m.grant legs (.cursor c) need).can = m.can := by
  unfold Media.grant
  dsimp only
  split
  · exact (issueRefill_framed ..).can
  · rfl

/-- A grant to another requester. -/
theorem grant_serves_other (m : Media) {who : Requester} (need : Nat) (h : who ≠ .leg n) :
    m.Serves legs n (m.grant legs who need) := by
  refine .of_same ?_ ?_ fun e he _ => ?_
  · cases who with
    | cursor c => rw [grantCursor_can]
    | leg k =>
      have hk : k ≠ n := fun e => h (e ▸ rfl)
      simp only [Media.grant, Media.restate, Media.onCan_can, Media.onPool_can, upd_upd, look_upd_of_ne _ hk]
  · rw [grant_pool, waits_remove, waits_mark, decide_eq_true (Ne.symm h), Bool.and_true]
  · rw [grant_wait] at he
    exact List.mem_of_mem_filter he

/-- The grant of a wait entry. -/
theorem grant_serves {e : WaitEntry} (he : e ∈ m.pool.wait) (hf : m.pool.fits e.who e.need = true) :
    m.Serves legs n (m.grant legs e.who e.need) := by
  by_cases hw : e.who = .leg n
  · refine ⟨fun _ h => ?_, fun need _ ha => .inr ?_⟩
    · exact absurd (List.any_eq_true.mpr ⟨e, he, decide_eq_true hw⟩) (Bool.eq_false_iff.mp h)
    · rw [hw, ha.need e he hw] at hf ⊢
      exact grantLeg_given ha.held hf
  · exact grant_serves_other m _ hw

theorem reclaim_serves {k : LegIx} (h : (m.parkedFor legs k).isSome = true) : m.Serves legs n (m.reclaim legs k) := by
  obtain ⟨hp, hh⟩ := parkedFor_isSome h
  by_cases hk : k = n
  · subst hk
    exact ⟨fun hs _ => absurd hs (not_or.mpr ⟨not_not.mpr hp, hh⟩), fun _ hs => absurd hp hs⟩
  · refine .of_same ?_ rfl fun _ he _ => he
    simp only [Media.reclaim, Media.restate, Media.raise_can, Media.onCan_can, Media.onPool_can, upd_upd,
      look_upd_of_ne _ hk]

theorem passLoop_serves (legs : Vector Leg 64) (n : LegIx) (m : Media) (fuel : Nat) :
    m.Serves legs n (m.passLoop legs fuel) := by
  induction fuel generalizing m with
  | zero => exact .refl
  | succ fuel ih =>
    unfold Media.passLoop
    split
    · exact .refl
    next e _ he =>
      split
      next hf => exact (grant_serves (by rw [he]; exact List.mem_cons_self) hf).trans (ih _)
      · split
        · exact .refl
        next hk => exact (reclaim_serves (candidate_parkedFor hk)).trans (ih _)

theorem pass_serves (legs : Vector Leg 64) (n : LegIx) (m : Media) : m.Serves legs n (m.pass legs) :=
  passLoop_serves ..

/-- A leg that asks for segments and holds none is supplied (R75, R83). -/
theorem askLeg_supplied (need : Nat) (hs : (look legs n).state ≠ .parked) (hh : (look m.can n).held = []) :
    (m.ask legs (.leg n) need).Supplied n need := by
  unfold Media.ask
  split
  next hw =>
    refine (pass_serves ..).waiting need hs ⟨hh, by simpa using hw, fun e he hn => ?_⟩
    obtain ⟨f, -, rfl⟩ := List.mem_map.mp he
    by_cases hf : f.who = .leg n
    · rw [if_pos hf]
    · rw [if_neg hf] at hn
      exact absurd hn hf
  next hw =>
    split
    next hf => exact .inr (grantLeg_given hh (Bool.and_eq_true_iff.mp hf).2)
    next =>
      refine (pass_serves ..).waiting need hs ⟨?_, by simp [Media.restate], fun e he hn => ?_⟩
      · exact (congrArg Canceller.held (look_upd_self ..)).trans ((restate_held ..).trans hh)
      · rcases List.mem_append.mp he with he | he
        · exact absurd (List.any_eq_true.mpr ⟨e, he, decide_eq_true hn⟩) hw
        · rw [List.mem_singleton.mp he]

/-! ## Cursors -/

variable (legs n m)

theorem onCur_serves (c : CurIx) (f : Cursor → Cursor) : m.Serves legs n (m.onCur c f) := .of_eq rfl rfl

theorem raise_serves (k : EventKind) (x : Subject) (d : BitVec 16) (p : Option PosIx) :
    m.Serves legs n (m.raise k x d p) := .of_eq rfl rfl

theorem askCursor_serves (c : CurIx) (need : Nat) : m.Serves legs n (m.ask legs (.cursor c) need) := by
  unfold Media.ask
  split
  · refine .trans (.of_same (t := m.onPool fun p => p.changeNeed (.cursor c) need) rfl (by simp)
      fun e he hn => ?_) (pass_serves ..)
    obtain ⟨f, hf, rfl⟩ := List.mem_map.mp he
    split at hn
    next hfc => exact nomatch hfc.symm.trans hn
    next hfc => rwa [if_neg hfc]
  · split
    · exact grant_serves_other m need nofun
    · refine .trans (.of_same (t := m.onPool fun p => p.insert { who := .cursor c, need := need }) rfl (by simp)
        fun e he hn => ?_) (pass_serves ..)
      rw [← List.takeWhile_append_dropWhile (p := WaitEntry.isCursor) (l := m.pool.wait)]
      rcases List.mem_append.mp he with he | he
      · exact List.mem_append_left _ he
      · rcases List.mem_cons.mp he with rfl | he
        · exact nomatch hn
        · exact List.mem_append_right _ he

theorem release_serves (segs : List SegIx) : m.Serves legs n (m.release legs segs) :=
  .trans (.of_same (t := m.onPool fun p => p.mark segs .free) rfl rfl fun _ he _ => he) (pass_serves ..)

theorem withdrawCursor_serves (c : CurIx) : m.Serves legs n (m.withdraw legs (.cursor c)) := by
  unfold Media.withdraw
  split
  · exact .trans (.of_same (t := m.onPool fun p => p.remove (.cursor c)) rfl (by simp)
      fun _ he _ => List.mem_of_mem_filter he) (pass_serves ..)
  · exact .refl

theorem enterItems_serves (c : CurIx) (items : List Item) (i elapsed : Nat) :
    m.Serves legs n (m.enterItems c items i elapsed).1 := by
  induction items generalizing m i elapsed with
  | nil => exact .refl
  | cons it rest ih =>
    unfold Media.enterItems
    cases it with
    | clip id gain =>
      dsimp only
      split
      · exact .of_eq rfl rfl
      · exact (raise_serves ..).trans (ih ..)
    | silence ms => exact .of_eq rfl rfl
    | tone k ms =>
      dsimp only
      split <;> exact .of_eq rfl rfl

theorem dropReference_serves (c : CurIx) : m.Serves legs n (m.dropReference c) := by
  unfold Media.dropReference
  split
  · exact .refl
  · exact .of_eq rfl rfl

theorem withdrawRefill_serves (c : CurIx) : m.Serves legs n (m.withdrawRefill c) := .of_eq rfl rfl

theorem giveRing_serves (c : CurIx) : m.Serves legs n (m.giveRing legs c) := by
  unfold Media.giveRing
  split
  · exact (onCur_serves ..).trans (release_serves ..)
  · exact withdrawCursor_serves ..

theorem stopCursor_serves (c : CurIx) : m.Serves legs n (m.stopCursor legs c) := by
  unfold Media.stopCursor
  split
  · exact .refl
  · exact (((dropReference_serves legs n m c).trans (withdrawRefill_serves ..)).trans (giveRing_serves ..)).trans
      (onCur_serves ..)

theorem startCursor_serves (c : CurIx) (q : CueIx) (place : Option Place) :
    m.Serves legs n (m.startCursor legs c q place).1 := by
  unfold Media.startCursor
  split
  · exact .refl
  · have h : ∀ x i e, m.Serves legs n
        ((((m.onCur c fun cur => cur.stopped.beginAt x).snap c q).enterAt c i e).1) :=
      fun x i e => (onCur_serves ..).trans ((onCur_serves ..).trans (enterItems_serves ..))
    dsimp only
    split
    · exact ((h _ _ _).trans (onCur_serves ..)).trans (askCursor_serves ..)
    · split
      · exact ((h _ _ _).trans (onCur_serves ..)).trans (askCursor_serves ..)
      · exact (h _ _ _).trans (onCur_serves ..)

end

/-! ## Prompts -/

/-- What prompts do to the canceller of a leg that no reclaim can take segments from, which is that of a leg not
PARKED or one that holds none: its segments stay while it does not wait, and it gets the grant it waits for. -/
structure Units.Serves (n : LegIx) (u t : Units) : Prop where
  call : (look u.legs n).state ≠ .parked → (look t.legs n).state ≠ .parked
  rest : (look u.legs n).state ≠ .parked ∨ (look u.can n).held = [] → u.pool.waits (.leg n) = false →
    (look t.can n).held = (look u.can n).held ∧ t.pool.waits (.leg n) = false
  idle : (look u.can n).held = [] → u.pool.waits (.leg n) = false → (look u.can n).state = .idle →
    (look t.can n).state = .idle
  waiting : ∀ need, (look u.legs n).state ≠ .parked → u.Awaits n need → t.Supplied n need

namespace Units.Serves

variable {n : LegIx} {u t v : Units}

theorem of_media (hl : t.legs = u.legs) (h : u.toMedia.Serves u.legs n t.toMedia) : u.Serves n t where
  call := by rw [hl]; exact id
  rest hs hw := by
    obtain ⟨hc, hw'⟩ := h.rest hs hw
    exact ⟨by rw [hc], hw'⟩
  idle hh hw hi := by rw [(h.rest (.inr hh) hw).1, hi]
  waiting := h.waiting

theorem refl : u.Serves n u := of_media rfl .refl

theorem trans (h : u.Serves n t) (k : t.Serves n v) : u.Serves n v where
  call hs := k.call (h.call hs)
  rest hs hw := by
    obtain ⟨hc, hw'⟩ := h.rest hs hw
    obtain ⟨hc', hw''⟩ := k.rest (hs.imp h.call fun he => hc.trans he) hw'
    exact ⟨hc'.trans hc, hw''⟩
  idle hh hw hi := by
    obtain ⟨hc, hw'⟩ := h.rest (.inr hh) hw
    exact k.idle (hc.trans hh) hw' (h.idle hh hw hi)
  waiting need hs ha := by
    rcases h.waiting need hs ha with ha | hg
    · exact k.waiting need (h.call hs) ha
    · obtain ⟨hc, hw⟩ := k.rest (.inl (h.call hs)) hg.waits
      exact .inr (hg.of_held hc hw)

end Units.Serves

section

variable (n : LegIx) (u : Units)

theorem onWhisper_serves (p : PosIx) (f : Whisper → Whisper) : u.Serves n (u.onWhisper p f) := .of_media rfl .refl

theorem units_raise_serves (k : EventKind) (x : Subject) (d : BitVec 16) (p : Option PosIx) :
    u.Serves n (u.raise k x d p) := .of_media rfl (raise_serves ..)

theorem setPostings_serves (xs : List Posting) : u.Serves n { u with postings := xs } :=
  .of_media rfl (.of_eq rfl rfl)

/-- A canceller that holds nothing and waits for nothing is IDLE (Table 3-2). -/
theorem restate_idle {c : Canceller} (h : c.held = []) (l : Leg) : (c.restate l false).state = .idle := by
  rw [Canceller.restate, enter_state, h]
  rfl

theorem restate_can_held (legs : Vector Leg 64) (m : Media) (k i : LegIx) :
    (look (m.restate legs k).can i).held = (look m.can i).held := by
  rw [Media.restate, Media.onCan_can, look_upd]
  split
  next h => rw [restate_held, h]
  next => rfl

theorem restate_serves (k : LegIx) : u.Serves n (u.onMedia fun m => m.restate u.legs k) := by
  have hheld := restate_can_held u.legs u.toMedia k n
  refine ⟨id, fun _ hw => ⟨hheld, hw⟩, fun hh hw hi => ?_,
    fun need _ ha => .inl (ha.of_held hheld rfl fun _ h _ => h)⟩
  by_cases hk : n = k
  · subst hk
    show (look (upd u.can n fun c => c.restate (look u.legs n) (u.pool.waits (.leg n))) n).state = .idle
    rw [look_upd_self, hw, restate_idle hh]
  · exact (congrArg Canceller.state ((restate_can ..).2.2 hk)).trans hi

theorem leaveFrom_serves (k : LegIx) (o : Option GroupIx) : u.Serves n (u.leaveFrom k o) := by
  refine .of_media (leaveFrom_legs ..) ?_
  cases o with
  | none => exact .refl
  | some g =>
    show u.toMedia.Serves u.legs n (u.leave g k).toMedia
    unfold Units.leave
    dsimp only
    split
    · exact stopCursor_serves ..
    · exact .refl

theorem cutThrough_serves (k : LegIx) (cause : CutCause) : u.Serves n (u.cutThrough k cause) := by
  have hcut : u.Serves n (u.onLeg k Leg.cut) := by
    refine ⟨fun hs => ?_, fun _ hw => ⟨rfl, hw⟩, fun _ _ hi => hi, fun _ _ ha => .inl ha⟩
    rw [Units.onLeg_legs, look_upd]
    split
    · exact nofun
    · exact hs
  have hleft := hcut.trans (leaveFrom_serves n _ k (look u.legs k).group)
  have hset := restate_serves n ((u.onLeg k Leg.cut).leaveFrom k (look u.legs k).group) k
  rw [leaveFrom_legs] at hset
  rw [cutThrough_eq]
  exact (hleft.trans hset).trans (units_raise_serves ..)

theorem connectReport_serves (p : PosIx) (cause : CutCause) : u.Serves n (u.connectReport p cause) := by
  unfold Units.connectReport
  dsimp only
  split
  · exact .refl
  · split
    · exact cutThrough_serves ..
    · exact .refl

theorem startEntry_serves (p : PosIx) (e : Entry) : u.Serves n (u.startEntry p e).1 :=
  .of_media rfl (startCursor_serves ..)

theorem completeEntry_serves (p : PosIx) (e : Entry) : u.Serves n (u.completeEntry p e) := by
  unfold Units.completeEntry
  dsimp only
  split
  · exact (onWhisper_serves n u p _).trans (connectReport_serves ..)
  · exact (onWhisper_serves n u p _).trans (units_raise_serves ..)

theorem stopPos_serves (p : PosIx) : u.Serves n (u.stopPos p) := .of_media rfl (stopCursor_serves ..)

theorem pauseCursor_serves (c : CurIx) : u.Serves n (u.onMedia (·.pauseCursor c)) := .of_media rfl (onCur_serves ..)

theorem takePlace_serves (p : PosIx) : u.Serves n (u.takePlace p).1 :=
  (pauseCursor_serves n u (posCursor p)).trans (.of_media rfl (stopCursor_serves ..))

theorem pushPlaying_serves (p : PosIx) (byCoach : Bool) : u.Serves n (u.pushPlaying p byCoach) := by
  unfold Units.pushPlaying
  split
  · exact .refl
  · exact .refl
  · dsimp only
    refine .trans ?_ (onWhisper_serves ..)
    split
    · exact stopPos_serves ..
    · exact pauseCursor_serves ..
    · exact takePlace_serves ..

theorem nextLoop_serves (p : PosIx) (fuel : Nat) : u.Serves n (u.nextLoop p fuel) := by
  induction fuel generalizing u with
  | zero => exact .refl
  | succ fuel ih =>
    have go : ∀ (v : Units) (e : Entry), u.Serves n v →
        u.Serves n (if (v.startEntry p e).2 = true then
          ((v.startEntry p e).1.completeEntry p e).nextLoop p fuel else (v.startEntry p e).1) := by
      intro v e h
      split
      · exact ((h.trans (startEntry_serves ..)).trans (completeEntry_serves ..)).trans (ih _)
      · exact h.trans (startEntry_serves ..)
    unfold Units.nextLoop
    dsimp only
    split
    · split
      · refine go _ _ (.trans ?_ (onWhisper_serves ..))
        split
        · exact takePlace_serves ..
        · exact .refl
      · split
        · exact ((onWhisper_serves n u p _).trans (onWhisper_serves ..)).trans (.of_media rfl (onCur_serves ..))
        · exact go _ _ (onWhisper_serves ..)
    · exact go _ _ (onWhisper_serves ..)
    · exact .refl

theorem next_serves (p : PosIx) : u.Serves n (u.next p) := by
  unfold Units.next
  dsimp only
  split
  · exact nextLoop_serves ..
  · exact .refl
  · exact .refl

theorem startHead_serves (p : PosIx) : u.Serves n (u.startHead p) := by
  unfold Units.startHead
  split
  · exact .refl
  · dsimp only
    split
    · exact (((onWhisper_serves n u p _).trans (startEntry_serves ..)).trans (completeEntry_serves ..)).trans
        (next_serves ..)
    · exact (onWhisper_serves n u p _).trans (startEntry_serves ..)

theorem schedule_serves (p : PosIx) : u.Serves n (u.schedule p) := by
  unfold Units.schedule
  split
  · exact startHead_serves ..
  · exact .refl
  · split
    · exact (pushPlaying_serves ..).trans (startHead_serves ..)
    · exact .refl

theorem post_serves (p : PosIx) (q : CueIx) (lvl : Level) (o : Origin) : u.Serves n (u.post p q lvl o).1 := by
  unfold Units.post
  split
  · exact units_raise_serves ..
  · exact (onWhisper_serves n u p _).trans (schedule_serves ..)

theorem settle_serves : u.Serves n u.settle := by
  refine (setPostings_serves n u []).trans ?_
  unfold Units.settle
  generalize ({ u with postings := [] } : Units) = v
  generalize u.postings = xs
  induction xs generalizing v with
  | nil => exact .refl
  | cons x xs ih =>
    exact ((post_serves n v x.pos x.cue x.level .route).trans (setPostings_serves ..)).trans (ih _)

end

end Sys2Proof.Machine
end

section
/-! PROOFS. ECHO: what its parts leave of a leg's canceller and of the pool. -/

namespace Sys2Proof.Machine

/-! ## ECHO in its parts -/

section

variable (u : Units) (n : LegIx) (mode : EchoMode) (tail : Nat) (reset : Bool)

/-- Mode and tail stored in Leg Record and canceller (R54). -/
def Units.echoSet : Units :=
  (u.onLeg n fun l => { l with mode := mode, tail := tail }).onMedia fun m => m.onCan n fun c => { c with tail := tail }

/-- The mode stored and acted on (R55). -/
def Units.echoModed : Units := (u.echoSet n mode tail).echoMode n (look u.legs n).mode mode

/-- Mode and tail stored and acted on (R56). -/
def Units.echoTailed : Units :=
  if mode ≠ .off ∧ (look u.legs n).tail ≠ tail then (u.echoModed n mode tail).echoTail n tail
  else u.echoModed n mode tail

/-- All that ECHO does (R54). -/
def Units.echoed : Units :=
  if reset then (u.echoTailed n mode tail).echoReset n else u.echoTailed n mode tail

/-- The reply of ECHO: what the canceller then is and holds (R54). -/
def Units.echoReply : List Byte := [(look u.can n).state.code, byte (look u.can n).held.length]

theorem ownEcho_eq {tail : Nat} (h : 2 ≤ tail) (h' : tail ≤ 8) :
    ownEcho [byte n, mode.code, byte tail, flagByte reset] u =
      (u.echoed n mode tail reset, .ok ((u.echoed n mode tail reset).echoReply n)) := by
  have htail : (byte tail).toNat = tail := toNat_byte (by omega)
  simp only [ownEcho, readLeg_byte, readEchoMode_code, readFlag_flagByte, readRange, htail, h, h', and_self, if_true]
  rfl

/-! ## What every part keeps -/

theorem echoMode_legs (old new : EchoMode) : (u.echoMode n old new).legs = u.legs := by
  unfold Units.echoMode
  split
  · rfl
  · split
    · rfl
    · split
      · exact acquire_legs ..
      · rfl
    · rfl
    · rfl

theorem echoTail_legs : (u.echoTail n tail).legs = u.legs := by
  unfold Units.echoTail
  dsimp only
  split
  · rfl
  · split
    · rfl
    · split
      · exact acquire_legs ..
      · rfl

theorem echoed_legs :
    (u.echoed n mode tail reset).legs = upd u.legs n fun l => { l with mode := mode, tail := tail } := by
  have hmode : (u.echoModed n mode tail).legs = _ := echoMode_legs ..
  have htail : (u.echoTailed n mode tail).legs = (u.echoModed n mode tail).legs := by
    unfold Units.echoTailed
    split
    · exact echoTail_legs ..
    · rfl
  refine Eq.trans ?_ (htail.trans hmode)
  unfold Units.echoed
  split <;> rfl

theorem echoOff_keeps : u.Keeps (u.echoOff n) := by
  have hgive : u.toMedia.Keeps
      (((u.onPool fun p => (p.mark ((look u.can n).held.map HeldSeg.num) .free).remove (.leg n)).onCan n
        fun c => c.lost false).restate u.legs n) :=
    ((onPool_keeps _ _ rfl).trans (onCan_keeps ..)).trans (restate_keeps ..)
  refine units_onMedia_keeps _ _ ?_
  dsimp only
  split
  · exact hgive.trans (pass_keeps ..)
  · exact hgive

theorem echoMode_keeps (old new : EchoMode) : u.Keeps (u.echoMode n old new) := by
  unfold Units.echoMode
  split
  · exact .refl
  · split
    · exact echoOff_keeps ..
    · split
      · exact acquire_keeps ..
      · exact .refl
    · exact units_onMedia_keeps _ _ ((onCan_keeps ..).trans (restate_keeps ..))
    · exact units_onMedia_keeps _ _ (restate_keeps ..)

theorem echoTail_keeps : u.Keeps (u.echoTail n tail) := by
  unfold Units.echoTail
  dsimp only
  split
  · exact units_onMedia_keeps _ _ (((onPool_keeps _ _ rfl).trans (onCan_keeps ..)).trans
      ((restate_keeps ..).trans (pass_keeps ..)))
  · split
    · exact units_onMedia_keeps _ _ (withdraw_keeps ..)
    · split
      · exact acquire_keeps ..
      · exact .refl

theorem echoed_keeps : u.Keeps (u.echoed n mode tail reset) := by
  have hset : u.Keeps (u.echoSet n mode tail) :=
    (units_onLeg_keeps ..).trans (units_onMedia_keeps _ _ (onCan_keeps ..))
  have htail : u.Keeps (u.echoTailed n mode tail) := by
    unfold Units.echoTailed
    split
    · exact (hset.trans (echoMode_keeps ..)).trans (echoTail_keeps ..)
    · exact hset.trans (echoMode_keeps ..)
  unfold Units.echoed
  split
  · exact htail.trans (units_onMedia_keeps _ _ ((onCan_keeps ..).trans (restate_keeps ..)))
  · exact htail

/-! ## The tail of the canceller -/

theorem onCan_tail (m : Media) {f : Canceller → Canceller} (h : ∀ c, (f c).tail = c.tail) :
    (look (m.onCan n f).can n).tail = (look m.can n).tail := by
  rw [Media.onCan_can, look_upd_self, h]

theorem askLeg_tail (legs : Vector Leg 64) (m : Media) (need : Nat) :
    (look (m.ask legs (.leg n) need).can n).tail = (look m.can n).tail := by
  unfold Media.ask
  split
  · exact (pass_plays ..).tail n
  · split
    · rw [grantLeg_can, Canceller.restate, enter_tail, granted_tail]
    · exact ((pass_plays ..).tail n).trans (restate_can ..).1

theorem acquire_tail : (look (u.acquire n).can n).tail = (look u.can n).tail := by
  unfold Units.acquire
  dsimp only
  split
  · exact askLeg_tail ..
  · rfl

theorem withdrawLeg_tail (legs : Vector Leg 64) (m : Media) :
    (look (m.withdraw legs (.leg n)).can n).tail = (look m.can n).tail := by
  unfold Media.withdraw
  split
  · exact ((pass_plays ..).tail n).trans (restate_can ..).1
  · rfl

theorem echoMode_tail (old new : EchoMode) : (look (u.echoMode n old new).can n).tail = (look u.can n).tail := by
  unfold Units.echoMode
  split
  · rfl
  · split
    · have hgive : (look (((u.onPool fun p =>
          (p.mark ((look u.can n).held.map HeldSeg.num) .free).remove (.leg n)).onCan n
            fun c => c.lost false).restate u.legs n).can n).tail = (look u.can n).tail :=
        (restate_can ..).1.trans (onCan_tail n _ fun _ => rfl)
      unfold Units.echoOff
      dsimp only [Units.onMedia]
      split
      · exact ((pass_plays ..).tail n).trans hgive
      · exact hgive
    · split
      · exact acquire_tail ..
      · rfl
    · exact (restate_can ..).1.trans (onCan_tail n _ fun _ => rfl)
    · exact (restate_can ..).1

theorem echoTail_tail : (look (u.echoTail n tail).can n).tail = (look u.can n).tail := by
  unfold Units.echoTail
  dsimp only
  split
  · exact ((pass_plays ..).tail n).trans ((restate_can ..).1.trans (onCan_tail n _ fun _ => rfl))
  · split
    · exact withdrawLeg_tail ..
    · split
      · exact acquire_tail ..
      · rfl

theorem resetOption_tail (c : Canceller) : c.resetOption.tail = c.tail := by
  unfold Canceller.resetOption
  split <;> rfl

theorem echoReset_tail : (look (u.echoReset n).can n).tail = (look u.can n).tail :=
  (restate_can ..).1.trans (onCan_tail n _ resetOption_tail)

theorem echoed_tail : (look (u.echoed n mode tail reset).can n).tail = tail := by
  have hmode : (look (u.echoModed n mode tail).can n).tail = tail :=
    (echoMode_tail ..).trans (congrArg Canceller.tail (look_upd_self ..))
  have htail : (look (u.echoTailed n mode tail).can n).tail = tail := by
    unfold Units.echoTailed
    split
    · exact (echoTail_tail ..).trans hmode
    · exact hmode
  unfold Units.echoed
  split
  · exact (echoReset_tail ..).trans htail
  · exact htail

end

end Sys2Proof.Machine
end

section
/-! PROOFS. ECHO: the change of mode, the reset option, and what a leg that acquires its tail is supplied with. -/

namespace Sys2Proof.Machine

section

variable {u : Units} {n : LegIx} {mode : EchoMode} {tail : Nat} {reset : Bool}

/-! ## Mode and tail stored -/

theorem echoSet_can : look (u.echoSet n mode tail).can n = { look u.can n with tail := tail } := look_upd_self ..

theorem echoSet_leg : look (u.echoSet n mode tail).legs n = { look u.legs n with mode := mode, tail := tail } :=
  look_upd_self ..

/-- Between a mode and itself nothing is done (R55). -/
theorem echoModed_same (h : mode = (look u.legs n).mode) : u.echoModed n mode tail = u.echoSet n mode tail :=
  if_pos h.symm

theorem echoTailed_same (h : tail = (look u.legs n).tail) : u.echoTailed n mode tail = u.echoModed n mode tail :=
  if_neg fun hc => hc.2 h.symm

theorem echoTailed_off : u.echoTailed n .off tail = u.echoModed n .off tail := if_neg fun hc => hc.1 rfl

theorem echoTailed_changed (hm : mode ≠ .off) (h : tail ≠ (look u.legs n).tail) :
    u.echoTailed n mode tail = (u.echoModed n mode tail).echoTail n tail := if_pos ⟨hm, h.symm⟩

/-- A request that changes nothing (R54). -/
theorem echoed_unchanged (hm : mode = (look u.legs n).mode) (ht : tail = (look u.legs n).tail)
    (hc : tail = (look u.can n).tail) : u.echoed n mode tail false = u := by
  have hleg : upd u.legs n (fun l => { l with mode := mode, tail := tail }) = u.legs := upd_id _ _ _ (by rw [hm, ht])
  have hcan : upd u.can n (fun c => { c with tail := tail }) = u.can := upd_id _ _ _ (by rw [hc])
  show u.echoTailed n mode tail = u
  rw [echoTailed_same ht, echoModed_same hm]
  simp only [Units.echoSet, Units.onLeg, Units.onMedia, Media.onCan, hleg, hcan]

/-! ## Mode OFF -/

/-- A canceller that is IDLE, holds nothing and waits for nothing. -/
structure Media.Vacant (n : LegIx) (m : Media) : Prop where
  held : (look m.can n).held = []
  state : (look m.can n).state = .idle
  waits : m.pool.waits (.leg n) = false

theorem Units.Serves.vacant {t : Units} (h : u.Serves n t) (hv : u.Vacant n) : t.Vacant n := by
  obtain ⟨hheld, hwaits⟩ := h.rest (.inr hv.held) hv.waits
  exact ⟨hheld.trans hv.held, h.idle hv.held hv.waits hv.state, hwaits⟩

theorem Media.Vacant.pass {m : Media} {legs : Vector Leg 64} (h : m.Vacant n) : (m.pass legs).Vacant n := by
  obtain ⟨hcan, hwaits⟩ := (pass_serves legs n m).rest (.inr h.held) h.waits
  exact ⟨by rw [hcan, h.held], by rw [hcan, h.state], hwaits⟩

/-- The canceller of a leg after its state has been set anew (R43). -/
theorem restate_can_self (legs : Vector Leg 64) (n : LegIx) (m : Media) :
    look (m.restate legs n).can n = (look m.can n).restate (look legs n) (m.pool.waits (.leg n)) := look_upd_self ..

theorem onCan_restate_can (legs : Vector Leg 64) (n : LegIx) (m : Media) (f : Canceller → Canceller) :
    look ((m.onCan n f).restate legs n).can n =
      (f (look m.can n)).restate (look legs n) (m.pool.waits (.leg n)) := by
  rw [restate_can_self, Media.onCan_can, look_upd_self, Media.onCan_pool]

theorem echoOff_vacant (u : Units) (n : LegIx) : (u.echoOff n).Vacant n := by
  let m := u.onPool fun p => (p.mark ((look u.can n).held.map HeldSeg.num) .free).remove (.leg n)
  have hcan := onCan_restate_can u.legs n m fun c => c.lost false
  have hwaits : m.pool.waits (.leg n) = false := by simp [m]
  have hgive : ((m.onCan n fun c => c.lost false).restate u.legs n).Vacant n := by
    rw [hwaits] at hcan
    exact ⟨by rw [hcan]; exact restate_held .., by rw [hcan]; exact restate_idle rfl _, hwaits⟩
  unfold Units.echoOff
  dsimp only [Units.onMedia]
  split
  · exact hgive.pass
  · exact hgive

theorem resetOption_of_empty {c : Canceller} (h : c.held = []) : c.resetOption = c := by
  rw [Canceller.resetOption, h]
  rfl

theorem echoReset_can (u : Units) (n : LegIx) :
    look (u.echoReset n).can n =
      (look u.can n).resetOption.restate (look u.legs n) (u.pool.waits (.leg n)) := onCan_restate_can ..

theorem echoReset_vacant (h : u.Vacant n) : (u.echoReset n).Vacant n := by
  have hcan := echoReset_can u n
  rw [resetOption_of_empty h.held, h.waits] at hcan
  exact ⟨by rw [hcan, restate_held, h.held], by rw [hcan, restate_idle h.held], h.waits⟩

/-- OFF from another mode (R55). -/
theorem echoed_off (h : (look u.legs n).mode ≠ .off) : (u.echoed n .off tail reset).Vacant n := by
  have hoff : u.echoModed n .off tail = (u.echoSet n .off tail).echoOff n := by
    unfold Units.echoModed Units.echoMode
    rw [if_neg h]
  have hv : (u.echoTailed n .off tail).Vacant n := by
    rw [echoTailed_off, hoff]
    exact echoOff_vacant ..
  unfold Units.echoed
  split
  · exact echoReset_vacant hv
  · exact hv

/-! ## The reset option -/

/-- The window a reset leaves: one about to begin adapts by the reference alone, and of one under way the rest does
not adapt (R51, R57; log 29). -/
def Canceller.resetWindow (c : Canceller) : EchoWindow :=
  if c.window.count = 0 then
    { count := 0, ref := 0, rx := 0, est := 0, res := 0
      adapts := levelAtLeast (sumSquares (c.history.take 32)) 32 (-450) }
  else { c.window with adapts := false }

theorem resetWindow_cutOff (c : Canceller) : c.resetWindow.cutOff = c.resetWindow := by
  unfold Canceller.resetWindow EchoWindow.cutOff
  split <;> simp

theorem cutOff_of_running {w : EchoWindow} (h : w.count ≠ 0) : w.cutOff = { w with adapts := false } := by
  simp [EchoWindow.cutOff, h]

/-- What the reset option leaves of a canceller that holds segments (R57). -/
theorem resetOption_of_holds {c : Canceller} (h : c.held ≠ []) :
    c.resetOption =
      { c with
        held := c.held.map fun h => { h with taps := List.replicate 128 0 }
        working := .converging, erle := 0, timer := 0, doubleTalk := false
        window := if c.state.measures = true then c.resetWindow else c.resetOption.window } := by
  have hempty : c.held.isEmpty = false := by simpa using h
  unfold Canceller.resetOption Canceller.resetWindow
  rw [hempty]
  by_cases hm : c.state.measures = true
  · by_cases hc : c.window.count = 0
    · simp [hm, hc, Canceller.freshWindow, EchoWindow.zero, referenceLoud, echoWindowFrames, HeldSeg.fresh,
        tapsPerSegment]
    · simp [hm, hc, cutOff_of_running, HeldSeg.fresh, tapsPerSegment]
  · simp [hm, HeldSeg.fresh, tapsPerSegment]

theorem enter_doubleTalk {c : Canceller} (h : c.doubleTalk = false) (x : CanState) :
    (c.enter x).doubleTalk = false := by
  unfold Canceller.enter
  split
  next => exact h
  next => simp [h]

/-- The reset option alone (R57). -/
theorem echoed_reset (hm : mode = (look u.legs n).mode) (ht : tail = (look u.legs n).tail) :
    u.echoed n mode tail true = (u.echoSet n mode tail).echoReset n := by
  show (u.echoTailed n mode tail).echoReset n = _
  rw [echoTailed_same ht, echoModed_same hm]

/-- A canceller that the reset option has left, its state set anew. -/
theorem restate_resetOption {c : Canceller} (h : c.held ≠ []) (l : Leg) (w : Bool) :
    (c.resetOption.restate l w).held = c.held.map (fun h => { h with taps := List.replicate 128 0 }) ∧
      (c.resetOption.restate l w).working = .converging ∧ (c.resetOption.restate l w).erle = 0 ∧
      (c.resetOption.restate l w).timer = 0 ∧ (c.resetOption.restate l w).doubleTalk = false := by
  rw [resetOption_of_holds h]
  exact ⟨enter_held .., enter_working .., enter_erle .., enter_timer rfl _, enter_doubleTalk rfl _⟩

/-- A change between CONVERGING and CONVERGED stops the adaptation of a window under way (R51). -/
theorem enter_window_of_measures {c : Canceller} {x : CanState} (hc : c.state.measures = true)
    (hx : x.measures = true) : (c.enter x).window = if c.state = x then c.window else c.window.cutOff := by
  unfold Canceller.enter
  split
  next => rfl
  next => simp only [hc, hx]

/-- A canceller that measures starts afresh in CONVERGING (R51, R57). -/
theorem restate_resetOption_measures {c : Canceller} {l : Leg} (h : c.held ≠ []) (hs : c.state.measures = true)
    (hl : l.state = .talking) (hm : l.mode = .on) (w : Bool) :
    (c.resetOption.restate l w).state = .converging ∧ (c.resetOption.restate l w).window = c.resetWindow := by
  have htable : canTable (!c.resetOption.held.isEmpty) w l.state l.mode c.resetOption.working = .converging := by
    rw [resetOption_of_holds h, hl, hm]
    have hheld : (!(c.held.map fun h => { h with taps := List.replicate 128 0 }).isEmpty) = true :=
      holds_of_ne (by simpa using h)
    dsimp only
    rw [hheld]
    rfl
  refine ⟨by rw [Canceller.restate, htable, enter_state], ?_⟩
  rw [Canceller.restate, htable, resetOption_of_holds h, if_pos hs]
  refine (enter_window_of_measures (by exact hs) rfl).trans ?_
  exact (ite_congr rfl (fun _ => rfl) fun _ => resetWindow_cutOff c).trans (ite_self _)

/-! ## Between the modes other than OFF -/

/-- The working state a change to a mode leaves (R55). -/
def EchoMode.works (mode : EchoMode) (w : Working) : Working := if mode = .bypass then .converging else w

/-- A change between two of the modes ON, FREEZE and BYPASS (R55). -/
theorem echoed_between (hl : (look u.legs n).mode ≠ .off) (hm : mode ≠ .off) (h : mode ≠ (look u.legs n).mode)
    (ht : tail = (look u.legs n).tail) :
    u.echoed n mode tail false =
      (u.echoSet n mode tail).onMedia fun m =>
        (m.onCan n fun c => { c with working := mode.works c.working }).restate (u.echoSet n mode tail).legs n := by
  have hsame : ∀ m : Media, m.onCan n (fun c => { c with working := c.working }) = m := fun m =>
    congrArg (fun v => ({ m with can := v } : Media)) (upd_id _ _ _ rfl)
  show u.echoTailed n mode tail = _
  rw [echoTailed_same ht]
  unfold Units.echoModed Units.echoMode
  rw [if_neg (Ne.symm h)]
  cases hold : (look u.legs n).mode with
  | off => exact absurd hold hl
  | on | freeze | bypass =>
    cases mode with
    | off => exact absurd rfl hm
    | bypass => rfl
    | on | freeze => exact congrArg (Units.onMedia _) (funext fun m => congrArg (Media.restate _ n) (hsame m).symm)

/-- The state of a canceller that holds segments, in a leg whose mode is not OFF (Table 3-2). -/
theorem restate_state_of_holds {c : Canceller} {l : Leg} (h : c.held ≠ []) (w : Bool) :
    (c.restate l w).state = canTable true w l.state l.mode c.working := by
  rw [Canceller.restate, enter_state, holds_of_ne h]

theorem canTable_resting (w : Bool) {l : LegState} {mode : EchoMode} (k : Working) (hm : mode ≠ .off)
    (hl : l = .parked ∨ l = .connecting) : canTable true w l mode k = .held := by
  cases mode with
  | off => exact absurd rfl hm
  | on | freeze | bypass => rcases hl with rfl | rfl <;> rfl

/-- The state a mode gives a canceller that holds segments in a TALKING leg (Table 3-2). -/
def EchoMode.shows (mode : EchoMode) (w : Working) : CanState :=
  match mode with
  | .freeze => .held
  | .bypass => .bypassed
  | _ => if w = .converging then .converging else .converged

theorem canTable_talking (w : Bool) {mode : EchoMode} (k : Working) (hm : mode ≠ .off) :
    canTable true w .talking mode k = mode.shows k := by
  cases mode with
  | off => exact absurd rfl hm
  | freeze | bypass => rfl
  | on => cases k <;> rfl

/-- Entry into CONVERGING or CONVERGED from HELD or BYPASSED begins a window (R47, R51). -/
theorem enter_from_still {c : Canceller} {x : CanState} (hc : c.state = .held ∨ c.state = .bypassed)
    (hx : x.measures = true) : (c.enter x).timer = 0 ∧ (c.enter x).window = c.freshWindow := by
  have hm : c.state.measures = false := by rcases hc with h | h <;> rw [h] <;> rfl
  have hne : c.state ≠ x := by
    rintro rfl
    exact nomatch hm.symm.trans hx
  unfold Canceller.enter
  rw [if_neg hne]
  exact ⟨rfl, by simp only [hm, hx]⟩

end

end Sys2Proof.Machine
end

section
/-! PROOFS. ECHO: segments acquired from OFF, and a smaller or larger tail. -/

namespace Sys2Proof.Machine

section

variable {u : Units} {n : LegIx} {mode : EchoMode} {tail : Nat} {reset : Bool}

/-! ## From OFF -/

theorem acquire_of_short (hm : (look u.legs n).mode ≠ .off) (h : (look u.can n).held.length < (look u.can n).tail) :
    u.acquire n = u.onMedia fun m => m.ask u.legs (.leg n) ((look u.can n).tail - (look u.can n).held.length) :=
  if_pos ⟨hm, h⟩

theorem not_parked_of_inCall {l : Leg} (h : l.inCall = true) : l.state ≠ .parked := by
  intro hp
  rw [Leg.inCall, hp] at h
  exact nomatch h

/-- A leg in a call that holds nothing acquires its tail, or waits for it (R45). -/
theorem acquire_supplied (hm : (look u.legs n).mode ≠ .off) (hc : (look u.legs n).inCall = true)
    (hh : (look u.can n).held = []) (ht : (look u.can n).tail = tail) (hpos : 0 < tail) :
    (u.acquire n).Supplied n tail := by
  have hneed : (look u.can n).tail - (look u.can n).held.length = tail := by rw [ht, hh]; rfl
  rw [acquire_of_short hm (by rw [ht, hh]; exact hpos), hneed]
  exact askLeg_supplied tail (not_parked_of_inCall hc) hh

theorem echoTail_larger (h : (look u.can n).held.length < tail) :
    u.echoTail n tail = if (look u.legs n).inCall then u.acquire n else u := by
  show (if tail < (look u.can n).held.length then _ else if (look u.can n).held.length = tail then _ else _) = _
  rw [if_neg (by omega), if_neg (by omega)]

theorem echoTail_equal (h : (look u.can n).held.length = tail) :
    u.echoTail n tail = u.onMedia fun m => m.withdraw u.legs (.leg n) := by
  show (if tail < (look u.can n).held.length then _ else if (look u.can n).held.length = tail then _ else _) = _
  rw [if_neg (by omega), if_pos h]

theorem withdraw_of_not_waiting {m : Media} {who : Requester} (legs : Vector Leg 64) (h : m.pool.waits who = false) :
    m.withdraw legs who = m := if_neg (by rw [h]; exact Bool.false_ne_true)

/-- A tail stored again leaves a leg in a call supplied (R56). -/
theorem echoTail_supplied (h : u.Supplied n tail) (hm : (look u.legs n).mode ≠ .off)
    (hc : (look u.legs n).inCall = true) (ht : (look u.can n).tail = tail) (hpos : 0 < tail) :
    (u.echoTail n tail).Supplied n tail := by
  rcases h with h | h
  · rw [echoTail_larger (by rw [h.held]; exact hpos), if_pos hc]
    exact acquire_supplied hm hc h.held ht hpos
  · rw [echoTail_equal h.length]
    show (u.toMedia.withdraw u.legs (.leg n)).Supplied n tail
    rw [withdraw_of_not_waiting _ h.waits]
    exact .inr h

theorem resetOption_held (c : Canceller) :
    c.resetOption.held = c.held.map fun h => { h with taps := List.replicate 128 0 } := by
  by_cases h : c.held = []
  · rw [resetOption_of_empty h, h]
    rfl
  · rw [resetOption_of_holds h]

theorem echoReset_held (u : Units) (n : LegIx) :
    (look (u.echoReset n).can n).held =
      (look u.can n).held.map fun h => { h with taps := List.replicate 128 0 } := by
  rw [echoReset_can, restate_held, resetOption_held]

/-- The reset option leaves a leg supplied as it is (R57). -/
theorem echoReset_supplied (h : u.Supplied n tail) : (u.echoReset n).Supplied n tail := by
  have hheld := echoReset_held u n
  rcases h with h | h
  · refine .inl (h.of_held ?_ rfl fun _ he _ => he)
    rw [hheld, h.held]
    rfl
  · refine .inr ⟨h.waits, by rw [hheld, List.length_map, h.length], ?_⟩
    rw [hheld]
    exact List.forall_mem_map.mpr fun _ _ => rfl

theorem echoModed_from_off (hl : (look u.legs n).mode = .off) (hm : mode ≠ .off) :
    u.echoModed n mode tail =
      if (look (u.echoSet n mode tail).legs n).inCall then (u.echoSet n mode tail).acquire n
      else u.echoSet n mode tail := by
  unfold Units.echoModed Units.echoMode
  rw [hl, if_neg hm.symm]
  cases mode with
  | off => exact absurd rfl hm
  | on | freeze | bypass => rfl

/-- From OFF a leg in a call acquires its tail (R55). -/
theorem echoed_from_off (hl : (look u.legs n).mode = .off) (hm : mode ≠ .off) (hc : (look u.legs n).inCall = true)
    (hh : (look u.can n).held = []) (hpos : 0 < tail) : (u.echoed n mode tail reset).Supplied n tail := by
  have hset := echoSet_leg (u := u) (n := n) (mode := mode) (tail := tail)
  have hcan := echoSet_can (u := u) (n := n) (mode := mode) (tail := tail)
  have hin : (look (u.echoSet n mode tail).legs n).inCall = true := by rw [hset]; exact hc
  have hmoded : (u.echoModed n mode tail).Supplied n tail := by
    rw [echoModed_from_off hl hm, if_pos hin]
    exact acquire_supplied (by rw [hset]; exact hm) hin (by rw [hcan]; exact hh) (by rw [hcan]) hpos
  have hlegs : look (u.echoModed n mode tail).legs n = { look u.legs n with mode := mode, tail := tail } :=
    (congrArg (look · n) (echoMode_legs ..)).trans hset
  have htailed : (u.echoTailed n mode tail).Supplied n tail := by
    unfold Units.echoTailed
    split
    · refine echoTail_supplied hmoded (by rw [hlegs]; exact hm) (by rw [hlegs]; exact hc) ?_ hpos
      exact (echoMode_tail ..).trans (by rw [hcan])
    · exact hmoded
  unfold Units.echoed
  split
  · exact echoReset_supplied htailed
  · exact htailed

/-- Outside a call a canceller that holds less than a tail is left as it is (R55, R56). -/
theorem echoTailed_outside (hl : (look u.legs n).mode = .off ∨ mode = (look u.legs n).mode) (hm : mode ≠ .off)
    (hc : (look u.legs n).inCall = false) (hh : (look u.can n).held.length < tail) :
    u.echoTailed n mode tail = u.echoSet n mode tail := by
  have hin : (look (u.echoSet n mode tail).legs n).inCall = false := by rw [echoSet_leg]; exact hc
  have hmoded : u.echoModed n mode tail = u.echoSet n mode tail := by
    rcases hl with hl | hl
    · rw [echoModed_from_off hl hm, hin]
      rfl
    · exact echoModed_same hl
  unfold Units.echoTailed
  rw [hmoded, echoTail_larger (by rw [echoSet_can]; exact hh), hin]
  exact (ite_congr rfl (fun _ => rfl) fun _ => rfl).trans (ite_self _)

/-! ## A smaller tail -/

/-- What segments are marked with is who owns them. -/
theorem mark_owner_of_mem {p : Pool} {o : SegOwner} {segs : List SegIx} {i : SegIx} (h : i ∈ segs) :
    look (p.mark segs o).owner i = o := by
  suffices hs : ∀ (segs : List SegIx) (v : Vector SegOwner 384), i ∈ segs ∨ look v i = o →
      look (segs.foldl (fun v i => put v i o) v) i = o from hs segs p.owner (.inl h)
  intro segs
  induction segs with
  | nil => exact fun v hv => hv.resolve_left List.not_mem_nil
  | cons k segs ih =>
    refine fun v hv => ih _ ?_
    rw [look_put]
    by_cases hk : k = i
    · exact .inr (if_pos hk)
    · rw [if_neg hk]
      exact hv.imp_left fun hm => (List.mem_cons.mp hm).resolve_left (Ne.symm hk)

/-- What a canceller shows does not hang on its wait entry while it holds segments (Table 3-2). -/
theorem canTable_holds (w w' : Bool) (l : LegState) (mode : EchoMode) (k : Working) :
    canTable true w l mode k = canTable true w' l mode k := by
  cases l <;> cases mode <;> rfl

/-- The units with the segments beyond a tail given back and any wait entry withdrawn, before the grant pass. -/
structure Units.Shrunk (u : Units) (n : LegIx) (tail : Nat) (m : Media) : Prop where
  held : (look m.can n).held = (look u.can n).held.take tail
  waits : m.pool.waits (.leg n) = false
  state : (look u.can n).state =
      canTable true (u.pool.waits (.leg n)) (look u.legs n).state (look u.legs n).mode (look u.can n).working →
    (look m.can n).state = (look u.can n).state
  wait : u.pool.wait = [] → m.pool.wait = []
  owner : ∀ h ∈ (look u.can n).held.drop tail, look m.pool.owner h.num = .free

theorem restate_stable {c c' : Canceller} {l : Leg} {w w' : Bool} (hh : c'.held ≠ []) (hw : c'.working = c.working)
    (h : c.state = canTable true w l.state l.mode c.working) : (c'.restate l w').state = c.state := by
  rw [restate_state_of_holds hh, hw, h]
  exact canTable_holds ..

/-- A tail smaller than what is held, or equal to it: what the grant pass follows (R56). -/
theorem echoTail_shrunk (hpos : 0 < tail) (h : tail ≤ (look u.can n).held.length) :
    ∃ m, u.Shrunk n tail m ∧
      (u.echoTail n tail = u.onMedia (fun _ => m.pass u.legs) ∨ u.echoTail n tail = u.onMedia fun _ => m) := by
  have hne : (look u.can n).held.take tail ≠ [] := by
    rw [← List.length_pos_iff, List.length_take]
    omega
  rcases Nat.lt_or_eq_of_le h with hlt | heq
  · let p := fun p : Pool => (p.mark (((look u.can n).held.drop tail).map HeldSeg.num) .free).remove (.leg n)
    have hcan := onCan_restate_can u.legs n (u.onPool p) fun c => { c with held := c.held.take tail }
    refine ⟨(((u.onPool p).onCan n fun c => { c with held := c.held.take tail }).restate u.legs n),
      ⟨?_, ?_, fun hs => ?_, fun hw => ?_, fun g hg => ?_⟩, .inl (if_pos hlt)⟩
    · rw [hcan, restate_held]
      rfl
    · show (p u.pool).waits (.leg n) = false
      simp [p]
    · rw [hcan]
      exact restate_stable hne rfl hs
    · show (p u.pool).wait = []
      simp [p, Pool.remove, Pool.mark, hw]
    · exact mark_owner_of_mem (List.mem_map_of_mem hg)
  · have htake : (look u.can n).held.take tail = (look u.can n).held := by rw [heq, List.take_length]
    have hdrop : ∀ g ∈ (look u.can n).held.drop tail, False := by
      rw [heq, List.drop_length]
      exact fun _ => List.not_mem_nil
    rw [echoTail_equal heq.symm]
    by_cases hw : u.pool.waits (.leg n) = true
    · have hcan := restate_can_self u.legs n (u.onPool fun p => p.remove (.leg n))
      refine ⟨(u.onPool fun p => p.remove (.leg n)).restate u.legs n,
        ⟨?_, by simp [Media.restate], fun hs => ?_, fun h0 => ?_, fun g hg => (hdrop g hg).elim⟩, .inl ?_⟩
      · rw [hcan, restate_held]
        exact htake.symm
      · rw [hcan]
        exact restate_stable (htake ▸ hne) rfl hs
      · simp [Media.restate, Pool.remove, h0]
      · exact congrArg (fun m : Media => ({ u with toMedia := m } : Units)) (if_pos hw)
    · rw [Bool.not_eq_true] at hw
      refine ⟨u.toMedia, ⟨htake.symm, hw, fun _ => rfl, id, fun g hg => (hdrop g hg).elim⟩, .inr ?_⟩
      exact congrArg (fun m : Media => ({ u with toMedia := m } : Units)) (withdraw_of_not_waiting _ hw)

/-- A change of the tail alone (R56). -/
theorem echoed_tailChange (hm : mode = (look u.legs n).mode) (hon : mode ≠ .off) (ht : tail ≠ (look u.legs n).tail) :
    u.echoed n mode tail false = (u.echoSet n mode tail).echoTail n tail := by
  show u.echoTailed n mode tail = _
  rw [echoTailed_changed hon ht, echoModed_same hm]

/-- What a smaller tail, or the one that is held, leaves: a leg that a pass cannot reclaim keeps the first segments,
and with nobody waiting the others are FREE (R56, R81, R82). -/
theorem echoTail_kept (hpos : 0 < tail) (h : tail ≤ (look u.can n).held.length)
    (hs : (look u.legs n).state ≠ .parked ∨ u.pool.wait = []) :
    (look (u.echoTail n tail).can n).held = (look u.can n).held.take tail ∧
      (u.echoTail n tail).pool.waits (.leg n) = false ∧
      ((look u.can n).state =
          canTable true (u.pool.waits (.leg n)) (look u.legs n).state (look u.legs n).mode (look u.can n).working →
        (look (u.echoTail n tail).can n).state = (look u.can n).state) ∧
      (u.pool.wait = [] →
        (u.echoTail n tail).pool.wait = [] ∧
          ∀ g ∈ (look u.can n).held.drop tail, look (u.echoTail n tail).pool.owner g.num = .free) := by
  obtain ⟨m, hm, ht⟩ := echoTail_shrunk hpos h
  have hpass : look (m.pass u.legs).can n = look m.can n ∧ (m.pass u.legs).pool.waits (.leg n) = false := by
    rcases hs with hs | hw
    · exact (pass_serves ..).rest (.inl hs) hm.waits
    · rw [pass_of_wait_nil u.legs (hm.wait hw)]
      exact ⟨rfl, hm.waits⟩
  rcases ht with ht | ht <;> rw [ht]
  · refine ⟨by rw [Units.onMedia_toMedia, hpass.1, hm.held], hpass.2,
      fun hst => by rw [Units.onMedia_toMedia, hpass.1, hm.state hst], fun hw => ?_⟩
    rw [Units.onMedia_toMedia, pass_of_wait_nil u.legs (hm.wait hw)]
    exact ⟨hm.wait hw, hm.owner⟩
  · exact ⟨hm.held, hm.waits, hm.state, fun hw => ⟨hm.wait hw, hm.owner⟩⟩

/-! ## A larger tail -/

theorem not_waiting_of_nil {p : Pool} (h : p.wait = []) (who : Requester) : p.waits who = false := by
  rw [Pool.waits, h]
  rfl

/-- With nobody waiting, a need that fits is granted at once (R75, R78). -/
theorem askLeg_granted {legs : Vector Leg 64} {m : Media} {need : Nat} (hw : m.pool.wait = [])
    (hf : m.pool.fits (.leg n) need = true) :
    (m.ask legs (.leg n) need).pool.wait = [] ∧
      (look (m.ask legs (.leg n) need).can n).held =
        (look m.can n).held ++ (m.pool.lowestFree need).map HeldSeg.fresh := by
  have hask : m.ask legs (.leg n) need = m.grant legs (.leg n) need := by
    unfold Media.ask
    rw [if_neg (by rw [not_waiting_of_nil hw]; exact Bool.false_ne_true),
      if_pos (Bool.and_eq_true_iff.mpr ⟨by rw [hw]; rfl, hf⟩)]
  rw [hask]
  exact ⟨by rw [grant_wait, hw]; rfl, by rw [grantLeg_can, restate_held, granted_held]⟩

/-- A pass whose head does not fit, with no leg to reclaim from, does nothing (R77). -/
theorem passLoop_of_stuck {legs : Vector Leg 64} {m : Media} {e : WaitEntry} {rest : List WaitEntry} (fuel : Nat)
    (hw : m.pool.wait = e :: rest) (hf : m.pool.fits e.who e.need = false) (hc : m.candidate legs = none) :
    m.passLoop legs fuel = m := by
  cases fuel with
  | zero => rfl
  | succ fuel =>
    unfold Media.passLoop
    split
    next => rfl
    next e' _ he =>
      obtain ⟨rfl, -⟩ := List.cons.inj (hw.symm.trans he)
      rw [if_neg (by rw [hf]; exact Bool.false_ne_true), hc]

theorem pass_of_stuck {legs : Vector Leg 64} {m : Media} {e : WaitEntry} {rest : List WaitEntry}
    (hw : m.pool.wait = e :: rest) (hf : m.pool.fits e.who e.need = false) (hc : m.candidate legs = none) :
    m.pass legs = m := passLoop_of_stuck _ hw hf hc

/-- The wait list after a leg has asked, before any grant (R76, R83). -/
def Pool.askedBy (p : Pool) (n : LegIx) (need : Nat) : List WaitEntry :=
  if p.waits (.leg n) then p.wait.map fun e => if e.who = .leg n then { e with need := need } else e
  else p.wait ++ [{ who := .leg n, need := need }]

/-- Behind a head that does not fit, with no leg to reclaim from, a leg that asks waits (R75, R83). -/
theorem askLeg_waits {legs : Vector Leg 64} {m : Media} {need : Nat} {e : WaitEntry} {rest : List WaitEntry}
    (hw : m.pool.askedBy n need = e :: rest) (hf : m.pool.fits e.who e.need = false)
    (hc : ∀ k, ¬ ((look legs k).state = .parked ∧ (look m.can k).held ≠ [])) :
    (m.ask legs (.leg n) need).pool = { m.pool with wait := m.pool.askedBy n need } ∧
      (look (m.ask legs (.leg n) need).can n).held = (look m.can n).held := by
  have hnone : ∀ t : Media, (∀ k, (look t.can k).held = (look m.can k).held) → t.candidate legs = none := by
    intro t ht
    cases hk : t.candidate legs with
    | none => rfl
    | some k =>
      obtain ⟨hp, hh⟩ := parkedFor_isSome (candidate_parkedFor hk)
      exact absurd ⟨hp, ht k ▸ hh⟩ (hc k)
  unfold Media.ask
  split
  next hwaits =>
    have hlist : m.pool.askedBy n need = (m.pool.changeNeed (.leg n) need).wait := if_pos hwaits
    have hpass := pass_of_stuck (legs := legs) (m := m.onPool fun p => p.changeNeed (.leg n) need)
      (hlist.symm.trans hw) hf (hnone _ fun _ => rfl)
    rw [hpass, hlist]
    exact ⟨rfl, rfl⟩
  next hwaits =>
    have hlist : m.pool.askedBy n need = m.pool.wait ++ [{ who := .leg n, need := need }] := if_neg hwaits
    rw [if_neg ?_]
    · have hheld := restate_can_held legs (m.onPool fun p => p.insert { who := .leg n, need := need }) n
      have hpass := pass_of_stuck (legs := legs)
        (m := (m.onPool fun p => p.insert { who := .leg n, need := need }).restate legs n)
        (hlist.symm.trans hw) hf (hnone _ hheld)
      dsimp only
      rw [hpass, hlist]
      exact ⟨rfl, hheld n⟩
    · rw [Bool.and_eq_true]
      rintro ⟨hnil, hfits⟩
      rw [hlist, List.isEmpty_iff.mp hnil] at hw
      obtain ⟨rfl, -⟩ := List.cons.inj hw
      exact nomatch hfits.symm.trans hf

end

end Sys2Proof.Machine
end

section
/-! PROOFS. ECHO settles: what a request of every kind leaves of leg, canceller and pool. -/

namespace Sys2Proof.Machine

section

variable {u : Units} {n : LegIx} {mode : EchoMode} {tail : Nat} {reset : Bool}

/-! ## What settling leaves of a leg's echo settings -/

theorem settle_echo (u : Units) (n : LegIx) :
    (look u.settle.legs n).mode = (look u.legs n).mode ∧ (look u.settle.legs n).tail = (look u.legs n).tail := by
  rcases (settle_prompts u).legs n with h | ⟨-, -, h⟩ <;> rw [h] <;> exact ⟨rfl, rfl⟩

theorem Units.Serves.supplied {t : Units} {need : Nat} (h : u.Serves n t) (hs : (look u.legs n).state ≠ .parked)
    (hv : u.Supplied n need) : t.Supplied n need := by
  rcases hv with ha | hg
  · exact h.waiting need hs ha
  · obtain ⟨hheld, hwaits⟩ := h.rest (.inl hs) hg.waits
    exact .inr (hg.of_held hheld hwaits)

/-- A canceller that waits has an entry with its need (R76). -/
theorem Media.Awaits.entry {m : Media} {need : Nat} (h : m.Awaits n need) :
    ∃ e ∈ m.pool.wait, e.who = .leg n ∧ e.need = need := by
  obtain ⟨e, he, hw⟩ := List.any_eq_true.mp h.waits
  exact ⟨e, he, of_decide_eq_true hw, h.need e he (of_decide_eq_true hw)⟩

theorem inCall_iff (l : Leg) : l.inCall = true ↔ l.state = .connecting ∨ l.state = .talking := by
  rw [Leg.inCall, Bool.or_eq_true, decide_eq_true_eq, decide_eq_true_eq]

/-! ## What ECHO leaves, request by request -/

/-- The reset option alone: zero taps, a fresh start, and in CONVERGING the window of R51 (R57). -/
theorem echoed_starts_afresh (hm : mode = (look u.legs n).mode) (ht : tail = (look u.legs n).tail) :
    look (u.echoed n mode tail true).can n =
      ({ look u.can n with tail := tail } : Canceller).resetOption.restate
        { look u.legs n with mode := mode, tail := tail } (u.pool.waits (.leg n)) := by
  rw [echoed_reset hm ht, echoReset_can, echoSet_can, echoSet_leg]
  rfl

/-- From OFF, a leg outside a call acquires nothing (R55). -/
theorem echoed_off_outside (hl : (look u.legs n).mode = .off) (hm : mode ≠ .off) (hc : (look u.legs n).inCall = false)
    (hh : (look u.can n).held = []) (hpos : 0 < tail) :
    (u.echoed n mode tail reset).pool = u.pool ∧ (u.echoed n mode tail reset).postings = u.postings ∧
      (look (u.echoed n mode tail reset).can n).held = [] := by
  have htailed := echoTailed_outside (u := u) (n := n) (tail := tail) (.inl hl) hm hc (by rw [hh]; exact hpos)
  have hheld : (look (u.echoSet n mode tail).can n).held = [] := by rw [echoSet_can]; exact hh
  unfold Units.echoed
  rw [htailed]
  cases reset with
  | false => exact ⟨rfl, rfl, hheld⟩
  | true => exact ⟨rfl, rfl, by rw [if_pos rfl, echoReset_held, hheld]; rfl⟩

/-- The canceller between two of the modes ON, FREEZE and BYPASS: its state follows from leg and mode (R43, R55). -/
theorem echoed_between_can (hl : (look u.legs n).mode ≠ .off) (hm : mode ≠ .off) (h : mode ≠ (look u.legs n).mode)
    (ht : tail = (look u.legs n).tail) :
    look (u.echoed n mode tail false).can n =
      ({ look u.can n with tail := tail, working := mode.works (look u.can n).working } : Canceller).restate
        { look u.legs n with mode := mode, tail := tail } (u.pool.waits (.leg n)) := by
  rw [echoed_between hl hm h ht, Units.onMedia_toMedia, onCan_restate_can, echoSet_can, echoSet_leg]
  rfl

/-- A larger tail in a call asks for what is missing (R56). -/
theorem echoed_larger (hm : mode = (look u.legs n).mode) (hon : mode ≠ .off) (ht : tail ≠ (look u.legs n).tail)
    (hc : (look u.legs n).inCall = true) (h : (look u.can n).held.length < tail) :
    u.echoed n mode tail false =
      (u.echoSet n mode tail).onMedia fun m =>
        m.ask (u.echoSet n mode tail).legs (.leg n) (tail - (look u.can n).held.length) := by
  have hcan := echoSet_can (u := u) (n := n) (mode := mode) (tail := tail)
  have hleg := echoSet_leg (u := u) (n := n) (mode := mode) (tail := tail)
  rw [echoed_tailChange hm hon ht, echoTail_larger (by rw [hcan]; exact h), if_pos (by rw [hleg]; exact hc),
    acquire_of_short (by rw [hleg]; exact hon) (by rw [hcan]; exact h), hcan]

/-- The canceller between two of the modes ON, FREEZE and BYPASS: segments and taps stay, and its state follows from
leg and mode (R43, R47, R51, R55). -/
theorem echoed_between_spec {c c' : Canceller} {work : Working} (hl : (look u.legs n).mode ≠ .off) (hm : mode ≠ .off)
    (h : mode ≠ (look u.legs n).mode) (ht : tail = (look u.legs n).tail) (hc : c = look u.can n)
    (hc' : c' = look (u.echoed n mode tail false).can n)
    (hw : work = if mode = .bypass then .converging else c.working) :
    c'.held = c.held ∧ c'.working = work ∧ c'.erle = c.erle ∧
      (c.held ≠ [] →
        ((look u.legs n).state = .parked ∨ (look u.legs n).state = .connecting → c'.state = .held) ∧
        ((look u.legs n).state = .talking →
          c'.state = mode.shows work ∧
          (mode = .on → c.state = .held ∨ c.state = .bypassed →
            c'.timer = 0 ∧
            c'.window =
              { count := 0, ref := 0, rx := 0, est := 0, res := 0
                adapts := levelAtLeast (sumSquares (c.history.take 32)) 32 (-450) && !c.doubleTalk }))) := by
  let x : Canceller := { c with tail := tail, working := work }
  let l : Leg := { look u.legs n with mode := mode, tail := tail }
  have hx : c' = x.restate l (u.pool.waits (.leg n)) := by
    rw [hc', echoed_between_can hl hm h ht]
    simp only [x, l, hw, hc, EchoMode.works]
  have hstate : c.held ≠ [] →
      c'.state = canTable true (u.pool.waits (.leg n)) (look u.legs n).state mode work := fun hh => by
    rw [hx]
    exact restate_state_of_holds (c := x) hh _
  refine ⟨by rw [hx]; exact restate_held .., by rw [hx]; exact enter_working .., by rw [hx]; exact enter_erle ..,
    fun hh => ⟨fun hs => ?_, fun hs => ⟨?_, fun hon hstill => ?_⟩⟩⟩
  · rw [hstate hh, canTable_resting _ _ hm hs]
  · rw [hstate hh, hs]
    exact canTable_talking _ _ hm
  · have hshown : canTable (!x.held.isEmpty) (u.pool.waits (.leg n)) l.state l.mode x.working = work.shown := by
      rw [holds_of_ne (held := x.held) hh, show l.state = .talking from hs, show l.mode = .on from hon]
      exact canTable_talking_on ..
    rw [hx, Canceller.restate, hshown]
    exact enter_from_still (c := x) hstill (shown_measures work)

/-- A canceller that the reset option alone has left (R51, R57; log 29). -/
theorem echoed_reset_spec {c c' : Canceller} (hm : mode = (look u.legs n).mode) (ht : tail = (look u.legs n).tail)
    (hc : c = look u.can n) (hc' : c' = look (u.echoed n mode tail true).can n) (hh : c.held ≠ []) :
    c'.held = c.held.map (fun h => { h with taps := List.replicate 128 0 }) ∧
      c'.working = .converging ∧ c'.erle = 0 ∧ c'.timer = 0 ∧ c'.doubleTalk = false ∧
      ((look u.legs n).state = .talking → mode = .on → c.state = .converging ∨ c.state = .converged →
        c'.state = .converging ∧
        c'.window =
          if c.window.count = 0 then
            { count := 0, ref := 0, rx := 0, est := 0, res := 0
              adapts := levelAtLeast (sumSquares (c.history.take 32)) 32 (-450) }
          else { c.window with adapts := false }) := by
  subst hc hc'
  rw [echoed_starts_afresh hm ht]
  obtain ⟨hheld, hwork, herle, htimer, hdouble⟩ :=
    restate_resetOption (c := { look u.can n with tail := tail }) hh
      { look u.legs n with mode := mode, tail := tail } (u.pool.waits (.leg n))
  exact ⟨hheld, hwork, herle, htimer, hdouble, fun hl hon hs =>
    restate_resetOption_measures (c := { look u.can n with tail := tail })
      (l := { look u.legs n with mode := mode, tail := tail }) hh ((measures_iff _).mpr hs) hl hon _⟩

/-- A smaller tail, or the one that is held (R56). -/
theorem echoed_smaller (hm : mode = (look u.legs n).mode) (hon : mode ≠ .off) (ht : tail ≠ (look u.legs n).tail)
    (hpos : 0 < tail) {c c' : Canceller} {v : Units} (hv : v = u.echoed n mode tail false) (hc : c = look u.can n)
    (hc' : c' = look v.can n) (h : tail ≤ c.held.length) (hs : (look u.legs n).state ≠ .parked ∨ u.pool.wait = []) :
    c'.held = c.held.take tail ∧ v.pool.waits (.leg n) = false ∧
      (c.state = canTable true (u.pool.waits (.leg n)) (look u.legs n).state mode c.working → c'.state = c.state) ∧
      (u.pool.wait = [] →
        v.pool.wait = [] ∧ ∀ h ∈ c.held.drop tail, look v.pool.owner h.num = .free) := by
  have hcan := echoSet_can (u := u) (n := n) (mode := mode) (tail := tail)
  have hleg := echoSet_leg (u := u) (n := n) (mode := mode) (tail := tail)
  rw [echoed_tailChange hm hon ht] at hv
  have hkept := echoTail_kept (u := u.echoSet n mode tail) (n := n) hpos (by rw [hcan]; exact hc ▸ h)
    (by rw [hleg]; exact hs)
  rw [← hv, hcan, hleg] at hkept
  subst hc hc'
  exact hkept

/-- What is stored leaves every leg's state and every canceller's segments. -/
theorem echoSet_state (k : LegIx) : (look (u.echoSet n mode tail).legs k).state = (look u.legs k).state := by
  rw [Units.echoSet, Units.onMedia_legs, Units.onLeg_legs, look_upd]
  split
  next h => rw [h]
  next => rfl

theorem echoSet_held (k : LegIx) : (look (u.echoSet n mode tail).can k).held = (look u.can k).held := by
  rw [Units.echoSet, Units.onMedia_toMedia, Media.onCan_can, look_upd]
  split
  next h => rw [← h]; rfl
  next => rfl

/-- A larger tail (R56). -/
theorem echoed_larger_spec (hm : mode = (look u.legs n).mode) (hon : mode ≠ .off) (ht : tail ≠ (look u.legs n).tail)
    {c c' : Canceller} {v : Units} {need : Nat} (hv : v = u.echoed n mode tail false) (hc : c = look u.can n)
    (hc' : c' = look v.can n) (hneed : need = tail - c.held.length) (h : c.held.length < tail) :
    ((look u.legs n).inCall = false → v.pool = u.pool ∧ c'.held = c.held) ∧
      ((look u.legs n).inCall = true →
        (u.pool.wait = [] → u.pool.fits (.leg n) need = true →
          v.pool.wait = [] ∧ c'.held = c.held ++ (u.pool.lowestFree need).map HeldSeg.fresh) ∧
        ∀ e rest, u.pool.askedBy n need = e :: rest → u.pool.fits e.who e.need = false →
          (∀ k, ¬ ((look u.legs k).state = .parked ∧ (look u.can k).held ≠ [])) →
          c'.held = c.held ∧ v.pool = { u.pool with wait := u.pool.askedBy n need }) := by
  have hcan := echoSet_can (u := u) (n := n) (mode := mode) (tail := tail)
  have hheld : (look (u.echoSet n mode tail).can n).held = c.held := by rw [hcan, hc]
  subst hc'
  refine ⟨fun hin => ?_, fun hin => ?_⟩
  · have hsame : v = u.echoSet n mode tail := hv.trans (echoTailed_outside (.inr hm) hon hin (hc ▸ h))
    rw [hsame]
    exact ⟨rfl, hheld⟩
  · rw [echoed_larger hm hon ht hin (hc ▸ h), ← hc, ← hneed] at hv
    rw [hv, ← hheld]
    refine ⟨fun hw hf => askLeg_granted hw hf, fun e rest hw hf hr => And.symm ?_⟩
    exact askLeg_waits (m := (u.echoSet n mode tail).toMedia) hw hf fun k hk =>
      hr k ⟨(echoSet_state k).symm.trans hk.1, fun h0 => hk.2 ((echoSet_held k).trans h0)⟩

end

/-- Settles O35: ECHO stores its settings and acts on mode, tail and reset in turn; what grant passes and prompts do
after it leaves a canceller that is vacant, or supplied in a call, as it is. -/
theorem echoStoresSettings : Obligations.EchoStoresSettings := by
  unfold Obligations.EchoStoresSettings
  rintro s tag n mode tail reset _ hs h2 h8 rfl
  have hpos : 0 < tail := by omega
  have hown := ownEcho_eq s.toUnits n mode reset h2 h8
  have hleg : look (s.toUnits.echoed n mode tail reset).legs n = { look s.legs n with mode := mode, tail := tail } := by
    rw [echoed_legs, look_upd_self]
  have hkeeps := (echoed_keeps s.toUnits n mode tail reset).media
  have hserves := settle_serves n (s.toUnits.echoed n mode tail reset)
  have hquiet : (s.toUnits.echoed n mode tail reset).postings = s.postings →
      (s.toUnits.echoed n mode tail reset).settle = s.toUnits.echoed n mode tail reset := fun h =>
    Units.settle_of_none _ (h.trans hs.2)
  have hecho := settle_echo (s.toUnits.echoed n mode tail reset) n
  refine ⟨⟨_, _, congrArg Host.Outcome.next (request_units hs (by simp) (by rfl) hown), rfl, rfl, ?_, ?_, ?_,
    fun hr => ?_, ?_, ?_, ?_⟩, ?_⟩
  · exact hecho.1.trans (by rw [hleg])
  · exact hecho.2.trans (by rw [hleg])
  · exact ((settle_prompts _).tail n).trans (echoed_tail ..)
  · rw [settle_of_keeps hs.2 hr hkeeps]
    exact ⟨rfl, echoed_legs ..⟩
  · rintro rfl hl
    have hv := hserves.vacant (echoed_off hl)
    exact ⟨hv.held, hv.state, hv.waits⟩
  · rintro hm ht rfl hh
    rw [hquiet (by rw [echoed_reset hm ht]; rfl)]
    exact echoed_reset_spec hm ht rfl rfl hh
  · rintro _ _ _ work need wait rfl rfl rfl hon hwork hneed hwait
    refine ⟨fun hl hh hw => ⟨fun hc => ?_, fun hc => ?_⟩, fun hl h ht hre => ?_,
      fun hm ht hre hr => ⟨?_, fun h => ⟨?_, ?_⟩⟩⟩
    · have hin := (inCall_iff _).mpr hc
      rcases hserves.supplied (by rw [hleg]; exact not_parked_of_inCall hin) (echoed_from_off hl hon hin hh hpos) with
        ha | hg
      · exact .inr ⟨ha.held, ha.entry⟩
      · exact .inl ⟨hg.length, hg.taps, hg.waits⟩
    · obtain ⟨hpool, hpost, hheld⟩ :=
        echoed_off_outside (reset := reset) hl hon ((not_inCall_iff _).mpr hc) hh hpos
      rw [hquiet hpost]
      exact ⟨hpool, hheld⟩
    · subst hre
      rw [hquiet (by rw [echoed_between hl hon h ht]; rfl)]
      exact ⟨by rw [echoed_between hl hon h ht]; rfl, echoed_between_spec hl hon h ht rfl rfl hwork⟩
    all_goals subst hre; rw [settle_of_keeps hs.2 hr hkeeps]
    · exact fun h hp => echoed_smaller hm hon ht hpos rfl rfl rfl h hp
    · exact fun hc => (echoed_larger_spec hm hon ht rfl rfl rfl hneed h).1 ((not_inCall_iff _).mpr hc)
    · intro hc
      obtain ⟨hgrant, hstuck⟩ := (echoed_larger_spec hm hon ht rfl rfl rfl hneed h).2 ((inCall_iff _).mpr hc)
      refine ⟨fun hw hf hf' => hgrant hw ?_, fun e rest hw hf hr => ?_⟩
      · exact Bool.and_eq_true_iff.mpr ⟨decide_eq_true hf, decide_eq_true hf'⟩
      · have hasked : s.pool.askedBy n need = wait := hwait.symm
        rw [hasked] at hstuck
        exact hstuck e rest hw hf hr
  · rintro hm ht hc rfl
    refine congrArg Host.Outcome.next (request_refused hs (by simp) (by rfl) (hown.trans ?_))
    rw [echoed_unchanged hm ht hc]
    rfl

end Sys2Proof.Machine
end

section
/-! PROOFS. The end of an analysis block: the speech decision with its hangover, learning, the alarm timers and
delivery, and the commands that bring it about (O37, O38). -/

namespace Sys2Proof.Machine

/-! ## The suppressor -/

section

variable (c : Suppressor) (block : List Sample) (levels : List Int)

/-- The speech decision: below 500 ms of learned time by level alone, then by the floor and the hangover (R61). -/
theorem decideSpeech_eq :
    c.decideSpeech block =
      { c with
        speech :=
          if c.learned < 500 then levelAtLeast (sumSquares block) block.length (-300)
          else c.aboveFloor block || (c.speech && decide (c.hangover + 8 < 200))
        hangover :=
          if c.learned < 500 then c.hangover
          else if c.aboveFloor block = true then 0
          else if c.speech = false then c.hangover
          else if c.hangover + 8 < 200 then c.hangover + 8 else 0 } := by
  unfold Suppressor.decideSpeech
  by_cases hl : c.learned < 500
  · simp only [learnedEnough, hl, if_true]
  simp only [learnedEnough, hl, if_false]
  cases ha : c.aboveFloor block
  case true => simp only [Bool.true_or, if_true]
  cases hs : c.speech
  case false =>
    simp only [Bool.false_eq_true, if_false, if_true, Bool.false_or, Bool.false_and]
    rw [← hs]
  by_cases hh : c.hangover + 8 < 200
  · have hlim : ¬ hangoverLimit ≤ c.hangover + 8 := Nat.not_le.mpr hh
    simp only [Suppressor.hang, hlim, hh, if_false, if_true, decide_true, Bool.false_eq_true, Bool.true_eq_false,
      Bool.and_self, Bool.or_true]
    rw [← hs]
  · have hlim : hangoverLimit ≤ c.hangover + 8 := Nat.not_lt.mp hh
    simp only [Suppressor.hang, hlim, hh, if_false, if_true, decide_false, Bool.false_eq_true, Bool.true_eq_false,
      Bool.and_false, Bool.or_false]

/-- Learning touches the profile alone, and only while the speech flag is clear; from 500 ms each band moves toward
its level (R62). -/
theorem learn_eq :
    ∃ bands early,
      c.learn levels =
        { c with
          bands := bands, early := early
          learned := if c.speech then c.learned else min 60000 (c.learned + 8)
          floor := if c.speech then c.floor else sumDb bands } ∧
      (c.speech = true → bands = c.bands) ∧
      (c.speech = false → 500 ≤ c.learned → bands = List.zipWith moveBand c.bands levels) := by
  unfold Suppressor.learn
  cases hs : c.speech
  case true => exact ⟨c.bands, c.early, by simp [← hs], fun _ => rfl, nofun⟩
  case false => exact ⟨_, _, rfl, nofun, fun _ hl => if_neg (Nat.not_lt.mpr hl)⟩

/-- The timer of the alarm state's own direction counts the block or is cleared (R68, R69). -/
theorem alarmTick_eq :
    c.alarmTick =
      { c with
        highTimer := if c.alarm = .normal then (if c.alarmCounts then c.highTimer + 8 else 0) else c.highTimer
        lowTimer := if c.alarm = .high then (if c.alarmCounts then c.lowTimer + 8 else 0) else c.lowTimer } := by
  unfold Suppressor.alarmTick
  cases h : c.alarm <;> simp

variable {c}

theorem alarmCounts_normal (h : c.alarm = .normal) :
    c.alarmCounts = true ↔ 500 ≤ c.learned ∧ c.threshold < c.floor := by
  simp only [Suppressor.alarmCounts, h, Bool.and_eq_true, decide_eq_true_eq]
  rfl

theorem alarmCounts_high (h : c.alarm = .high) : c.alarmCounts = true ↔ c.floor < c.threshold - 3 := by
  simp [Suppressor.alarmCounts, h]

theorem alarmReached_high : c.alarmReached = some .high ↔ c.alarm = .normal ∧ 2000 ≤ c.highTimer := by
  rw [show 2000 = alarmHold from rfl, Suppressor.alarmReached]
  cases c.alarm
  case normal => by_cases h : alarmHold ≤ c.highTimer <;> simp [h]
  case high => by_cases h : alarmHold ≤ c.lowTimer <;> simp [h]

theorem alarmReached_normal : c.alarmReached = some .normal ↔ c.alarm = .high ∧ 2000 ≤ c.lowTimer := by
  rw [show 2000 = alarmHold from rfl, Suppressor.alarmReached]
  cases c.alarm
  case normal => by_cases h : alarmHold ≤ c.highTimer <;> simp [h]
  case high => by_cases h : alarmHold ≤ c.lowTimer <;> simp [h]

/-- A block after suppression is as long as before. -/
theorem suppress_length : (c.suppress block levels).length = block.length := by
  unfold Suppressor.suppress
  dsimp only
  split
  · rfl
  · exact List.length_mapIdx

/-- Level 0 attenuates no band (R64). -/
theorem bandAttenuation_zero (est lvl : Int) : bandAttenuation 0 est lvl = 0 := by
  unfold bandAttenuation
  dsimp only
  split
  · rfl
  · split
    · rfl
    · exact Nat.zero_mul _

theorem suppress_of_unattenuated (h : c.level = 0 ∨ c.learned < 500) : c.suppress block levels = block := by
  refine if_pos (h.symm.imp_right fun h0 => ?_)
  rw [h0, List.all_eq_true]
  intro a ha
  obtain ⟨est, lvl, rfl⟩ : ∃ est lvl, bandAttenuation 0 est lvl = a := by
    obtain ⟨i, hi, rfl⟩ := List.getElem_of_mem ha
    exact ⟨_, _, (List.getElem_zipWith ..).symm⟩
  exact decide_eq_true (bandAttenuation_zero ..)

end

/-- The block a suppressor has gathered, heard: the speech decision and learning. -/
def Suppressor.heard (c : Suppressor) : Suppressor :=
  (c.decideSpeech (c.gather.take 64)).learn (bandLevels (c.gather.take 64))

section

variable (c : Suppressor)

theorem judge_eq : c.judge = c.heard.alarmTick := rfl

/-- Hearing a block leaves the settings, the alarm with its timers, the generator and the samples. -/
theorem heard_frame :
    c.heard =
      { c with
        speech := c.heard.speech, hangover := c.heard.hangover, bands := c.heard.bands
        learned := c.heard.learned, floor := c.heard.floor, early := c.heard.early } := by
  obtain ⟨bands, early, h, -, -⟩ := learn_eq (c.decideSpeech (c.gather.take 64)) (bandLevels (c.gather.take 64))
  rw [Suppressor.heard, h, decideSpeech_eq]

@[simp] theorem heard_alarm : c.heard.alarm = c.alarm := by rw [heard_frame]
@[simp] theorem heard_level : c.heard.level = c.level := by rw [heard_frame]
@[simp] theorem heard_threshold : c.heard.threshold = c.threshold := by rw [heard_frame]
@[simp] theorem heard_highTimer : c.heard.highTimer = c.highTimer := by rw [heard_frame]
@[simp] theorem heard_lowTimer : c.heard.lowTimer = c.lowTimer := by rw [heard_frame]
@[simp] theorem heard_generator : c.heard.generator = c.generator := by rw [heard_frame]
@[simp] theorem heard_gather : c.heard.gather = c.gather := by rw [heard_frame]
@[simp] theorem heard_deliver : c.heard.deliver = c.deliver := by rw [heard_frame]

end
section

variable (c : Suppressor)

/-- What learning makes of the speech decision. -/
theorem heard_eq :
    ∃ bands early,
      c.heard =
        { c.decideSpeech (c.gather.take 64) with
          bands := bands, early := early
          learned := if c.heard.speech then c.learned else min 60000 (c.learned + 8)
          floor := if c.heard.speech then c.floor else sumDb bands } ∧
      (c.heard.speech = true → bands = c.bands) ∧
      (c.heard.speech = false → 500 ≤ c.learned →
        bands = List.zipWith moveBand c.bands (bandLevels (c.gather.take 64))) := by
  obtain ⟨bands, early, h, hkeep, hmove⟩ :=
    learn_eq (c.decideSpeech (c.gather.take 64)) (bandLevels (c.gather.take 64))
  have hspeech : c.heard.speech = (c.decideSpeech (c.gather.take 64)).speech := by rw [Suppressor.heard, h]
  have hbands : (c.decideSpeech (c.gather.take 64)).bands = c.bands := by rw [decideSpeech_eq]
  have hlearned : (c.decideSpeech (c.gather.take 64)).learned = c.learned := by rw [decideSpeech_eq]
  have hfloor : (c.decideSpeech (c.gather.take 64)).floor = c.floor := by rw [decideSpeech_eq]
  rw [← hspeech, hbands] at hkeep hmove
  rw [hlearned] at h hmove
  rw [hfloor] at h
  refine ⟨bands, early, ?_, hkeep, hmove⟩
  rw [hspeech]
  exact h

theorem heard_learned : c.heard.learned = if c.heard.speech then c.learned else min 60000 (c.learned + 8) := by
  obtain ⟨bands, early, h, -, -⟩ := heard_eq c
  exact congrArg Suppressor.learned h

variable {c}

/-- A block with speech leaves the profile (R62). -/
theorem heard_of_speech (hs : c.heard.speech = true) : c.heard.bands = c.bands ∧ c.heard.floor = c.floor := by
  obtain ⟨bands, early, h, hkeep, -⟩ := heard_eq c
  exact ⟨(congrArg Suppressor.bands h).trans (hkeep hs), (congrArg Suppressor.floor h).trans (if_pos hs)⟩

/-- A block without speech is learned (R62). -/
theorem heard_of_silence (hs : c.heard.speech = false) :
    c.heard.floor = sumDb c.heard.bands ∧
      (500 ≤ c.learned → c.heard.bands = List.zipWith moveBand c.bands (bandLevels (c.gather.take 64))) := by
  obtain ⟨bands, early, h, -, hmove⟩ := heard_eq c
  have hbands : c.heard.bands = bands := congrArg Suppressor.bands h
  rw [hbands]
  exact ⟨(congrArg Suppressor.floor h).trans (if_neg (Bool.eq_false_iff.mp hs)), hmove hs⟩

theorem aboveFloor_of_length {block : List Sample} (h : block.length = 64) :
    c.aboveFloor block = levelExceeds (sumSquares block) 64 (10 * (c.floor + 9)) := by
  rw [Suppressor.aboveFloor, h]

theorem gathered_length (h : 64 ≤ c.gather.length) : (c.gather.take 64).length = 64 := List.length_take_of_le h

theorem heard_speech (hg : 64 ≤ c.gather.length) :
    c.heard.speech =
      if c.learned < 500 then levelAtLeast (sumSquares (c.gather.take 64)) 64 (-300)
      else levelExceeds (sumSquares (c.gather.take 64)) 64 (10 * (c.floor + 9)) ||
        (c.speech && decide (c.hangover + 8 < 200)) := by
  obtain ⟨bands, early, h, -, -⟩ := heard_eq c
  rw [decideSpeech_eq, aboveFloor_of_length (gathered_length hg), gathered_length hg] at h
  exact congrArg Suppressor.speech h

theorem heard_hangover (hg : 64 ≤ c.gather.length) :
    c.heard.hangover =
      if c.learned < 500 then c.hangover
      else if levelExceeds (sumSquares (c.gather.take 64)) 64 (10 * (c.floor + 9)) = true then 0
      else if c.speech = false then c.hangover
      else if c.hangover + 8 < 200 then c.hangover + 8 else 0 := by
  obtain ⟨bands, early, h, -, -⟩ := heard_eq c
  rw [decideSpeech_eq, aboveFloor_of_length (gathered_length hg), gathered_length hg] at h
  exact congrArg Suppressor.hangover h

/-- The hangover clears the speech flag at a block not above the floor that brings it to 200 ms (R61). -/
theorem decideSpeech_clears {block : List Sample} (hl : 500 ≤ c.learned) (hs : c.speech = true) :
    (c.decideSpeech block).speech = false ↔ c.aboveFloor block = false ∧ 200 ≤ c.hangover + 8 := by
  rw [decideSpeech_eq]
  simp only [Nat.not_lt.mpr hl, if_false, hs, Bool.true_and, Bool.or_eq_false_iff, decide_eq_false_iff_not, Nat.not_lt]

/-! ## The alarm timers at the end of a block -/

@[simp] theorem judge_alarm : c.judge.alarm = c.alarm := by
  rw [judge_eq, alarmTick_eq]
  exact heard_alarm c

/-- In NORMAL a block counts toward HIGH, or clears the count (R68). -/
theorem judge_timers_of_normal (h : c.alarm = .normal) :
    c.judge.lowTimer = c.lowTimer ∧
      c.judge.highTimer = if 500 ≤ c.heard.learned ∧ c.threshold < c.heard.floor then c.highTimer + 8 else 0 := by
  have ha : c.heard.alarm = .normal := (heard_alarm c).trans h
  rw [judge_eq, alarmTick_eq]
  simp only [ha, alarmCounts_normal ha, reduceCtorEq, if_true, if_false, heard_lowTimer, heard_highTimer,
    heard_threshold, and_self]

/-- In HIGH a block counts toward NORMAL, or clears the count (R69). -/
theorem judge_timers_of_high (h : c.alarm = .high) :
    c.judge.highTimer = c.highTimer ∧
      c.judge.lowTimer = if c.heard.floor < c.threshold - 3 then c.lowTimer + 8 else 0 := by
  have ha : c.heard.alarm = .high := (heard_alarm c).trans h
  rw [judge_eq, alarmTick_eq]
  simp only [ha, alarmCounts_high ha, reduceCtorEq, if_true, if_false, heard_lowTimer, heard_highTimer,
    heard_threshold, and_self]

theorem judge_reaches_high :
    c.judge.alarmReached = some .high ↔
      c.alarm = .normal ∧ 500 ≤ c.heard.learned ∧ c.threshold < c.heard.floor ∧ 2000 ≤ c.highTimer + 8 := by
  rw [alarmReached_high, judge_alarm, ← and_assoc (a := 500 ≤ _)]
  refine and_congr_right fun h => ?_
  rw [(judge_timers_of_normal h).2]
  by_cases hc : 500 ≤ c.heard.learned ∧ c.threshold < c.heard.floor
  · rw [if_pos hc, and_iff_right hc]
  · rw [if_neg hc]
    exact iff_of_false (by decide) fun hk => hc hk.1

theorem judge_reaches_normal :
    c.judge.alarmReached = some .normal ↔
      c.alarm = .high ∧ c.heard.floor < c.threshold - 3 ∧ 2000 ≤ c.lowTimer + 8 := by
  rw [alarmReached_normal, judge_alarm]
  refine and_congr_right fun h => ?_
  rw [(judge_timers_of_high h).2]
  by_cases hc : c.heard.floor < c.threshold - 3
  · rw [if_pos hc, and_iff_right hc]
  · rw [if_neg hc]
    exact iff_of_false (by decide) fun hk => hc hk.1

/-- With both timers short of their limits after the block, the alarm stays. -/
theorem judge_reaches_none (hh : c.highTimer + 8 < 2000) (hl : c.lowTimer + 8 < 2000) :
    c.judge.alarmReached = none := by
  cases h : c.judge.alarmReached with
  | none => rfl
  | some a =>
    cases a with
    | high =>
      obtain ⟨-, -, -, ht⟩ := judge_reaches_high.mp h
      exact absurd ht (Nat.not_le.mpr hh)
    | normal =>
      obtain ⟨-, -, ht⟩ := judge_reaches_normal.mp h
      exact absurd ht (Nat.not_le.mpr hl)

/-- Timers and delivery aside, a block's end leaves what hearing it left. -/
theorem judge_emit_eq (c : Suppressor) :
    c.judge.emit =
      { c.heard with
        highTimer := c.judge.highTimer, lowTimer := c.judge.lowTimer, gather := c.gather.drop 64
        deliver := c.deliver ++ c.heard.suppress (c.gather.take 64) (bandLevels (c.gather.take 64)) } := by
  rw [← heard_gather c, ← heard_deliver c, judge_eq, alarmTick_eq]
  rfl

end

/-! ## The block end and the alarm turn -/

/-- The event of a change to an alarm state (R68, R69). -/
def Alarm.event : Alarm → EventKind
  | .high => .noiseHigh
  | .normal => .noiseNormal

section

variable {s : State} {p : PosIx} {a : Alarm}

theorem alarmTurn_eq (s : State) (p : PosIx) (a : Alarm) :
    s.alarmTurn p a =
      { s with
        sup := upd s.sup p fun c => c.setAlarm a
        toUnits := s.toUnits.raise a.event (.position p)
          (detail2 (sbyte (look s.sup p).floor) (sbyte (look s.sup p).threshold)) (some p) } := by
  have hc : look (s.onSup p fun c => c.setAlarm a).sup p = (look s.sup p).setAlarm a := look_upd_self ..
  unfold State.alarmTurn
  dsimp only
  rw [hc]
  cases a <;> rfl

theorem blockDue_iff : s.blockDue p = true ↔ (look s.pos p).present = true ∧ 64 ≤ (look s.sup p).gather.length := by
  rw [State.blockDue, Bool.and_eq_true]
  exact and_congr_right' decide_eq_true_iff

theorem not_blockDue (h : (look s.pos p).present = false ∨ (look s.sup p).gather.length < 64) :
    ¬ s.blockDue p = true := by
  rw [blockDue_iff]
  rintro ⟨hp, hg⟩
  rcases h with h | h
  · exact Bool.false_ne_true (h.symm.trans hp)
  · exact absurd hg (Nat.not_le.mpr h)

/-- A block's end that leaves the alarm. -/
theorem blockEnd_quiet (h : (look s.sup p).judge.alarmReached = none) :
    s.blockEnd p = { s with sup := put s.sup p (look s.sup p).judge.emit } := by
  have hc : look (s.onSup p Suppressor.judge).sup p = (look s.sup p).judge := look_upd_self ..
  unfold State.blockEnd
  dsimp only
  rw [hc, h]
  exact congrArg (fun v => ({ s with sup := v } : State)) (upd_upd ..)

/-- A block's end that turns the alarm: the event carries the floor the block left. -/
theorem blockEnd_turning (h : (look s.sup p).judge.alarmReached = some a) :
    s.blockEnd p =
      { s with
        sup := put s.sup p ((look s.sup p).judge.setAlarm a).emit
        toUnits := s.toUnits.raise a.event (.position p)
          (detail2 (sbyte (look s.sup p).heard.floor) (sbyte (look s.sup p).threshold)) (some p) } := by
  have hc : look (s.onSup p Suppressor.judge).sup p = (look s.sup p).judge := look_upd_self ..
  have hfloor : (look s.sup p).judge.floor = (look s.sup p).heard.floor := by rw [judge_eq, alarmTick_eq]
  have hthreshold : (look s.sup p).judge.threshold = (look s.sup p).threshold := by
    rw [judge_eq, alarmTick_eq]
    exact heard_threshold _
  unfold State.blockEnd
  dsimp only
  rw [hc, h]
  dsimp only
  rw [alarmTurn_eq, hc, hfloor, hthreshold]
  simp only [State.onSup, upd_upd]
  rfl

/-- With no cue route an event raised over the suppressors only enters its record. -/
theorem settled_raise_of_noCue (hs : s.postings = []) (hr : s.noCueRoutes) (sup : Vector Suppressor 48)
    (k : EventKind) (x : Subject) (d : BitVec 16) (t : Option PosIx) :
    ({ s with sup := sup, toUnits := s.toUnits.raise k x d t } : State).settled =
      { s with sup := sup, router := s.router.record k x d } := by
  have hraise : s.toUnits.raise k x d t = { s.toUnits with router := s.router.record k x d } :=
    congrArg (fun m : Media => ({ s.toUnits with toMedia := m } : Units)) (raise_of_noCue (m := s.toMedia) hr ..)
  rw [hraise]
  exact settled_of_none hs

/-! ## The commands -/

theorem exec_blockEnd_of_due (h : s.blockDue p = true) :
    exec (.analysisBlockEnd p) s = .next (s.blockEnd p).settled :=
  congrArg Host.Outcome.next (if_pos h)

theorem exec_blockEnd_of_not_due (h : ¬ s.blockDue p = true) : exec (.analysisBlockEnd p) s = .next s :=
  congrArg Host.Outcome.next (if_neg h)

theorem exec_hangover_at_limit (h : 200 ≤ (look s.sup p).hangover) :
    exec (.hangoverExpiry p) s =
      .next { s with sup := upd s.sup p fun c => { c with speech := false, hangover := 0 } } :=
  congrArg Host.Outcome.next (if_pos h)

theorem exec_hangover_due (h : (look s.sup p).hangover < 200) (hd : s.blockDue p = true)
    (hl : 500 ≤ (look s.sup p).learned) (hs : (look s.sup p).speech = true)
    (hc : ((look s.sup p).decideSpeech ((look s.sup p).gather.take 64)).speech = false) :
    exec (.hangoverExpiry p) s = .next (s.blockEnd p).settled :=
  congrArg Host.Outcome.next ((if_neg (Nat.not_le.mpr h)).trans (if_pos ⟨hd, hl, hs, hc⟩))

theorem exec_hangover_not_due (h : (look s.sup p).hangover < 200)
    (hn : s.blockDue p = true → 500 ≤ (look s.sup p).learned → (look s.sup p).speech = true →
      ¬ ((look s.sup p).decideSpeech ((look s.sup p).gather.take 64)).speech = false) :
    exec (.hangoverExpiry p) s = .next s :=
  congrArg Host.Outcome.next
    ((if_neg (Nat.not_le.mpr h)).trans (if_neg fun ⟨hd, hl, hs, hc⟩ => hn hd hl hs hc))

theorem alarmExpiry_at_limit (h : (look s.sup p).alarmReached = some a) :
    s.alarmExpiry p a = (s.alarmTurn p a).settled := if_pos h

theorem alarmExpiry_due (h : (look s.sup p).alarmReached ≠ some a) (hd : s.blockDue p = true)
    (hj : (look s.sup p).judge.alarmReached = some a) : s.alarmExpiry p a = (s.blockEnd p).settled :=
  (if_neg h).trans (if_pos ((if_pos hd).trans hj))

theorem alarmExpiry_not_due (h : (look s.sup p).alarmReached ≠ some a)
    (hn : s.blockDue p = true → (look s.sup p).judge.alarmReached ≠ some a) : s.alarmExpiry p a = s := by
  refine (if_neg h).trans (if_neg ?_)
  unfold State.alarmDue
  split
  next hd => exact hn hd
  next => exact nofun

end

/-- A block's end that leaves the alarm raises nothing, so nothing is left to settle. -/
theorem settled_blockEnd_quiet {s : State} {p : PosIx} (hs : s.postings = [])
    (h : (look s.sup p).judge.alarmReached = none) :
    (s.blockEnd p).settled = { s with sup := put s.sup p (look s.sup p).judge.emit } := by
  rw [blockEnd_quiet h]
  exact settled_of_none hs

/-- Settles O37: the block is heard, the timers count it, and it is delivered; the hangover's expiry is that end where
the block clears the flag. -/
theorem analysisBlockEndDecides : Obligations.AnalysisBlockEndDecides := by
  unfold Obligations.AnalysisBlockEndDecides
  rintro s p _ _ _ hs rfl rfl rfl
  refine ⟨fun h => exec_blockEnd_of_not_due (not_blockDue h), fun hlt h => ?_, exec_hangover_at_limit,
    fun hp hg hh hl => ?_⟩
  · refine exec_hangover_not_due hlt fun hd hlearned hspeech hclear => ?_
    obtain ⟨hp, hg⟩ := blockDue_iff.mp hd
    obtain ⟨hbelow, hend⟩ := (decideSpeech_clears hlearned hspeech).mp hclear
    rw [aboveFloor_of_length (gathered_length hg)] at hbelow
    rcases h with h | h | h | h | h | h
    · exact not_blockDue (.inl h) hd
    · exact not_blockDue (.inr h) hd
    · exact absurd hlearned (Nat.not_le.mpr h)
    · exact Bool.false_ne_true (h.symm.trans hspeech)
    · exact Bool.false_ne_true (hbelow.symm.trans h)
    · exact absurd hend (Nat.not_le.mpr h)
  · have hd := blockDue_iff.mpr ⟨hp, hg⟩
    have hlen := gathered_length hg
    have hrun := exec_blockEnd_of_due hd
    have hend := settled_blockEnd_quiet hs (judge_reaches_none hh hl)
    let block := (look s.sup p).gather.take 64
    refine ⟨_, (look s.sup p).heard.suppress block (bandLevels block),
      hrun.trans (congrArg Host.Outcome.next hend), ?_⟩
    rw [judge_emit_eq]
    refine ⟨heard_speech hg, heard_hangover hg, heard_learned _, heard_of_speech, heard_of_silence,
      judge_timers_of_normal, judge_timers_of_high, rfl, rfl, (suppress_length ..).trans hlen,
      fun h => suppress_of_unattenuated _ _ (h.imp_left (heard_level _).trans), heard_alarm _, heard_level _,
      heard_threshold _, heard_generator _, fun hlearned hspeech hbelow hlt hlim => ?_⟩
    have hclear := (decideSpeech_clears hlearned hspeech).mpr ⟨(aboveFloor_of_length hlen).trans hbelow, hlim⟩
    exact (exec_hangover_due hlt hd hlearned hspeech hclear).trans hrun.symm

/-- An alarm timer that stands at its limit turns the alarm; with no cue route the event only enters its record. -/
theorem alarmExpiry_turns {s : State} {p : PosIx} {a : Alarm} (hs : s.postings = [])
    (h : (look s.sup p).alarmReached = some a) :
    (s.alarmExpiry p a).sup = (upd s.sup p fun c => c.setAlarm a) ∧
      (s.noCueRoutes →
        s.alarmExpiry p a =
          { s with
            sup := (s.alarmExpiry p a).sup
            router := s.router.record a.event (.position p)
              (detail2 (sbyte (look s.sup p).floor) (sbyte (look s.sup p).threshold)) }) := by
  rw [alarmExpiry_at_limit h, alarmTurn_eq]
  exact ⟨rfl, fun hr => settled_raise_of_noCue hs hr ..⟩

/-- A block's end that brings an alarm timer to its limit turns the alarm, delivers the block, and is what the
timer's expiry does (log 6). -/
theorem blockEnd_turns {s : State} {p : PosIx} {a : Alarm} (hs : s.postings = []) (hd : s.blockDue p = true)
    (h0 : (look s.sup p).alarmReached ≠ some a) (h : (look s.sup p).judge.alarmReached = some a) :
    ∃ t : State, exec (.analysisBlockEnd p) s = .next t ∧ s.alarmExpiry p a = t ∧
      (look t.sup p).alarm = a ∧ (look t.sup p).highTimer = 0 ∧ (look t.sup p).lowTimer = 0 ∧
      (look t.sup p).gather = (look s.sup p).gather.drop 64 ∧ (look t.sup p).floor = (look s.sup p).heard.floor ∧
      (s.noCueRoutes →
        t = { s with
          sup := t.sup
          router := s.router.record a.event (.position p)
            (detail2 (sbyte (look s.sup p).heard.floor) (sbyte (look s.sup p).threshold)) }) := by
  have hsup : look (s.blockEnd p).settled.sup p = ((look s.sup p).judge.setAlarm a).emit := by
    rw [blockEnd_turning h]
    exact look_put_self ..
  refine ⟨_, exec_blockEnd_of_due hd, alarmExpiry_due h0 hd h, ?_⟩
  rw [hsup, judge_eq, alarmTick_eq]
  refine ⟨rfl, rfl, rfl, congrArg (List.drop 64) (heard_gather _), rfl, fun hr => ?_⟩
  rw [blockEnd_turning h]
  exact settled_raise_of_noCue hs hr ..

/-- Settles O38: the timer that stands at 2 s, and the block's end that brings it there, turn the alarm; neither
timer is the other's, and short of the limit nothing happens. -/
theorem alarmTimersTurnAlarm : Obligations.AlarmTimersTurnAlarm := by
  unfold Obligations.AlarmTimersTurnAlarm
  rintro s p _ _ _ _ hs rfl rfl rfl rfl
  have short_high (h : (look s.sup p).highTimer < 2000) : (look s.sup p).alarmReached ≠ some .high := fun hk =>
    absurd (alarmReached_high.mp hk).2 (Nat.not_le.mpr h)
  have short_low (h : (look s.sup p).lowTimer < 2000) : (look s.sup p).alarmReached ≠ some .normal := fun hk =>
    absurd (alarmReached_normal.mp hk).2 (Nat.not_le.mpr h)
  refine ⟨fun ha ht => ?_, fun ha ht => ?_, fun hp hg ha hlt hge hl hf => ?_, fun hp hg ha hlt hge hf => ?_,
    fun h => ?_, fun h => ?_⟩
  · exact ⟨_, rfl, alarmExpiry_turns hs (alarmReached_high.mpr ⟨ha, ht⟩)⟩
  · exact ⟨_, rfl, alarmExpiry_turns hs (alarmReached_normal.mpr ⟨ha, ht⟩)⟩
  · obtain ⟨t, hrun, hexp, hrest⟩ := blockEnd_turns hs (blockDue_iff.mpr ⟨hp, hg⟩) (short_high hlt)
      (judge_reaches_high.mpr ⟨ha, hl, hf, hge⟩)
    exact ⟨t, hrun, congrArg Host.Outcome.next hexp, hrest⟩
  · obtain ⟨t, hrun, hexp, hrest⟩ := blockEnd_turns hs (blockDue_iff.mpr ⟨hp, hg⟩) (short_low hlt)
      (judge_reaches_normal.mpr ⟨ha, hf, hge⟩)
    exact ⟨t, hrun, congrArg Host.Outcome.next hexp, hrest⟩
  · refine congrArg Host.Outcome.next (alarmExpiry_not_due ?_ fun hd hk => ?_)
    · rcases h with h | ⟨hlt, -⟩
      · exact fun hk => nomatch h.symm.trans (alarmReached_high.mp hk).1
      · exact short_high hlt
    · obtain ⟨ha, hl, hf, hge⟩ := judge_reaches_high.mp hk
      rcases h with h | ⟨-, h | h | h | h | h⟩
      · exact nomatch h.symm.trans ha
      · exact not_blockDue (.inl h) hd
      · exact not_blockDue (.inr h) hd
      · exact absurd hge (Nat.not_le.mpr h)
      · exact absurd hl (Nat.not_le.mpr h)
      · exact absurd hf (Int.not_lt.mpr h)
  · refine congrArg Host.Outcome.next (alarmExpiry_not_due ?_ fun hd hk => ?_)
    · rcases h with h | ⟨hlt, -⟩
      · exact fun hk => nomatch h.symm.trans (alarmReached_normal.mp hk).1
      · exact short_low hlt
    · obtain ⟨ha, hf, hge⟩ := judge_reaches_normal.mp hk
      rcases h with h | ⟨-, h | h | h | h⟩
      · exact nomatch h.symm.trans ha
      · exact not_blockDue (.inl h) hd
      · exact not_blockDue (.inr h) hd
      · exact absurd hge (Nat.not_le.mpr h)
      · exact absurd hf (Int.not_lt.mpr h)

end Sys2Proof.Machine
end

section
/-! PROOFS. The leg limit of the pool: marks, grants and passes keep it, and so does every operation of cursors, hold
groups and prompts. -/

namespace Sys2Proof.Machine

/-! ## Segments held by legs -/

theorem put_toList {α : Type} {k : Nat} (v : Vector α k) (i : Fin k) (x : α) :
    (put v i x).toList = v.toList.set i x := by
  rw [put, ← Vector.toList_toArray, Vector.toArray_set, Array.toList_set, Vector.toList_toArray]

/-- A segment that is marked joins those of legs at most once, and only where its new owner is a leg. -/
theorem countTaps_put_le (v : Vector SegOwner 384) (i : SegIx) (o : SegOwner) :
    (put v i o).toList.countP SegOwner.isTaps ≤ v.toList.countP SegOwner.isTaps + if o.isTaps then 1 else 0 := by
  rw [put_toList, List.countP_set (by simp)]
  omega

theorem legHeld_mark_le (p : Pool) (segs : List SegIx) (o : SegOwner) :
    (p.mark segs o).legHeld ≤ p.legHeld + if o.isTaps then segs.length else 0 := by
  suffices h : ∀ (segs : List SegIx) (v : Vector SegOwner 384),
      (segs.foldl (fun v i => put v i o) v).toList.countP SegOwner.isTaps ≤
        v.toList.countP SegOwner.isTaps + if o.isTaps then segs.length else 0 from h segs p.owner
  intro segs
  induction segs with
  | nil => exact fun v => Nat.le_add_right ..
  | cons i segs ih =>
    intro v
    have hput := countTaps_put_le v i o
    have hrest := ih (put v i o)
    cases ho : o.isTaps <;> simp only [ho, Bool.false_eq_true, if_false, if_true, List.length_cons] at hput hrest ⊢
      <;> exact hrest.trans (by omega)

theorem lowestFree_length_le (p : Pool) (need : Nat) : (p.lowestFree need).length ≤ need := List.length_take_le ..

/-- Segments that are marked for no leg leave the limit kept (R74). -/
theorem mark_within {p : Pool} {o : SegOwner} (ho : o.isTaps = false) (segs : List SegIx) (h : p.withinLimit) :
    (p.mark segs o).withinLimit := by
  have hle := legHeld_mark_le p segs o
  rw [ho] at hle
  exact Nat.le_trans hle h

/-- What fits may be granted (R74, R78). -/
theorem grant_within {legs : Vector Leg 64} {m : Media} {who : Requester} {need : Nat}
    (hf : m.pool.fits who need = true) (h : m.pool.withinLimit) : (m.grant legs who need).pool.withinLimit := by
  rw [grant_pool]
  cases who with
  | cursor c => exact mark_within rfl _ h
  | leg n =>
    have hlimit : m.pool.legHeld + need ≤ m.pool.legLimit := of_decide_eq_true (Bool.and_eq_true_iff.mp hf).2
    have hle : (m.pool.mark (m.pool.lowestFree need) (.taps n)).legHeld ≤
      m.pool.legHeld + (m.pool.lowestFree need).length := legHeld_mark_le ..
    exact (hle.trans (Nat.add_le_add_left (lowestFree_length_le ..) _)).trans hlimit

/-! ## The grant pass -/

section

variable {legs : Vector Leg 64} {m : Media}

theorem passLoop_within (fuel : Nat) (h : m.pool.withinLimit) : (m.passLoop legs fuel).pool.withinLimit := by
  induction fuel generalizing m with
  | zero => exact h
  | succ fuel ih =>
    unfold Media.passLoop
    split
    · exact h
    · split
      next hf => exact ih (grant_within hf h)
      · split
        · exact h
        · exact ih (mark_within rfl _ h)

theorem pass_within (h : m.pool.withinLimit) : (m.pass legs).pool.withinLimit := passLoop_within _ h

theorem ask_within (who : Requester) (need : Nat) (h : m.pool.withinLimit) :
    (m.ask legs who need).pool.withinLimit := by
  unfold Media.ask
  split
  · exact pass_within h
  · split
    next hf => exact grant_within (Bool.and_eq_true_iff.mp hf).2 h
    · cases who <;> exact pass_within h

theorem release_within (segs : List SegIx) (h : m.pool.withinLimit) : (m.release legs segs).pool.withinLimit :=
  pass_within (mark_within rfl segs h)

theorem withdraw_within (who : Requester) (h : m.pool.withinLimit) : (m.withdraw legs who).pool.withinLimit := by
  unfold Media.withdraw
  split
  · cases who <;> exact pass_within h
  · exact h

/-! ## Cursors -/

theorem issueRefill_pool (m : Media) (c : CurIx) : (m.issueRefill c).pool = m.pool := (issueRefill_framed m c).pool

theorem ringReady_pool (m : Media) (c : CurIx) : (m.ringReady c).pool = m.pool := issueRefill_pool ..

theorem enterItems_pool (m : Media) (c : CurIx) (items : List Item) (i elapsed : Nat) :
    (m.enterItems c items i elapsed).1.pool = m.pool := by
  induction items generalizing m i elapsed with
  | nil => rfl
  | cons it rest ih =>
    unfold Media.enterItems
    cases it with
    | clip id gain =>
      dsimp only
      split
      · rfl
      · exact ih ..
    | silence ms => rfl
    | tone k ms =>
      dsimp only
      split <;> rfl

theorem enterAt_pool (m : Media) (c : CurIx) (i elapsed : Nat) : (m.enterAt c i elapsed).1.pool = m.pool :=
  enterItems_pool ..

theorem dropReference_pool (m : Media) (c : CurIx) : (m.dropReference c).pool = m.pool := by
  unfold Media.dropReference
  split <;> rfl

theorem leaveItem_pool (m : Media) (c : CurIx) : (m.leaveItem c).pool = m.pool := dropReference_pool ..

theorem newPass_pool (m : Media) (c : CurIx) (q : CueIx) : (m.newPass c q).pool = m.pool := by
  unfold Media.newPass
  dsimp only
  split
  · exact (issueRefill_pool ..).trans (enterAt_pool ..)
  · exact enterAt_pool ..

theorem swapStarting_pool (m : Media) (c : CurIx) (q : CueIx) : (m.swapStarting c q).pool = m.pool := by
  unfold Media.swapStarting
  dsimp only
  generalize hx : (((m.dropReference c).withdrawRefill c).onCur c fun cur =>
    { cur with ring := cur.ring.map emptyRing, gap := false, played := false, underrun := false }).snap c q = x
  have hpool : ((x.onCur c fun cur => cur.beginAt cur.firstPlace).enterAt c 0 0).1.pool = m.pool := by
    rw [enterAt_pool, Media.onCur_pool, ← hx]
    exact dropReference_pool m c
  split <;> split
  · rw [ringReady_pool, hpool]
  · exact hpool
  · rw [ringReady_pool, Media.onCur_pool, hpool]
  · exact hpool

theorem giveRing_within (c : CurIx) (h : m.pool.withinLimit) : (m.giveRing legs c).pool.withinLimit := by
  unfold Media.giveRing
  split
  · exact release_within _ h
  · exact withdraw_within _ h

theorem stopCursor_within (c : CurIx) (h : m.pool.withinLimit) : (m.stopCursor legs c).pool.withinLimit := by
  unfold Media.stopCursor
  split
  · exact h
  · exact giveRing_within c (m := (m.dropReference c).withdrawRefill c) (dropReference_pool m c ▸ h)

theorem startCursor_within (c : CurIx) (q : CueIx) (place : Option Place) (h : m.pool.withinLimit) :
    (m.startCursor legs c q place).1.pool.withinLimit := by
  unfold Media.startCursor
  split
  · exact h
  · have hin : ∀ x i e,
        ((((m.onCur c fun cur => cur.stopped.beginAt x).snap c q).enterAt c i e).1).pool.withinLimit :=
      fun x i e => by rw [enterAt_pool]; exact h
    dsimp only
    split
    · exact ask_within _ _ (hin _ _ _)
    · split
      · exact ask_within _ _ (hin _ _ _)
      · exact hin _ _ _

end

/-! ## Hold groups -/

section

variable {u : Units} (g : GroupIx) (n : LegIx)

theorem startTest_within (h : u.pool.withinLimit) : (u.startTest g).pool.withinLimit := by
  unfold Units.startTest
  dsimp only
  split
  · exact h
  · split
    · exact startCursor_within _ _ _ h
    · exact h

theorem stopUnplayable_within (h : u.pool.withinLimit) : (u.stopUnplayable g).pool.withinLimit :=
  stopCursor_within _ h

theorem passStart_within (h : u.pool.withinLimit) : (u.passStart g).pool.withinLimit := by
  unfold Units.passStart
  dsimp only
  split
  · exact stopUnplayable_within g h
  · exact (newPass_pool u.toMedia _ _).symm ▸ h

theorem groupItemEnd_within (h : u.pool.withinLimit) : (u.groupItemEnd g).pool.withinLimit := by
  have hleft : (u.onMedia fun m => m.leaveItem (groupCursor g)).pool.withinLimit :=
    (leaveItem_pool u.toMedia _).symm ▸ h
  have hin := fun i => (enterAt_pool (u.onMedia fun m => m.leaveItem (groupCursor g)).toMedia (groupCursor g) i 0).symm ▸
    hleft
  unfold Units.groupItemEnd
  dsimp only
  split
  · exact passStart_within g hleft
  · split
    · exact (issueRefill_pool ..).symm ▸ hin _
    · split
      · exact passStart_within g (hin _)
      · exact hin _

theorem lastLeave_within (h : u.pool.withinLimit) : (u.lastLeave g).pool.withinLimit := stopCursor_within _ h

theorem leave_within (h : u.pool.withinLimit) : (u.leave g n).pool.withinLimit := by
  unfold Units.leave
  dsimp only
  split
  · exact lastLeave_within g h
  · exact h

theorem join_within (h : u.pool.withinLimit) : (u.join g n).pool.withinLimit := startTest_within g h

theorem moveTo_within (old : Option GroupIx) (h : u.pool.withinLimit) : (u.moveTo old g n).pool.withinLimit := by
  unfold Units.moveTo
  split
  · exact join_within g n h
  · split
    · exact h
    · exact join_within g n (leave_within _ n h)

theorem standIn_within (h : u.pool.withinLimit) : (u.standIn n g).pool.withinLimit := moveTo_within g n _ h

theorem leaveFrom_within (o : Option GroupIx) (h : u.pool.withinLimit) : (u.leaveFrom n o).pool.withinLimit := by
  cases o with
  | none => exact h
  | some g => exact leave_within g n h

theorem parkAlarm_within (h : u.pool.withinLimit) : (u.parkAlarm n).pool.withinLimit := by
  unfold Units.parkAlarm
  split <;> exact h

theorem changeSource_within (source : Option CueIx) (h : u.pool.withinLimit) :
    (u.changeSource g source).pool.withinLimit := by
  have hset : (u.onGroup g fun gr =>
      { gr with source := source
                point := if decide ((look u.groups g).source ≠ source) then none else gr.point }).pool.withinLimit := h
  unfold Units.changeSource
  dsimp only at hset ⊢
  generalize (u.onGroup g fun gr =>
    { gr with source := source
              point := if decide ((look u.groups g).source ≠ source) then none else gr.point }) = v at hset ⊢
  split
  · exact hset
  · split
    · exact hset
    · split
      · split
        · exact (swapStarting_pool v.toMedia _ _).symm ▸ hset
        · exact stopUnplayable_within g hset
      · exact hset

end

/-! ## Prompts -/

section

variable {u : Units} (p : PosIx)

theorem cutThrough_within (n : LegIx) (cause : CutCause) (h : u.pool.withinLimit) :
    (u.cutThrough n cause).pool.withinLimit := by
  rw [cutThrough_eq]
  exact leaveFrom_within (u := u.onLeg n Leg.cut) n _ h

theorem connectReport_within (cause : CutCause) (h : u.pool.withinLimit) :
    (u.connectReport p cause).pool.withinLimit := by
  unfold Units.connectReport
  dsimp only
  split
  · exact h
  · split
    · exact cutThrough_within _ cause h
    · exact h

theorem startEntry_within (e : Entry) (h : u.pool.withinLimit) : (u.startEntry p e).1.pool.withinLimit :=
  startCursor_within _ _ _ h

theorem completeEntry_within (e : Entry) (h : u.pool.withinLimit) : (u.completeEntry p e).pool.withinLimit := by
  unfold Units.completeEntry
  dsimp only
  split
  · exact connectReport_within p _ h
  · exact h

theorem takePlace_within (h : u.pool.withinLimit) : (u.takePlace p).1.pool.withinLimit := stopCursor_within _ h

theorem stopPos_within (h : u.pool.withinLimit) : (u.stopPos p).pool.withinLimit := stopCursor_within _ h

theorem pushPlaying_within (byCoach : Bool) (h : u.pool.withinLimit) :
    (u.pushPlaying p byCoach).pool.withinLimit := by
  unfold Units.pushPlaying
  split
  · exact h
  · exact h
  · dsimp only
    split
    · exact stopPos_within p h
    · exact h
    · exact takePlace_within p h

theorem nextLoop_within (fuel : Nat) (h : u.pool.withinLimit) : (u.nextLoop p fuel).pool.withinLimit := by
  induction fuel generalizing u with
  | zero => exact h
  | succ fuel ih =>
    have go : ∀ (v : Units) (e : Entry), v.pool.withinLimit →
        (if (v.startEntry p e).2 = true then ((v.startEntry p e).1.completeEntry p e).nextLoop p fuel
          else (v.startEntry p e).1).pool.withinLimit := by
      intro v e hv
      split
      · exact ih (completeEntry_within p e (startEntry_within p e hv))
      · exact startEntry_within p e hv
    unfold Units.nextLoop
    dsimp only
    split
    · split
      · refine go _ _ ?_
        split
        · exact takePlace_within p h
        · exact h
      · split
        · exact h
        · exact go _ _ h
    · exact go _ _ h
    · exact h

theorem next_within (h : u.pool.withinLimit) : (u.next p).pool.withinLimit := by
  unfold Units.next
  dsimp only
  split
  · exact nextLoop_within p _ h
  · exact h
  · exact h

theorem startHead_within (h : u.pool.withinLimit) : (u.startHead p).pool.withinLimit := by
  unfold Units.startHead
  split
  · exact h
  · dsimp only
    split
    · exact next_within p (completeEntry_within p _ (startEntry_within p _ h))
    · exact startEntry_within p _ h

theorem schedule_within (h : u.pool.withinLimit) : (u.schedule p).pool.withinLimit := by
  unfold Units.schedule
  split
  · exact startHead_within p h
  · exact h
  · split
    · exact startHead_within p (pushPlaying_within p false h)
    · exact h

theorem place_within (e : Entry) (h : u.pool.withinLimit) : (u.place p e).pool.withinLimit := schedule_within p h

theorem post_within (q : CueIx) (lvl : Level) (o : Origin) (h : u.pool.withinLimit) :
    (u.post p q lvl o).1.pool.withinLimit := by
  unfold Units.post
  split
  · exact h
  · exact place_within p _ h

/-- What is kept by every posting is kept by settling (R165). -/
theorem settle_within (h : u.pool.withinLimit) : u.settle.pool.withinLimit :=
  List.foldlRecOn (motive := fun v : Units => v.pool.withinLimit) _ _ (by exact h)
    fun _ hv x _ => post_within x.pos x.cue x.level .route hv

theorem removeEntries_within (f : Entry → Bool) (h : u.pool.withinLimit) :
    (u.removeEntries p f).1.pool.withinLimit := by
  unfold Units.removeEntries
  dsimp only
  split
  · exact stopPos_within p h
  · exact h

theorem removeConnect_within (h : u.pool.withinLimit) : (u.removeConnect p).pool.withinLimit := by
  unfold Units.removeConnect
  dsimp only
  split
  · exact next_within p (removeEntries_within p _ h)
  · exact removeEntries_within p _ h

theorem emptyWhisper_within (h : u.pool.withinLimit) : (u.emptyWhisper p).pool.withinLimit :=
  removeEntries_within p _ h

theorem posItemEnd_within (h : u.pool.withinLimit) : (u.posItemEnd p).pool.withinLimit := by
  have hin : ((u.toMedia.leaveItem (posCursor p)).enterAt (posCursor p)
      ((look u.cursors (posCursor p)).index + 1) 0).1.pool.withinLimit := by
    rw [enterAt_pool, leaveItem_pool]
    exact h
  unfold Units.posItemEnd
  dsimp only
  split
  · exact (issueRefill_pool ..).symm ▸ hin
  · split
    · exact next_within p (completeEntry_within p _ (stopPos_within p hin))
    · exact stopPos_within p hin
    · exact stopPos_within p hin

end

end Sys2Proof.Machine
end

section
/-! PROOFS. The leg limit of the pool: legs, headsets and coach pairs keep it. -/

namespace Sys2Proof.Machine

section

variable {u : Units} (n : LegIx) (p : PosIx) (g : GroupIx)

/-! ## Coach pairs and announcements -/

theorem activatePair_within (x : Pair) (h : u.pool.withinLimit) : (u.activatePair x).pool.withinLimit := by
  rw [activatePair_eq]
  exact pushPlaying_within (u := u.markPair x true) x.agent true h

theorem dropCoach_within (h : u.pool.withinLimit) : (u.dropCoach p).pool.withinLimit := by
  unfold Units.dropCoach
  split
  · exact next_within p h
  · exact h
  · exact h

theorem suspendPair_within (h : u.pool.withinLimit) : (u.suspendPair p).pool.withinLimit := by
  unfold Units.suspendPair
  split
  · split
    · exact dropCoach_within p h
    · exact h
  · exact h

theorem endPair_within (x : Pair) (reason : EndReason) (h : u.pool.withinLimit) :
    (u.endPair x reason).pool.withinLimit := by
  obtain ⟨v, hv, rfl | ⟨rfl, -⟩⟩ := endPair_eq u x reason <;> rw [hv]
  · exact h
  · exact dropCoach_within _ h

theorem whisperLoss_within (h : u.pool.withinLimit) : (u.whisperLoss p).pool.withinLimit := by
  have hempty : (u.emptyWhisper p).pool.withinLimit := emptyWhisper_within p h
  unfold Units.whisperLoss
  dsimp only
  split
  · exact endPair_within _ _ hempty
  · exact hempty

theorem announce_within (a : Counting) (h : u.pool.withinLimit) : (u.announce a).1.pool.withinLimit := by
  unfold Units.announce
  refine List.foldlRecOn (motive := fun acc : Units × Nat => acc.1.pool.withinLimit) _ _ h fun acc hacc q _ => ?_
  dsimp only
  split
  · exact post_within q _ _ _ hacc
  · exact hacc

theorem fire_within (k : SlotIx) (a : Counting) (h : u.pool.withinLimit) : (u.fire k a).1.pool.withinLimit := by
  have hposted := announce_within a h
  unfold Units.fire
  generalize u.announce a = x at hposted
  exact hposted

/-! ## Cancellers -/

theorem acquire_within (h : u.pool.withinLimit) : (u.acquire n).pool.withinLimit := by
  unfold Units.acquire
  dsimp only
  split
  · exact ask_within _ _ h
  · exact h

theorem echoBind_within (h : u.pool.withinLimit) : (u.echoBind n).pool.withinLimit :=
  acquire_within n (by exact h)

theorem echoPark_within (h : u.pool.withinLimit) : (u.echoPark n).pool.withinLimit := by
  unfold Units.echoPark
  dsimp only [Units.onMedia]
  split
  · exact pass_within h
  · exact h

theorem echoRelease_within (h : u.pool.withinLimit) : (u.echoRelease n).pool.withinLimit :=
  pass_within (mark_within rfl _ h)

theorem echoOff_within (h : u.pool.withinLimit) : (u.echoOff n).pool.withinLimit := by
  have hmark : ((u.pool.mark ((look u.can n).held.map HeldSeg.num) .free).remove (.leg n)).withinLimit :=
    mark_within rfl _ h
  unfold Units.echoOff
  dsimp only [Units.onMedia]
  split
  · exact pass_within hmark
  · exact hmark

theorem echoMode_within (old new : EchoMode) (h : u.pool.withinLimit) : (u.echoMode n old new).pool.withinLimit := by
  unfold Units.echoMode
  split
  · exact h
  · split
    · exact echoOff_within n h
    · split
      · exact acquire_within n h
      · exact h
    · exact h
    · exact h

theorem echoTail_within (tail : Nat) (h : u.pool.withinLimit) : (u.echoTail n tail).pool.withinLimit := by
  unfold Units.echoTail
  dsimp only
  split
  · exact pass_within (mark_within rfl _ h)
  · split
    · exact withdraw_within _ h
    · split
      · exact acquire_within n h
      · exact h

theorem convergenceTurn_within (h : u.pool.withinLimit) : (u.convergenceTurn n).pool.withinLimit := by
  unfold Units.convergenceTurn
  dsimp only
  split <;> exact h

theorem windowEnd_within (h : u.pool.withinLimit) : (u.windowEnd n).pool.withinLimit := by
  unfold Units.windowEnd
  dsimp only
  split
  · exact convergenceTurn_within n (by exact h)
  · exact h

/-! ## Binding, parking and releasing legs -/

theorem posBind_within (h : u.pool.withinLimit) : (u.posBind p n).pool.withinLimit := by
  unfold Units.posBind
  dsimp only
  split
  · exact activatePair_within _ h
  · exact h

theorem posUnbind_within (h : u.pool.withinLimit) : (u.posUnbind p).pool.withinLimit := suspendPair_within p h

theorem unbindFrom_within (o : Option PosIx) (h : u.pool.withinLimit) : (u.unbindFrom o).pool.withinLimit := by
  cases o with
  | none => exact h
  | some p => exact posUnbind_within p h

theorem cancelConnect_within (h : u.pool.withinLimit) : (u.cancelConnect n).pool.withinLimit := by
  unfold Units.cancelConnect
  dsimp only
  split
  · split
    · exact removeConnect_within _ h
    · exact h
  · exact h

theorem park_within (h : u.pool.withinLimit) : (u.park n g).pool.withinLimit := by
  cases hs : (look u.legs n).inCall
  case false =>
    rcases (not_inCall_iff _).mp hs with hf | hf
    · rw [park_of_free hf]
      exact standIn_within g n h
    · rw [park_of_parked hf]
      exact standIn_within g n h
  case true =>
    have hcancel := cancelConnect_within n h
    rw [park_of_inCall hs]
    generalize u.cancelConnect n = w at hcancel
    exact echoPark_within n (standIn_within g n (unbindFrom_within _ hcancel))

theorem autoPark_within (h : u.pool.withinLimit) : (u.autoPark p n).pool.withinLimit := by
  have hparted : (u.parted p n).pool.withinLimit := cancelConnect_within n h
  have hquiet : (u.autoParkQuiet p n).pool.withinLimit := echoPark_within n (standIn_within _ n hparted)
  rw [autoPark_eq u p n _ rfl, Units.raise_toMedia, Media.raise_pool]
  exact hquiet

theorem rels_within (h : u.pool.withinLimit) : (u.rels n).pool.withinLimit := by
  have hcancel := cancelConnect_within n h
  rw [rels_eq]
  generalize u.cancelConnect n = w at hcancel
  exact echoRelease_within n (leaveFrom_within n _ (unbindFrom_within _ hcancel))

theorem bindTalk_within (h : u.pool.withinLimit) : (u.bindTalk n p).pool.withinLimit := by
  rw [bindTalk_eq]
  exact echoBind_within n (posBind_within n p (leaveFrom_within n _ h))

theorem connecting_within (h : u.pool.withinLimit) : (u.connecting n p).pool.withinLimit := by
  unfold Units.connecting
  dsimp only
  split
  · exact standIn_within _ n h
  · exact h

theorem bindConnect_within (q : CueIx) (timeout : Nat) (h : u.pool.withinLimit) :
    (u.bindConnect n p q timeout).pool.withinLimit := by
  have hplaced : (u.prompted n p q).pool.withinLimit := place_within p _ (connecting_within n p h)
  have hbound := echoBind_within n (posBind_within n p
    (u := (u.prompted n p q).onLeg n fun l => { l with timer := some (connectFrames timeout) }) hplaced)
  rw [bindConnect_eq]
  split
  · exact hbound
  · exact connectReport_within p _ hbound

theorem connectExpiry_within (h : u.pool.withinLimit) : (u.connectExpiry n).pool.withinLimit := by
  unfold Units.connectExpiry
  dsimp only
  split
  · exact cutThrough_within n _ (cancelConnect_within n h)
  · exact h

/-! ## Positions -/

theorem raisePos_pool (u : Units) (k : EventKind) (p : PosIx) (d : BitVec 16) (f : Position → Position) :
    (u.raisePos k p d f).pool = u.pool := by
  unfold Units.raisePos
  dsimp only
  split <;> rfl

theorem muteChange_pool (u : Units) (p : PosIx) (was : Bool) : (u.muteChange p was).pool = u.pool := by
  unfold Units.muteChange
  dsimp only
  split
  · rfl
  · exact raisePos_pool ..

theorem lose_within (cause : LossCause) (h : u.pool.withinLimit) : (u.lose p cause).pool.withinLimit := by
  have hlost : (((u.onPos p Position.lost).raisePos .headsetOff p (detail2 cause.code (look u.pos p).state.code)
      fun x => { x with presentChanged := false }).muteChange p (look u.pos p).muted).pool.withinLimit := by
    rw [muteChange_pool, raisePos_pool]
    exact h
  unfold Units.lose
  refine whisperLoss_within p ?_
  split
  · exact autoPark_within _ p hlost
  · exact hlost

theorem itemEnd_within (c : CurIx) (h : u.pool.withinLimit) : (u.itemEnd c).pool.withinLimit := by
  unfold Units.itemEnd
  dsimp only
  split
  · split
    · exact groupItemEnd_within _ h
    · exact posItemEnd_within _ h
  · exact h

end

end Sys2Proof.Machine
end

section
/-! PROOFS. The leg limit of the pool: every command keeps it (O9). -/

namespace Sys2Proof.Machine

/-! ## The owners of units -/

section

variable (payload : List Byte) {u : Units}

theorem ownPlpb_within (h : u.pool.withinLimit) : (ownPlpb payload u).1.pool.withinLimit := by
  unfold ownPlpb
  split
  · split
    · split <;> exact h
    · split <;> exact h
    · exact h
  · exact h

theorem ownBind_within (h : u.pool.withinLimit) : (ownBind payload u).1.pool.withinLimit := by
  unfold ownBind
  split
  · split
    · dsimp only
      split
      · exact h
      · split
        · exact h
        · split
          · exact bindTalk_within _ _ h
          · split
            · exact h
            · split
              · exact h
              · exact bindConnect_within _ _ _ _ h
    · exact h
  · exact h

theorem ownPark_within (h : u.pool.withinLimit) : (ownPark payload u).1.pool.withinLimit := by
  unfold ownPark
  split
  · split
    · exact park_within _ _ h
    · exact h
  · exact h

theorem ownRels_within (h : u.pool.withinLimit) : (ownRels payload u).1.pool.withinLimit := by
  unfold ownRels
  split
  · split
    · exact h
    · split
      · exact h
      · exact rels_within _ h
  · exact h

theorem echoed_within (n : LegIx) (mode : EchoMode) (tail : Nat) (reset : Bool) (h : u.pool.withinLimit) :
    (u.echoed n mode tail reset).pool.withinLimit := by
  have hmode : (u.echoModed n mode tail).pool.withinLimit := echoMode_within n _ mode (u := u.echoSet n mode tail) h
  have htail : (u.echoTailed n mode tail).pool.withinLimit := by
    unfold Units.echoTailed
    split
    · exact echoTail_within n tail hmode
    · exact hmode
  unfold Units.echoed
  split <;> exact htail

theorem ownEcho_within (h : u.pool.withinLimit) : (ownEcho payload u).1.pool.withinLimit := by
  unfold ownEcho
  split
  · split
    next n mode tail reset _ _ _ _ => exact echoed_within n mode tail reset h
    · exact h
  · exact h

/-- SPRS keeps the limit: a reserve that would break it is refused (R85). -/
theorem ownSprs_within {m : Media} (legs : Vector Leg 64) (h : m.pool.withinLimit) :
    (ownSprs legs payload m).1.pool.withinLimit := by
  unfold ownSprs
  split
  · split
    · exact h
    · split
      · exact h
      next hle => exact pass_within (Nat.le_of_not_lt hle)
  · exact h

theorem startTests_within (q : CueIx) (gs : List GroupIx) (h : u.pool.withinLimit) :
    (gs.foldl (fun u g => if (look u.groups g).source = some q then u.startTest g else u) u).pool.withinLimit := by
  induction gs generalizing u with
  | nil => exact h
  | cons g gs ih =>
    rw [List.foldl_cons]
    split
    · exact ih (startTest_within g h)
    · exact ih h

theorem parkAlarms_within (xs : List LegIx) (h : u.pool.withinLimit) :
    (xs.foldl Units.parkAlarm u).pool.withinLimit := by
  induction xs generalizing u with
  | nil => exact h
  | cons n xs ih => exact ih (parkAlarm_within n h)

theorem ownCdef_within (h : u.pool.withinLimit) : (ownCdef payload u).1.pool.withinLimit := by
  unfold ownCdef
  split
  · exact h
  next q l _ =>
    dsimp only
    have hput : (u.onMedia fun m => { m with cues := put m.cues q l }).pool.withinLimit := h
    have hstarted := startTests_within q (List.finRange 8) hput
    generalize List.foldl _ _ (List.finRange 8) = v at hstarted
    exact hstarted

theorem ownGsrc_within (h : u.pool.withinLimit) : (ownGsrc payload u).1.pool.withinLimit := by
  unfold ownGsrc
  split
  · split
    · exact startTest_within _ (parkAlarms_within _ (changeSource_within _ _ (by exact h)))
    · exact h
  · exact h

theorem ownWpst_within (h : u.pool.withinLimit) : (ownWpst payload u).1.pool.withinLimit := by
  unfold ownWpst
  split
  · split
    · split
      · exact h
      · exact h
      · exact h
      · exact place_within _ _ h
    · exact h
  · exact h

theorem ownWfls_within (h : u.pool.withinLimit) : (ownWfls payload u).1.pool.withinLimit := by
  unfold ownWfls
  split
  next set =>
    split
    next p _ _ _ =>
      have hgone := removeEntries_within p (fun e => inLevelSet set e.level) h
      dsimp only
      generalize u.removeEntries p (fun e => inLevelSet set e.level) = x at hgone
      obtain ⟨v, k, connect, playing⟩ := x
      have hreport : (if connect = true then v.connectReport p .flushed else v).pool.withinLimit := by
        split
        · exact connectReport_within p _ hgone
        · exact hgone
      dsimp only
      split
      · exact next_within p hreport
      · exact hreport
    · exact h
  · exact h

theorem ownCatt_within (h : u.pool.withinLimit) : (ownCatt payload u).1.pool.withinLimit := by
  unfold ownCatt
  split
  · split
    next s a _ _ _ _ =>
      dsimp only
      split
      · exact h
      · split
        · exact h
        · split
          · exact h
          · split
            · exact h
            · cases u.pairOfAgent a with
              | none =>
                dsimp only
                split
                · exact activatePair_within _ h
                · exact h
              | some x =>
                have hend := endPair_within x .replaced h
                dsimp only
                split
                · exact activatePair_within _ hend
                · exact hend
    · exact h
  · exact h

theorem ownCdet_within (h : u.pool.withinLimit) : (ownCdet payload u).1.pool.withinLimit := by
  unfold ownCdet
  split
  · split
    · exact h
    · split
      · exact h
      · exact endPair_within _ _ h
  · exact h

theorem formatDone_pool (m : Media) : m.formatDone.pool = m.pool := by
  unfold Media.formatDone
  split <;> rfl

theorem ownFormat_within (h : u.pool.withinLimit) : (ownFormat payload u).1.pool.withinLimit := by
  unfold ownFormat
  dsimp only
  split
  · exact (formatDone_pool { u.toMedia with store := (ownFrmt payload u.store).1 }).symm ▸ h
  · exact h

end

/-! ## The owners of the state -/

section

variable (payload : List Byte) {s : State}

theorem syncGenerator_pool (s : State) (p : PosIx) : (s.syncGenerator p).pool = s.pool := by
  obtain ⟨gen, k, h, -, -⟩ := syncGenerator_eq s p
  rw [h]

theorem ownPcfg_within (h : s.pool.withinLimit) : (ownPcfg payload s).1.pool.withinLimit := by
  unfold ownPcfg
  split
  · split
    · dsimp only
      split <;> exact h
    · exact h
  · exact h

theorem ownPqry_within (h : s.pool.withinLimit) : (ownPqry payload s).1.pool.withinLimit := by
  unfold ownPqry
  split
  · split <;> exact h
  · exact h

theorem ownPmut_within (h : s.pool.withinLimit) : (ownPmut payload s).1.pool.withinLimit := by
  unfold ownPmut
  split
  · split
    · dsimp only
      rw [syncGenerator_pool, State.onUnits_toUnits, muteChange_pool]
      exact h
    · exact h
  · exact h

theorem ownAnnc_within (h : s.pool.withinLimit) : (ownAnnc payload s).1.pool.withinLimit := by
  unfold ownAnnc
  split
  · split
    · split
      · exact h
      · split
        · exact h
        · dsimp only
          split
          · dsimp only
            exact fire_within (u := s.toUnits) _ _ h
          · exact h
    · exact h
  · exact h

theorem ownAcan_within (h : s.pool.withinLimit) : (ownAcan payload s).1.pool.withinLimit := by
  unfold ownAcan
  split
  · split
    · exact h
    · split <;> exact h
  · exact h

end

/-! ## Requests -/

/-- An owner that keeps the leg limit. -/
def OwnsWithin (own : List Byte → State → State × Reply) : Prop :=
  ∀ payload (s : State), s.pool.withinLimit → (own payload s).1.pool.withinLimit

theorem ownsWithin_onUnits {own : List Byte → Units → Units × Reply}
    (h : ∀ payload {u : Units}, u.pool.withinLimit → (own payload u).1.pool.withinLimit) :
    OwnsWithin (onUnits own) := fun payload _ hs => h payload hs

theorem ownsWithin_onStore (own : List Byte → Store → Store × Reply) : OwnsWithin (onStore own) :=
  fun _ _ hs => hs

theorem ownsWithin_onRouter (own : List Byte → Router → Router × Reply) : OwnsWithin (onRouter own) :=
  fun _ _ hs => hs

theorem ownsWithin_query (own : List Byte → State → Reply) : OwnsWithin (query own) := fun _ _ hs => hs

theorem discard_pool (s : State) (cause : Discard) : (s.discard cause).pool = s.pool := by
  unfold State.discard
  dsimp only
  split <;> rfl

theorem accept_pool (s : State) (r : Request) : (s.accept r).pool = s.pool := by
  unfold State.accept
  split
  · exact discard_pool ..
  · rfl

section

variable {own : List Byte → State → State × Reply} {s : State}

theorem take_within (h : OwnsWithin own) (hs : s.pool.withinLimit) : (s.take own).pool.withinLimit := by
  unfold State.take
  split
  · exact hs
  next r _ => exact settle_within (h r.payload s hs)

theorem request_within (h : OwnsWithin own) (name : List Byte) (tag : BitVec 16) (payload : List Byte)
    (hs : s.pool.withinLimit) : (s.request own name tag payload).pool.withinLimit := by
  unfold State.request
  dsimp only
  split
  · exact take_within h hs
  · split
    · exact (discard_pool ..).symm ▸ hs
    · have hacc := (accept_pool s { tag := tag, name := name, payload := payload, reply := none }).symm ▸ hs
      split
      · exact take_within h hacc
      · exact hacc

end

/-! ## The other commands -/

section

variable {s : State} (p : PosIx)

theorem settled_within (h : s.pool.withinLimit) : s.settled.pool.withinLimit := settle_within h

theorem arrive_pool (s : State) (p : PosIx) (key : Bool) : (s.arrive p key).pool = s.pool := by
  unfold State.arrive Units.arrive
  rw [syncGenerator_pool, State.onSup_toUnits, State.onUnits_toUnits, muteChange_pool, raisePos_pool]
  rfl

theorem takeKey_pool (s : State) (p : PosIx) (key : Bool) : (s.takeKey p key).pool = s.pool := by
  unfold State.takeKey
  dsimp only
  split
  · rw [syncGenerator_pool, State.onUnits_toUnits, muteChange_pool]
    rfl
  · rfl

theorem debounce_within (present key : Bool) (h : s.pool.withinLimit) :
    (s.debounce p present key).pool.withinLimit := by
  unfold State.debounce
  dsimp only
  split
  · exact h
  · split
    · exact h
    · split
      · exact h
      · split
        · exact (arrive_pool ..).symm ▸ h
        · exact lose_within p _ h

theorem subframe_within (present key valid : Bool) (h : s.pool.withinLimit) :
    (s.subframe p present key valid).pool.withinLimit := by
  unfold State.subframe
  split
  · exact debounce_within p _ _ ((takeKey_pool ..).symm ▸ h)
  · exact h

theorem linkLost_within (h : s.pool.withinLimit) : (s.linkLost p).pool.withinLimit := by
  unfold State.linkLost
  split
  · dsimp only
    split
    · exact lose_within (u := s.toUnits.onPos p _) p _ h
    · exact h
  · exact h

theorem announceExpiry_within (k : SlotIx) (h : s.pool.withinLimit) : (s.announceExpiry k).pool.withinLimit := by
  unfold State.announceExpiry
  split
  · exact h
  next a _ =>
    split
    · have hfired := fire_within (u := s.toUnits) k a h
      generalize s.toUnits.fire k a = x at *
      exact hfired
    · exact h

theorem blockEnd_pool (s : State) (p : PosIx) : (s.blockEnd p).pool = s.pool := by
  unfold State.blockEnd
  dsimp only
  split <;> rfl

theorem alarmExpiry_within (a : Alarm) (h : s.pool.withinLimit) : (s.alarmExpiry p a).pool.withinLimit := by
  unfold State.alarmExpiry
  split
  · exact settled_within (s := s.alarmTurn p a) h
  · split
    · exact settled_within ((blockEnd_pool ..).symm ▸ h)
    · exact h

theorem restart_within (s : State) : s.restart.pool.withinLimit := pool_reset_withinLimit

theorem frameEnd_within (h : s.pool.withinLimit) : s.frameEnd.pool.withinLimit := by
  unfold State.frameEnd
  split
  · exact restart_within s
  · split <;> exact h

theorem completeFrame_pool (s : State) (bytes : List Byte) : (s.completeFrame bytes).pool = s.pool := by
  unfold State.completeFrame
  dsimp only
  split
  · exact discard_pool ..
  · split
    · split
      · exact discard_pool ..
      · exact accept_pool ..
    · exact discard_pool ..

theorem receive_pool (s : State) (b : Byte) (stop : Bool) : (s.receive b stop).pool = s.pool := by
  unfold State.receive
  split
  · split <;> rfl
  · split
    · exact discard_pool ..
    · dsimp only
      split
      · rfl
      · split
        · exact discard_pool ..
        · split
          · exact completeFrame_pool ..
          · rfl

theorem lineBreak_pool (s : State) : s.lineBreak.pool = s.pool := by
  unfold State.lineBreak
  split
  · rfl
  · exact discard_pool ..

theorem gapTimeout_pool (s : State) : s.gapTimeout.pool = s.pool := by
  unfold State.gapTimeout
  split
  · rfl
  · split
    · exact discard_pool ..
    · rfl

theorem replyStart_pool (s : State) : s.replyStart.pool = s.pool := by
  unfold State.replyStart
  split <;> rfl

theorem noticeStart_pool (s : State) : s.noticeStart.pool = s.pool := by
  unfold State.noticeStart
  split <;> rfl

end

/-! ## The flash -/

section

variable {m t : Media} {flash f : List Host.Cell}

theorem readDone_pool {r : Refill} {w : Bool} (h : readDone m flash r w = some t) : t.pool = m.pool := by
  unfold readDone at h
  dsimp only at h
  split at h
  · cases h
    rfl
  · split at h
    · cases h
    · split at h
      · cases h
        exact issueRefill_pool ..
      · cases h

theorem pageProgramDone_pool {p : RunningProgram} (h : pageProgramDone m flash p = some (t, f)) :
    t.pool = m.pool := by
  unfold pageProgramDone at h
  dsimp only at h
  split at h
  · cases h
    rfl
  · cases h

theorem headerProgramDone_pool {p : RunningProgram} {id : ClipIx}
    (h : headerProgramDone m flash p id = some (t, f)) : t.pool = m.pool := by
  unfold headerProgramDone at h
  dsimp only at h
  split at h
  · split at h <;> cases h <;> rfl
  · cases h

theorem programFailed_pool {p : RunningProgram} (h : programFailed m flash p = some (t, f)) : t.pool = m.pool := by
  unfold programFailed at h
  dsimp only at h
  split at h
  · cases h
  · cases h
  · cases h
    refine (formatDone_pool _).trans ?_
    split <;> rfl

theorem sectorDone_pool (m : Media) (k : SectorIx) (bad : Bool) : (m.sectorDone k bad).pool = m.pool := by
  unfold Media.sectorDone
  split
  · rfl
  · split
    · rfl
    · dsimp only
      split <;> rfl

theorem eraseDone_pool (m : Media) (flash : List Host.Cell) (e : EraseOp) : (eraseDone m flash e).1.pool = m.pool :=
  (formatDone_pool _).trans (sectorDone_pool ..)

theorem eraseFailed_pool (m : Media) (flash : List Host.Cell) (e : EraseOp) :
    (eraseFailed m flash e).1.pool = m.pool := (formatDone_pool _).trans (sectorDone_pool ..)

theorem blankCheckFrom_pool (m : Media) (k : Nat) : (m.blankCheckFrom k).pool = m.pool := by
  unfold Media.blankCheckFrom
  split <;> rfl

theorem scanRead_pool (m : Media) (flash : List Host.Cell) (k : SectorIx) : (m.scanRead flash k).pool = m.pool := by
  unfold Media.scanRead
  dsimp only
  split
  · rfl
  · exact blankCheckFrom_pool ..

theorem scanBlank_pool (m : Media) (flash : List Host.Cell) (k : SectorIx) :
    (m.scanBlank flash k).pool = m.pool := blankCheckFrom_pool ..

end

/-! ## Commands, and steps -/

/-- The state a command leads to, if it does not fault, keeps the leg limit. -/
def LeadsWithin : Outcome → Prop
  | .next t => t.pool.withinLimit
  | _ => True

section

variable {s : State} (h : s.pool.withinLimit)
include h

theorem leadsWithin_of_pool {t : State} (ht : t.pool = s.pool) : LeadsWithin (.next t) := by
  show t.pool.withinLimit
  rw [ht]
  exact h

theorem leadsWithin_ite {c : Prop} [Decidable c] {t : State} (ht : t.pool.withinLimit) :
    LeadsWithin (.next (if c then t else s)) := by
  split
  · exact ht
  · exact h

theorem leadsWithin_withFlash {o : Option (Media × List Host.Cell)} (ho : ∀ t f, o = some (t, f) → t.pool = s.pool) :
    LeadsWithin (s.withFlash o) := by
  cases o with
  | none => exact trivial
  | some x => exact leadsWithin_of_pool h (ho x.1 x.2 rfl)

theorem leadsWithin_refillComplete : LeadsWithin (execRefillComplete s) := by
  unfold execRefillComplete
  split
  · refine leadsWithin_withFlash h fun t f ho => ?_
    obtain ⟨m, hm, hmt⟩ := Option.map_eq_some_iff.mp ho
    cases hmt
    exact readDone_pool hm
  · exact h
  · exact h

theorem leadsWithin_resumeHoldExpiry : LeadsWithin (execResumeHoldExpiry s) := by
  unfold execResumeHoldExpiry
  split <;> exact h

theorem leadsWithin_eraseSuspendEffect : LeadsWithin (execEraseSuspendEffect s) := by
  unfold execEraseSuspendEffect
  split
  · split <;> exact h
  · exact h

theorem leadsWithin_pageProgramComplete : LeadsWithin (execPageProgramComplete s) := by
  unfold execPageProgramComplete
  split
  · split
    · exact h
    all_goals exact leadsWithin_withFlash h fun _ _ => pageProgramDone_pool
  all_goals exact h

theorem leadsWithin_headerProgramComplete : LeadsWithin (execHeaderProgramComplete s) := by
  unfold execHeaderProgramComplete
  split
  · split
    · exact leadsWithin_withFlash h fun _ _ => headerProgramDone_pool
    all_goals exact h
  all_goals exact h

theorem leadsWithin_programTimeout : LeadsWithin (execProgramTimeout s) := by
  unfold execProgramTimeout
  split
  · split
    · exact leadsWithin_withFlash h fun _ _ => programFailed_pool
    · exact h
  all_goals exact h

theorem leadsWithin_eraseComplete : LeadsWithin (execEraseComplete s) := by
  unfold execEraseComplete
  split
  next e _ =>
    split
    · exact h
    · exact leadsWithin_of_pool h (eraseDone_pool s.toMedia s.flash e)
  · exact h

theorem leadsWithin_eraseTimeout : LeadsWithin (execEraseTimeout s) := by
  unfold execEraseTimeout
  split
  next e _ =>
    split
    · exact leadsWithin_of_pool h (eraseFailed_pool s.toMedia s.flash e)
    · exact h
  · exact h

theorem leadsWithin_scanReadComplete : LeadsWithin (execScanReadComplete s) := by
  unfold execScanReadComplete
  split
  next k _ => exact leadsWithin_of_pool h (scanRead_pool s.toMedia s.flash k)
  all_goals exact h

theorem leadsWithin_blankCheckComplete : LeadsWithin (execBlankCheckComplete s) := by
  unfold execBlankCheckComplete
  split
  next k _ => exact leadsWithin_of_pool h (scanBlank_pool s.toMedia s.flash k)
  all_goals exact h

theorem leadsWithin_convergenceTimerExpiry (n : LegIx) : LeadsWithin (execConvergenceTimerExpiry n s) := by
  unfold execConvergenceTimerExpiry
  split
  · exact settled_within (s := s.onUnits _) (convergenceTurn_within n h)
  · exact leadsWithin_ite h (settled_within (s := s.onUnits _) (windowEnd_within n h))

theorem leadsWithin_hangoverExpiry (p : PosIx) : LeadsWithin (execHangoverExpiry p s) := by
  unfold execHangoverExpiry
  dsimp only
  split
  · exact h
  · exact leadsWithin_ite h (settled_within ((blockEnd_pool ..).symm ▸ h))

theorem exec_leadsWithin (i : Instr) : LeadsWithin (exec i s) := by
  have hown {own : List Byte → State → State × Reply} {name : List Byte} {tag : BitVec 16} {payload : List Byte}
      (ho : OwnsWithin own) : LeadsWithin (.next (s.request own name tag payload)) := request_within ho _ _ _ h
  cases i with
  | powerOn => exact pool_reset_withinLimit
  | pinReset => exact pool_reset_withinLimit
  | restart => exact leadsWithin_ite h (restart_within s)
  | linkRateSwitch => exact leadsWithin_ite h (frameEnd_within h)
  | receiveByte b stop => exact leadsWithin_of_pool h (receive_pool ..)
  | lineBreak => exact leadsWithin_of_pool h (lineBreak_pool ..)
  | gapTimeout => exact leadsWithin_of_pool h (gapTimeout_pool ..)
  | replyFrameStart => exact leadsWithin_of_pool h (replyStart_pool ..)
  | noticeFrameStart => exact leadsWithin_of_pool h (noticeStart_pool ..)
  | frameTransmitEnd => exact frameEnd_within h
  | pcfg => exact hown fun pl _ => ownPcfg_within pl
  | pqry => exact hown fun pl _ => ownPqry_within pl
  | pmut => exact hown fun pl _ => ownPmut_within pl
  | plpb => exact hown (ownsWithin_onUnits ownPlpb_within)
  | bind => exact hown (ownsWithin_onUnits ownBind_within)
  | park => exact hown (ownsWithin_onUnits ownPark_within)
  | rels => exact hown (ownsWithin_onUnits ownRels_within)
  | echo => exact hown (ownsWithin_onUnits ownEcho_within)
  | sprs => exact hown fun pl t => ownSprs_within pl t.legs
  | cdef => exact hown (ownsWithin_onUnits ownCdef_within)
  | gsrc => exact hown (ownsWithin_onUnits ownGsrc_within)
  | wpst => exact hown (ownsWithin_onUnits ownWpst_within)
  | wfls => exact hown (ownsWithin_onUnits ownWfls_within)
  | catt => exact hown (ownsWithin_onUnits ownCatt_within)
  | cdet => exact hown (ownsWithin_onUnits ownCdet_within)
  | annc => exact hown fun pl _ => ownAnnc_within pl
  | acan => exact hown fun pl _ => ownAcan_within pl
  | frmt => exact hown (ownsWithin_onUnits ownFormat_within)
  | openClip | data | fini | drop | rtir | rsto | prot | listClips | stor => exact hown (ownsWithin_onStore _)
  | rout | nmod | nfet | nclr => exact hown (ownsWithin_onRouter _)
  | nqry | lqry | spqy | cqry | gqry | idnt | stat | lrat | rstr => exact hown (ownsWithin_query _)
  | statusSubframe p present key valid => exact settled_within (subframe_within p _ _ _ h)
  | linkTimerExpiry p => exact settled_within (linkLost_within p h)
  | highwayFrame mic trunk => exact leadsWithin_of_pool h (frame_keeps s mic trunk).2.2.2.2.1
  | echoWindowEnd n => exact leadsWithin_ite h (settled_within (s := s.onUnits _) (windowEnd_within n h))
  | convergenceTimerExpiry n => exact leadsWithin_convergenceTimerExpiry h n
  | analysisBlockEnd p => exact leadsWithin_ite h (settled_within ((blockEnd_pool ..).symm ▸ h))
  | hangoverExpiry p => exact leadsWithin_hangoverExpiry h p
  | highTimerExpiry p => exact alarmExpiry_within p _ h
  | lowTimerExpiry p => exact alarmExpiry_within p _ h
  | connectTimerExpiry n => exact settled_within (s := s.onUnits _) (connectExpiry_within n h)
  | parkAlarmExpiry n => exact settled_within (s := s.onUnits _) (parkAlarm_within n h)
  | announcementExpiry k => exact settled_within (announceExpiry_within k h)
  | itemEnd c => exact settled_within (s := s.onUnits _) (itemEnd_within c h)
  | refillComplete => exact leadsWithin_refillComplete h
  | resumeHoldExpiry => exact leadsWithin_resumeHoldExpiry h
  | eraseSuspendEffect => exact leadsWithin_eraseSuspendEffect h
  | pageProgramComplete => exact leadsWithin_pageProgramComplete h
  | headerProgramComplete => exact leadsWithin_headerProgramComplete h
  | programTimeout => exact leadsWithin_programTimeout h
  | eraseComplete => exact leadsWithin_eraseComplete h
  | eraseTimeout => exact leadsWithin_eraseTimeout h
  | quietWindowExpiry => exact leadsWithin_ite h h
  | flashDeviceReady => exact leadsWithin_ite h h
  | scanReadComplete => exact leadsWithin_scanReadComplete h
  | blankCheckComplete => exact leadsWithin_blankCheckComplete h

theorem step_leadsWithin : LeadsWithin (step s) := by
  unfold step
  split
  · exact h
  next c rest _ => exact exec_leadsWithin (s := { s with pending := rest }) h c

end

/-- Settles O9: segments come to legs only by grants of what fits, and a reserve that the legs exceed is refused. -/
theorem legSegmentsStayWithinLimit : Obligations.LegSegmentsStayWithinLimit := by
  unfold Obligations.LegSegmentsStayWithinLimit
  intro s t h ht
  have hstep := step_leadsWithin h
  rw [ht] at hstep
  exact hstep

end Sys2Proof.Machine
end

section
/-! PROOFS. The queries of the pool, of cue lists and cursors and of the clip store: SPQY, CQRY, LIST and STOR. -/

namespace Sys2Proof.Machine

theorem readRange_of_mem {lo hi n : Nat} (h : lo ≤ n) (h' : n ≤ hi) : readRange lo hi n = some n := if_pos ⟨h, h'⟩

theorem ownSpqy_byte (p : Pool) {i : Nat} (h : i ≤ 119) :
    ownSpqy [byte i] p = .ok (le2 p.free ++ le2 p.legHeld ++ le2 p.cursorHeld ++ [byte p.reserve] ++
      le2 (384 - p.reserve) ++ [byte p.wait.length, byte i, byte ((p.wait.drop i).take 64).length] ++
      ((p.wait.drop i).take 64).flatMap WaitEntry.bytes) := by
  have hi : readRange 0 119 (byte i).toNat = some i := by
    rw [toNat_byte (by omega)]
    exact readRange_of_mem i.zero_le h
  simp only [ownSpqy, hi, List.flatMap_def]
  rfl

theorem ownCqry_list (m : Media) (q : CueIx) :
    ownCqry [0, byte q] m = .ok ([byte (look m.cues q).duck, byte (look m.cues q).items.length] ++
      (look m.cues q).items.flatMap Item.bytes) := by
  simp only [ownCqry, readCue_byte, List.flatMap_def, if_true]

/-- What CQRY reports of a cursor's ring: number and state of each segment, or none. -/
theorem segBytes_pair (r : Option (Vector RingSeg 2)) :
    segBytes r 0 ++ segBytes r 1 = r.elim [0xFF, 0xFF, 0xFF, 0xFF, 0xFF, 0xFF] fun r =>
      le2 (look r 0).num ++ (look r 0).state.code :: le2 (look r 1).num ++ [(look r 1).state.code] := by
  cases r with
  | none => rfl
  | some r => simp [segBytes]

/-- The items a cursor has: its snapshot's, and none without one (log 31). -/
theorem items_length (cur : Cursor) : cur.items.length = cur.snapshot.elim 0 fun x => x.items.length := by
  unfold Cursor.items
  cases cur.snapshot <;> rfl

theorem cursor_bytes_eq (c : CurIx) (cur : Cursor) :
    cur.bytes c = [cur.state.code, if c.val < 8 then byte c.val else byte (c.val - 8),
        ixByte (cur.snapshot.map Snapshot.cue), byte (cur.snapshot.elim 0 fun x => x.items.length),
        byte cur.index] ++ le4 cur.place ++ flagByte (decide (c.val < 8)) ::
      (cur.ring.elim [0xFF, 0xFF, 0xFF, 0xFF, 0xFF, 0xFF] fun r =>
        le2 (look r 0).num ++ (look r 0).state.code :: le2 (look r 1).num ++ [(look r 1).state.code]) ++
      [ixByte cur.clip, flagByte cur.refill.isSome, flagByte cur.underrun] := by
  rw [← segBytes_pair, ← items_length]
  by_cases hc : c.val < 8
  · have ho : ownerOf c = .inl ⟨c.val, hc⟩ := dif_pos hc
    simp only [Cursor.bytes, ho, loops, hc, if_true, List.append_assoc, List.cons_append, List.nil_append]
  · have ho : ownerOf c = .inr ⟨c.val - 8, by omega⟩ := dif_neg hc
    simp only [Cursor.bytes, ho, loops, hc, if_false, List.append_assoc, List.cons_append, List.nil_append]

theorem ownCqry_cursor (m : Media) (c : CurIx) : ownCqry [1, byte c] m = .ok ((look m.cursors c).bytes c) := by
  simp only [ownCqry, readCursor_byte]
  rfl

theorem ownList_byte (st : Store) {id : ClipIx} (h : id ≠ 0) {page : List (List Byte)}
    (hp : page = ((List.finRange 128).filterMap fun i =>
      if id ≤ i then (st.clip i).map fun c => c.bytes i else none).take 16) :
    ownList [byte id] st = (st, if st.state = .scanning then .refuse .busy
      else .ok ([byte st.clipCount, byte page.length] ++ page.flatten)) := by
  subst hp
  simp only [ownList, readClip_byte h]
  split <;> rfl

theorem ownStor_nil (st : Store) :
    ownStor [] st = (st, .ok (st.state.code ::
      ([some .erased, some .reserved, some .clip, some .queued, some .erasing, some .bad,
        none].flatMap fun x => le2 (st.countSectors x)) ++
      le2 st.eraseQueue.length ++ [flagByte st.runOpen, byte st.refills.length, st.opCode] ++
      le2None (st.erase.map fun e => e.sector.val) ++ le2None (st.erase.map fun e => e.suspends) ++
      le2None (st.erase.map fun e => msLeft e.run))) := by
  simp only [ownStor, List.flatMap_def, List.append_assoc, List.cons_append, List.nil_append]

/-- An owner of the store that only answers: the state stays as it is. -/
theorem store_replied {s : State} {own : List Byte → Store → Store × Reply} {name : List Byte} {tag : BitVec 16}
    {payload : List Byte} {rep : Reply} (h : s.takes) (hl : payload.length ≤ 240)
    (hp : portAnswer { tag := tag, name := name, payload := payload, reply := none } = none)
    (ho : own payload s.store = (s.store, rep)) :
    s.request (onStore own) name tag payload = s.replied tag name payload rep :=
  request_replied h hl hp (by rw [onStore, ho]; rfl) rfl h.2

/-- Settles O28: each query is answered at once from what it reports. -/
theorem playbackAndStoreQueriesReport : Obligations.PlaybackAndStoreQueriesReport := by
  unfold Obligations.PlaybackAndStoreQueriesReport
  refine ⟨fun s tag i q c hs hi => ⟨congrArg Host.Outcome.next ?_, congrArg Host.Outcome.next ?_,
    congrArg Host.Outcome.next ?_⟩, fun s tag id hs hid => ⟨_, rfl, congrArg Host.Outcome.next ?_,
    congrArg Host.Outcome.next ?_⟩⟩
  · exact query_replied hs (by simp) (by rfl) fun _ => ownSpqy_byte s.pool hi
  · exact query_replied hs (by simp) (by rfl) fun _ => ownCqry_list s.toMedia q
  · rw [← cursor_bytes_eq]
    exact query_replied hs (by simp) (by rfl) fun _ => ownCqry_cursor s.toMedia c
  · exact store_replied hs (by simp) (by rfl) (ownList_byte s.store hid rfl)
  · exact store_replied hs (by simp) (by rfl) (ownStor_nil s.store)

end Sys2Proof.Machine
end

section
/-! PROOFS. The grant pass by turns: which candidate is taken first, what a reclaim and a grant leave, and where a new
wait entry stands. -/

namespace Sys2Proof.Machine

section

variable {legs : Vector Leg 64} {m : Media} {n : LegIx} {c : CurIx}

/-! ## The candidate taken first -/

/-- A reclaim candidate, and how long it has been parked (R79). -/
theorem parkedFor_eq_some_iff {a : Nat} :
    m.parkedFor legs n = some a ↔ ((look legs n).state = .parked ∧ (look m.can n).held ≠ []) ∧
      (look legs n).parkTime.elim 0 (fun t => since m.router.stamp t) = a := by
  unfold Media.parkedFor
  cases ht : (look legs n).parkTime <;> cases (look m.can n).held <;> simp [ht]

theorem candidate_eq_none (h : ∀ k, ¬ ((look legs k).state = .parked ∧ (look m.can k).held ≠ [])) :
    m.candidate legs = none := by
  cases hk : m.candidate legs with
  | none => rfl
  | some k => exact absurd (parkedFor_isSome (candidate_parkedFor hk)) (h k)

/-- The better of the candidate so far and the next leg (R79). -/
def Media.older (legs : Vector Leg 64) (m : Media) (best : Option (LegIx × Nat)) (k : LegIx) : Option (LegIx × Nat) :=
  match m.parkedFor legs k, best with
  | none, _ => best
  | some a, none => some (k, a)
  | some a, some (_, b) => if b < a then some (k, a) else best

theorem candidate_eq_older : m.candidate legs = ((List.finRange 64).foldl (m.older legs) none).map Prod.fst := rfl

/-- Legs parked for less than a time leave no candidate parked for it. -/
theorem older_below {a : Nat} {best : Option (LegIx × Nat)} (ks : List LegIx)
    (hk : ∀ k ∈ ks, ∀ b, m.parkedFor legs k = some b → b < a) (hb : ∀ x ∈ best, x.2 < a) :
    ∀ x ∈ ks.foldl (m.older legs) best, x.2 < a := by
  induction ks generalizing best with
  | nil => exact hb
  | cons k ks ih =>
    refine ih (fun j hj => hk j (List.mem_cons_of_mem k hj)) ?_
    have hka := hk k List.mem_cons_self
    unfold Media.older
    split
    · exact hb
    next b hkb => exact fun x hx => Option.mem_some_iff.mp hx ▸ hka b hkb
    next b _ _ hkb =>
      split
      · exact fun x hx => Option.mem_some_iff.mp hx ▸ hka b hkb
      · exact hb

/-- Legs parked for no longer than the candidate leave it (R79). -/
theorem older_stays {a : Nat} (ks : List LegIx) (hk : ∀ k ∈ ks, ∀ b, m.parkedFor legs k = some b → b ≤ a) :
    ks.foldl (m.older legs) (some (n, a)) = some (n, a) := by
  induction ks with
  | nil => rfl
  | cons k ks ih =>
    have hstep : m.older legs (some (n, a)) k = some (n, a) := by
      unfold Media.older
      cases hb : m.parkedFor legs k with
      | none => rfl
      | some b => exact if_neg (Nat.not_lt.mpr (hk k List.mem_cons_self b hb))
    rw [List.foldl_cons, hstep]
    exact ih fun j hj => hk j (List.mem_cons_of_mem k hj)

theorem older_takes {a : Nat} {best : Option (LegIx × Nat)} (hn : m.parkedFor legs n = some a)
    (hb : ∀ x ∈ best, x.2 < a) : m.older legs best n = some (n, a) := by
  unfold Media.older
  rw [hn]
  cases best with
  | none => rfl
  | some x => exact if_pos (hb x rfl)

/-- The longest parked is taken first, the lower number among equals (R79). -/
theorem candidate_of_oldest {a : Nat} (hn : m.parkedFor legs n = some a)
    (ho : ∀ k b, k ≠ n → m.parkedFor legs k = some b → b < a ∨ (b = a ∧ n < k)) : m.candidate legs = some n := by
  obtain ⟨before, after, hsplit⟩ := List.append_of_mem (List.mem_finRange n)
  have hsorted : (before ++ n :: after).Pairwise (· < ·) := hsplit ▸ List.pairwise_lt_finRange 64
  obtain ⟨-, hafter, hbefore⟩ := List.pairwise_append.mp hsorted
  have hlow : ∀ k ∈ before, ∀ b, m.parkedFor legs k = some b → b < a := fun k hk b hb => by
    have hlt := hbefore k hk n List.mem_cons_self
    rcases ho k b hlt.ne hb with h | ⟨-, h⟩
    · exact h
    · exact absurd h hlt.not_gt
  have hhigh : ∀ k ∈ after, ∀ b, m.parkedFor legs k = some b → b ≤ a := fun k hk b hb => by
    rcases ho k b ((List.pairwise_cons.mp hafter).1 k hk).ne' hb with h | ⟨h, -⟩
    · exact h.le
    · exact h.le
  rw [candidate_eq_older, hsplit, List.foldl_append, List.foldl_cons,
    older_takes hn (older_below before hlow (by simp)), older_stays after hhigh]
  rfl

/-! ## What a reclaim leaves -/

theorem reclaim_pool : (m.reclaim legs n).pool = m.pool.mark ((look m.can n).held.map HeldSeg.num) .free := rfl

theorem reclaim_router : (m.reclaim legs n).router =
    m.router.record .echoReclaimed (.leg n) (detail1 (byte (look m.can n).held.length)) := by
  rw [← List.length_map (f := HeldSeg.num) (as := (look m.can n).held)]
  rfl

theorem reclaim_can : look (m.reclaim legs n).can n =
    ((look m.can n).lost true).restate (look legs n) (m.pool.waits (.leg n)) :=
  onCan_restate_can legs n (m.onPool fun p => p.mark ((look m.can n).held.map HeldSeg.num) .free) fun c => c.lost true

theorem reclaim_can_of_ne {k : LegIx} (h : k ≠ n) : look (m.reclaim legs n).can k = look m.can k :=
  (look_upd_of_ne _ h.symm _).trans (look_upd_of_ne _ h.symm _)

theorem canTable_parked (waits : Bool) (mode : EchoMode) (w : Working) :
    canTable false waits .parked mode w = .idle := by
  cases waits <;> cases mode <;> rfl

/-- A parked leg whose segments are reclaimed is left without any, IDLE and marked (R50). -/
theorem reclaim_loses (h : (look legs n).state = .parked) :
    (look (m.reclaim legs n).can n).held = [] ∧ (look (m.reclaim legs n).can n).reclaimed = true ∧
      (look (m.reclaim legs n).can n).state = .idle := by
  have hstate : canTable (!((look m.can n).lost true).held.isEmpty) (m.pool.waits (.leg n)) (look legs n).state
      (look legs n).mode ((look m.can n).lost true).working = .idle := by
    rw [h]
    exact canTable_parked ..
  rw [reclaim_can, Canceller.restate, hstate, enter_held, enter_reclaimed, enter_state]
  exact ⟨rfl, rfl, rfl⟩

/-- After a reclaim the other candidates are left. -/
theorem reclaim_candidate_none (h : ∀ k, k ≠ n → ¬ ((look legs k).state = .parked ∧ (look m.can k).held ≠ []))
    (hn : (look legs n).state = .parked) : (m.reclaim legs n).candidate legs = none := by
  refine candidate_eq_none fun k hk => ?_
  by_cases hkn : k = n
  · subst hkn
    exact hk.2 (reclaim_loses hn).1
  · rw [reclaim_can_of_ne hkn] at hk
    exact h k hkn hk

/-! ## What a grant leaves -/

theorem grant_router (who : Requester) (need : Nat) : (m.grant legs who need).router = m.router := by
  cases who with
  | leg k => rfl
  | cursor c =>
    unfold Media.grant
    dsimp only
    split
    · exact issueRefill_router ..
    · rfl

theorem grant_can_other {who : Requester} (need : Nat) (h : who ≠ .leg n) :
    look (m.grant legs who need).can n = look m.can n := by
  cases who with
  | cursor c => rw [grantCursor_can]
  | leg k =>
    have hk : k ≠ n := fun e => h (e ▸ rfl)
    exact (look_upd_of_ne _ hk _).trans (look_upd_of_ne _ hk _)

theorem mark_owner_of_not_mem {p : Pool} {o : SegOwner} {segs : List SegIx} {i : SegIx} (h : i ∉ segs) :
    look (p.mark segs o).owner i = look p.owner i := by
  show look (segs.foldl (fun v i => put v i o) p.owner) i = look p.owner i
  refine List.foldlRecOn (motive := fun v => look v i = look p.owner i) segs _ rfl fun v hv k hk => ?_
  rw [look_put_of_ne v (by rintro rfl; exact h hk), hv]

theorem mark_owner (p : Pool) (o : SegOwner) (segs : List SegIx) (i : SegIx) :
    look (p.mark segs o).owner i = if i ∈ segs then o else look p.owner i := by
  split
  next h => exact mark_owner_of_mem h
  next h => exact mark_owner_of_not_mem h

/-- The one entry of the wait list, granted, leaves it empty (R78). -/
theorem grant_pool_of_last {e : WaitEntry} (hw : m.pool.wait = [e]) :
    (m.grant legs e.who e.need).pool =
      { m.pool.mark (m.pool.lowestFree e.need) e.who.owner with wait := [] } := by
  have hgone : (m.pool.wait.filter fun x => x.who ≠ e.who) = [] := by simp [hw]
  rw [grant_pool, ← hgone]
  rfl

/-- The segments of a ring, the first granted first. -/
def ringNums (r : Vector RingSeg 2) : List SegIx := [(look r 0).num, (look r 1).num]

theorem ringNums_put (r : Vector RingSeg 2) (b : Fin 2) {x : RingSeg} (h : x.num = (look r b).num) :
    ringNums (put r b x) = ringNums r := by
  have hnum : ∀ d, (look (put r b x) d).num = (look r d).num := fun d => by
    rw [look_put]
    split
    next hd => rw [h, hd]
    next => rfl
  rw [ringNums, hnum, hnum, ringNums]

/-- A refill fills a segment of the ring, which keeps its segments (R94). -/
theorem issueRefill_ringNums (m : Media) (c : CurIx) :
    (look (m.issueRefill c).cursors c).ring.map ringNums = (look m.cursors c).ring.map ringNums := by
  rw [issueRefill_cursor]
  cases (look m.cursors c).nextRefill c m.store with
  | none => rfl
  | some rf =>
    show ((look m.cursors c).ring.map fun r =>
      put r rf.seg { look r rf.seg with state := .filling, first := rf.first, data := [] }).map ringNums = _
    rw [Option.map_map]
    exact Option.map_congr fun r _ => ringNums_put r rf.seg rfl

theorem ringReady_ringNums (m : Media) (c : CurIx) :
    (look (m.ringReady c).cursors c).ring.map ringNums = (look m.cursors c).ring.map ringNums := by
  refine (issueRefill_ringNums ..).trans ?_
  rw [Media.onCur_cursors, look_upd_self]
  split <;> rfl

/-- A cursor granted two segments has them for its ring (R92). -/
theorem grantCursor_ringNums (h : m.pool.fits (.cursor c) 2 = true) :
    (look (m.grant legs (.cursor c) 2).cursors c).ring.map ringNums = some (m.pool.lowestFree 2) := by
  obtain ⟨a, b, hab⟩ := lowestFree_pair h
  simp only [Media.grant, hab]
  rw [ringReady_ringNums, Media.onCur_cursors, look_upd_self]
  rfl

/-! ## The pass by turns -/

theorem passLoop_of_wait_nil (fuel : Nat) (h : m.pool.wait = []) : m.passLoop legs fuel = m := by
  cases fuel with
  | zero => rfl
  | succ fuel => simp only [Media.passLoop, h]

section

variable {e : WaitEntry} {ws : List WaitEntry} (fuel : Nat) (hw : m.pool.wait = e :: ws)
include hw

/-- A head that fits is granted (R77). -/
theorem passLoop_grants (hf : m.pool.fits e.who e.need = true) :
    m.passLoop legs (fuel + 1) = (m.grant legs e.who e.need).passLoop legs fuel := by
  simp only [Media.passLoop, hw, hf, if_true]

/-- For a head that does not fit the candidate is reclaimed (R77). -/
theorem passLoop_reclaims (hf : m.pool.fits e.who e.need = false) (hc : m.candidate legs = some n) :
    m.passLoop legs (fuel + 1) = (m.reclaim legs n).passLoop legs fuel := by
  simp only [Media.passLoop, hw, hf, hc, Bool.false_eq_true, if_false]

end

section

variable {e : WaitEntry}

/-- The one entry of the wait list fits: it is granted, and the pass ends (R77). -/
theorem pass_of_last (hw : m.pool.wait = [e]) (hf : m.pool.fits e.who e.need = true) :
    m.pass legs = m.grant legs e.who e.need := by
  refine (passLoop_grants (fuel := m.pool.wait.length + 64) hw hf).trans (passLoop_of_wait_nil _ ?_)
  rw [grant_pool_of_last hw]

/-- After one reclaim the one entry of the wait list fits (R77, R80). -/
theorem pass_of_reclaimed_last (hw : m.pool.wait = [e]) (hf : m.pool.fits e.who e.need = false)
    (hc : m.candidate legs = some n) (hf' : (m.reclaim legs n).pool.fits e.who e.need = true) :
    m.pass legs = (m.reclaim legs n).grant legs e.who e.need := by
  refine (passLoop_reclaims (fuel := m.pool.wait.length + 64) hw hf hc).trans ?_
  refine (passLoop_grants (fuel := m.pool.wait.length + 63) (m := m.reclaim legs n) hw hf').trans ?_
  exact passLoop_of_wait_nil _ (by rw [grant_pool_of_last (m := m.reclaim legs n) hw])

/-- After the reclaim of the last candidate the head still does not fit, and waits (R77). -/
theorem pass_of_reclaimed_stuck {ws : List WaitEntry} (hw : m.pool.wait = e :: ws)
    (hf : m.pool.fits e.who e.need = false) (hc : m.candidate legs = some n)
    (hf' : (m.reclaim legs n).pool.fits e.who e.need = false) (hc' : (m.reclaim legs n).candidate legs = none) :
    m.pass legs = m.reclaim legs n :=
  (passLoop_reclaims (fuel := m.pool.wait.length + 64) hw hf hc).trans (passLoop_of_stuck _ hw hf' hc')

end

/-! ## A cursor that asks -/

/-- A new entry of a cursor stands behind the last cursor's (R76). -/
theorem insert_cursor_wait {p : Pool} {cursors others : List WaitEntry} (hw : p.wait = cursors ++ others)
    (hc : ∀ e ∈ cursors, e.isCursor = true) (hl : ∀ e ∈ others, e.isCursor = false) (c : CurIx) (need : Nat) :
    p.insert { who := .cursor c, need := need } =
      { p with wait := cursors ++ { who := .cursor c, need := need } :: others } := by
  have hhead : others.takeWhile WaitEntry.isCursor = [] ∧ others.dropWhile WaitEntry.isCursor = others := by
    cases others with
    | nil => exact ⟨rfl, rfl⟩
    | cons x xs => simp [hl x List.mem_cons_self]
  simp only [Pool.insert, hw, List.takeWhile_append_of_pos hc, List.dropWhile_append_of_pos hc, hhead,
    List.append_nil]

/-- Two segments do not fit a cursor, nor a head its need, and there is no leg to reclaim from: the cursor waits
behind the other cursors (R75, R76). -/
theorem askCursor_waits {cursors others : List WaitEntry} (hw : m.pool.wait = cursors ++ others)
    (hc : ∀ e ∈ cursors, ∃ d, e.who = .cursor d ∧ d ≠ c) (hl : ∀ e ∈ others, ∃ k, e.who = .leg k)
    (hfree : m.pool.free < 2) (hhead : ∀ e, m.pool.wait.head? = some e → m.pool.fits e.who e.need = false)
    (hr : ∀ k, ¬ ((look legs k).state = .parked ∧ (look m.can k).held ≠ [])) :
    (m.ask legs (.cursor c) 2).pool =
      { m.pool with wait := cursors ++ { who := .cursor c, need := 2 } :: others } := by
  have hnew : m.pool.fits (.cursor c) 2 = false := decide_eq_false (Nat.not_le.mpr hfree)
  have hwaits : m.pool.waits (.cursor c) = false := by
    rw [Pool.waits, hw, List.any_eq_false]
    intro e he hec
    rcases List.mem_append.mp he with he | he
    · obtain ⟨d, hd, hne⟩ := hc e he
      exact hne (Requester.cursor.inj (hd.symm.trans (of_decide_eq_true hec)))
    · obtain ⟨k, hk⟩ := hl e he
      exact nomatch hk.symm.trans (of_decide_eq_true hec)
  have hinsert := insert_cursor_wait hw
    (fun e he => by obtain ⟨d, hd, -⟩ := hc e he; simp [WaitEntry.isCursor, hd])
    (fun e he => by obtain ⟨k, hk⟩ := hl e he; simp [WaitEntry.isCursor, hk]) c 2
  have hstuck : ∃ e rest, (m.pool.insert { who := .cursor c, need := 2 }).wait = e :: rest ∧
      m.pool.fits e.who e.need = false := by
    rw [hinsert]
    cases cursors with
    | nil => exact ⟨_, _, rfl, hnew⟩
    | cons e es => exact ⟨e, _, rfl, hhead e (by rw [hw]; rfl)⟩
  obtain ⟨e, rest, he, hf⟩ := hstuck
  have hpass := pass_of_stuck (legs := legs) (m := m.onPool fun p => p.insert { who := .cursor c, need := 2 }) he
    (by rw [Media.onPool_pool, hinsert]; exact hf) (candidate_eq_none hr)
  have hask : m.ask legs (.cursor c) 2 =
      (m.onPool fun p => p.insert { who := .cursor c, need := 2 }).pass legs := by
    simp only [Media.ask, hwaits, hnew, Bool.and_false, Bool.false_eq_true, if_false]
  rw [hask, hpass, Media.onPool_pool, hinsert]

/-- A STOPPED cursor started at a list that begins with silence asks for its ring (R92). -/
theorem startCursor_silence {q : CueIx} {ms : Nat} {rest : List Item} (hs : (look m.cursors c).state = .stopped)
    (hq : (look m.cues q).items = .silence ms :: rest) :
    ∃ v : Media, v.pool = m.pool ∧ v.can = m.can ∧
      m.startCursor legs c q none = (v.ask legs (.cursor c) 2, false) := by
  let begun := (m.onCur c fun cur => cur.stopped.beginAt (startPlace m.store (look m.cues q).items 0 0)).snap c q
  have hitems : (look begun.cursors c).items = .silence ms :: rest := by
    simp only [begun, Media.snap, Media.onCur_cursors, look_upd_self]
    exact hq
  have henter : begun.enterAt c 0 0 =
      (begun.onCur c fun cur => { cur with index := 0, place := 8 * ms }, true) := by
    rw [Media.enterAt, hitems]
    exact enterItems_silence ..
  have hstart : m.startCursor legs c q none =
      (((begun.enterAt c 0 0).1.onCur c fun cur => { cur with state := .starting }).ask legs (.cursor c) 2,
        false) := by
    unfold Media.startCursor
    rw [if_neg (not_not.mpr hs)]
    dsimp only [resolvePlace]
    rw [if_pos]
    exact congrArg Prod.snd henter
  rw [hstart, henter]
  exact ⟨(begun.onCur c fun cur => { cur with index := 0, place := 8 * ms }).onCur c fun cur =>
    { cur with state := .starting }, rfl, rfl, rfl⟩

end

end Sys2Proof.Machine
end

section
/-! PROOFS. SPRS: the reserve, the grant pass it runs, and what ECHO and WPST put on the wait list (O39). -/

namespace Sys2Proof.Machine

/-! ## SPRS -/

/-- The reserve stored, before the grant pass (R85). -/
def Media.reserved (m : Media) (r : Nat) : Media := m.onPool fun p => { p with reserve := r }

theorem ownSprs_out_of_range (legs : Vector Leg 64) (m : Media) {r : Nat} (hr : r ≤ 255) (h : 112 < r) :
    ownSprs legs [byte r] m = (m, .refuse .badarg) := by
  have hread : readRange 0 112 (byte r).toNat = none := by
    rw [toNat_byte (by omega)]
    exact if_neg (by omega)
  simp only [ownSprs, hread]

theorem ownSprs_in_range (legs : Vector Leg 64) (m : Media) {r : Nat} (h : r ≤ 112) :
    ownSprs legs [byte r] m =
      if 384 - r < m.pool.legHeld then (m, .refuse .state)
      else ((m.reserved r).pass legs,
        .ok (byte ((m.reserved r).pass legs).pool.reserve :: ((m.reserved r).pass legs).pool.countBytes)) := by
  have hread : readRange 0 112 (byte r).toNat = some r := by
    rw [toNat_byte (by omega)]
    exact readRange_of_mem r.zero_le h
  simp only [ownSprs, hread]
  rfl

/-- The units after SPRS, before postings are made. -/
def Units.reserved (u : Units) (r : Nat) : Units := u.onMedia fun m => (m.reserved r).pass u.legs

theorem reserved_reserve (u : Units) (r : Nat) : (u.reserved r).pool.reserve = r :=
  (pass_keeps u.legs (u.toMedia.reserved r)).reserve

theorem reserved_of_pass {u : Units} {r : Nat} (h : (u.toMedia.reserved r).pass u.legs = u.toMedia.reserved r) :
    u.reserved r = u.onMedia fun m => m.reserved r := by
  rw [Units.reserved, Units.onMedia, h]
  rfl

section

variable {s : State} {tag : BitVec 16} {r : Nat}

theorem sprs_refused {res : Result} (hs : s.takes) (ho : ownSprs s.legs [byte r] s.toMedia = (s.toMedia, .refuse res)) :
    exec (.sprs tag [byte r]) s =
      .next (s.replied tag (ascii4 'S' 'P' 'R' 'S') [byte r] (.refuse res)) :=
  congrArg Host.Outcome.next (request_refused hs (by simp) (by rfl) (by rw [inMedia, ho]))

/-- The reply of SPRS: the reserve and the three counts. -/
def Units.reserveReply (u : Units) : List Byte := byte u.pool.reserve :: u.pool.countBytes

theorem sprs_stores (hs : s.takes) (hr : r ≤ 112) (hl : s.pool.legHeld ≤ 384 - r) :
    exec (.sprs tag [byte r]) s =
      .next { s with
        toUnits := (s.toUnits.reserved r).settle
        link := s.link.answered tag (ascii4 'S' 'P' 'R' 'S') [byte r] (.ok (s.toUnits.reserved r).reserveReply) } := by
  have hown := ownSprs_in_range s.legs s.toMedia hr
  rw [if_neg (Nat.not_lt.mpr hl)] at hown
  exact congrArg Host.Outcome.next (request_units hs (by simp) (by rfl) (by rw [inMedia, hown]; rfl))

theorem reserved_settled (hs : s.takes) (hq : s.noCueRoutes) :
    (s.toUnits.reserved r).settle = s.toUnits.reserved r :=
  Units.settle_of_none _ (((pass_keeps s.legs (s.toMedia.reserved r)).postings hq).trans hs.2)

/-- Without cue routes nothing comes after the grant pass. -/
theorem sprs_quiet (hs : s.takes) (hq : s.noCueRoutes) (hr : r ≤ 112) (hl : s.pool.legHeld ≤ 384 - r) :
    exec (.sprs tag [byte r]) s =
      .next { s with
        toUnits := s.toUnits.reserved r
        link := s.link.answered tag (ascii4 'S' 'P' 'R' 'S') [byte r] (.ok (s.toUnits.reserved r).reserveReply) } := by
  rw [sprs_stores hs hr hl, reserved_settled hs hq]

/-- SPRS stores the reserve, answers with it and the counts, and with an empty wait list does no more (R85). -/
theorem sprs_stores_reserve (hs : s.takes) (hr : r ≤ 112) (hl : s.pool.legHeld ≤ 384 - r) :
    ∃ (t : State) (out : List Byte), exec (.sprs tag [byte r]) s = .next t ∧
      t.link = s.link.answered tag (ascii4 'S' 'P' 'R' 'S') [byte r] (.ok out) ∧ t.pool.reserve = r ∧
      (s.noCueRoutes → out = byte r :: (le2 t.pool.free ++ le2 t.pool.legHeld ++ le2 t.pool.cursorHeld)) ∧
      (s.pool.wait = [] →
        t = { s with pool := { s.pool with reserve := r } }.replied tag (ascii4 'S' 'P' 'R' 'S') [byte r]
          (.ok out)) := by
  refine ⟨_, _, sprs_stores hs hr hl, rfl, ?_, fun hq => ?_, fun hw => ?_⟩
  · obtain ⟨-, -, -, hreserve, -⟩ := settle_keeps (s.toUnits.reserved r)
    exact hreserve.trans (reserved_reserve ..)
  · rw [reserved_settled hs hq, Units.reserveReply, reserved_reserve]
    rfl
  · have hpass := reserved_of_pass (u := s.toUnits) (pass_of_wait_nil s.legs (m := s.toMedia.reserved r) hw)
    have hsettle : (s.toUnits.reserved r).settle = s.toUnits.reserved r :=
      Units.settle_of_none _ (by rw [hpass]; exact hs.2)
    rw [hsettle, hpass]
    rfl

/-! ## The grant pass of SPRS -/

/-- The candidate is the leg that has been parked longest, the lower number among equals (R79). -/
theorem reserved_candidate {n : LegIx} (hn : s.reclaimable n)
    (ho : ∀ m, m ≠ n → s.reclaimable m → s.parkAge m < s.parkAge n ∨ (s.parkAge m = s.parkAge n ∧ n < m)) :
    (s.toMedia.reserved r).candidate s.legs = some n := by
  refine candidate_of_oldest (parkedFor_eq_some_iff.mpr ⟨hn, rfl⟩) fun k b hk hb => ?_
  obtain ⟨hreclaim, rfl⟩ := parkedFor_eq_some_iff.mp hb
  exact ho k hk hreclaim

/-- What a grant pass has done for a head that takes a candidate's segments: a reclaim, and a grant where it then
fits. -/
structure Media.Reclaimed (m : Media) (n : LegIx) (freed : Pool) (e : WaitEntry) (t : Media) : Prop where
  router : t.router = m.router.record .echoReclaimed (.leg n) (detail1 (byte (look m.can n).held.length))
  held : (look t.can n).held = []
  reclaimed : (look t.can n).reclaimed = true
  state : (look t.can n).state = .idle
  waiting : freed.fits e.who e.need = false → t.pool = freed
  granted : freed.fits e.who e.need = true →
    t.pool = { freed.mark (freed.lowestFree e.need) e.who.owner with wait := [] }

/-- For a head that does not fit one candidate is reclaimed; the head is granted if it then fits, and waits if there
is no other (R77, R80). -/
theorem pass_reclaims {legs : Vector Leg 64} {m : Media} {n : LegIx} {freed : Pool} {e : WaitEntry}
    {ws : List WaitEntry} (hw : m.pool.wait = e :: ws) (hf : m.pool.fits e.who e.need = false)
    (hc : m.candidate legs = some n) (he : e.who ≠ .leg n)
    (hfreed : freed = m.pool.mark ((look m.can n).held.map HeldSeg.num) .free)
    (h : (freed.fits e.who e.need = true ∧ ws = []) ∨
      (freed.fits e.who e.need = false ∧
        ∀ k, k ≠ n → ¬ ((look legs k).state = .parked ∧ (look m.can k).held ≠ []))) :
    m.Reclaimed n freed e (m.pass legs) := by
  obtain ⟨hparked, -⟩ := parkedFor_isSome (candidate_parkedFor hc)
  obtain ⟨hheld, hmark, hstate⟩ := reclaim_loses (m := m) hparked
  have hpool : (m.reclaim legs n).pool = freed := hfreed ▸ reclaim_pool
  rcases h with ⟨hfits, rfl⟩ | ⟨hfits, hother⟩
  · have hcan := grant_can_other (legs := legs) (m := m.reclaim legs n) e.need he
    rw [pass_of_reclaimed_last hw hf hc (hpool ▸ hfits)]
    refine ⟨(grant_router ..).trans reclaim_router, by rw [hcan, hheld], by rw [hcan, hmark], by rw [hcan, hstate],
      fun hn => (nomatch hn.symm.trans hfits), fun _ => ?_⟩
    rw [grant_pool_of_last (m := m.reclaim legs n) hw, hpool]
  · rw [pass_of_reclaimed_stuck hw hf hc (hpool ▸ hfits) (reclaim_candidate_none hother hparked)]
    exact ⟨reclaim_router, hheld, hmark, hstate, fun _ => hpool, fun hn => nomatch hn.symm.trans hfits⟩

/-- A head that fits gets the lowest-numbered FREE segments (R78). -/
structure Media.Granted (m : Media) (e : WaitEntry) (segs : List SegIx) (t : Media) : Prop where
  router : t.router = m.router
  wait : t.pool.wait = []
  owner : ∀ i, look t.pool.owner i = if i ∈ segs then e.who.owner else look m.pool.owner i
  held : ∀ n, e.who = .leg n →
    (look t.can n).held = (look m.can n).held ++ segs.map fun i => { num := i, taps := List.replicate 128 0 }
  ring : ∀ c, e.who = .cursor c → e.need = 2 →
    (look t.cursors c).ring.map (fun x => [(look x 0).num, (look x 1).num]) = some segs

theorem pass_grants {legs : Vector Leg 64} {m : Media} {e : WaitEntry} (hw : m.pool.wait = [e])
    (hf : m.pool.fits e.who e.need = true) : m.Granted e (m.pool.lowestFree e.need) (m.pass legs) := by
  have hpool := grant_pool_of_last (legs := legs) hw
  rw [pass_of_last hw hf]
  refine ⟨grant_router .., by rw [hpool], fun i => ?_, fun n hn => ?_, fun c hc hneed => ?_⟩
  · rw [hpool]
    exact mark_owner ..
  · rw [hn, grantLeg_can, restate_held, granted_held]
    rfl
  · rw [hc, hneed] at hf ⊢
    exact grantCursor_ringNums hf

end

/-! ## ECHO and WPST on the wait list -/

/-- A leg that asks for more takes its place at the tail, or has its need changed where it stands (R76, R83). -/
theorem echo_waits {s : State} {tag : BitVec 16} {n : LegIx} {tail need : Nat} (hs : s.takes) (hq : s.noCueRoutes)
    (h2 : 2 ≤ tail) (h8 : tail ≤ 8) (hm : (look s.legs n).mode ≠ .off) (ht : tail ≠ (look s.legs n).tail)
    (hc : (look s.legs n).state = .connecting ∨ (look s.legs n).state = .talking)
    (hneed : need = tail - (look s.can n).held.length) (hh : (look s.can n).held.length < tail)
    (hwait : s.pool.wait ≠ []) (hr : ∀ k, ¬ s.reclaimable k)
    (hf : ∀ e, (s.pool.askedBy n need).head? = some e → s.pool.fits e.who e.need = false) :
    ∃ t : State, exec (.echo tag [byte n, (look s.legs n).mode.code, byte tail, 0]) s = .next t ∧
      t.pool = { s.pool with wait := s.pool.askedBy n need } := by
  obtain ⟨e, rest, hlist⟩ : ∃ e rest, s.pool.askedBy n need = e :: rest := by
    refine List.exists_cons_of_ne_nil ?_
    unfold Pool.askedBy
    split
    · exact fun h => hwait (List.map_eq_nil_iff.mp h)
    · exact List.append_ne_nil_of_left_ne_nil hwait _
  obtain ⟨-, hstuck⟩ := ((echoed_larger_spec (u := s.toUnits) rfl hm ht rfl rfl rfl hneed hh).2
    ((inCall_iff _).mpr hc)).2 e rest hlist (hf e (by rw [hlist]; rfl)) hr
  have hown := ownEcho_eq s.toUnits n (look s.legs n).mode false h2 h8
  refine ⟨_, congrArg Host.Outcome.next (request_units hs (by simp) (by rfl) hown), ?_⟩
  have hkeeps := (echoed_keeps s.toUnits n (look s.legs n).mode tail false).media
  rw [settle_of_keeps hs.2 hq hkeeps]
  exact hstuck

theorem dropReason_eq_none {u : Units} {p : PosIx} {q : CueIx} (hp : (look u.pos p).state = .idle)
    (hq : (look u.cues q).items ≠ []) (hw : (look u.whisper p).queue = []) : u.dropReason p q = none := by
  unfold Units.dropReason
  simp [hp, hq, hw, whisperLimit]

/-- A cursor that asks takes its place behind the last cursor (R76). -/
theorem wpst_waits {s : State} {tag : BitVec 16} {p : PosIx} {q : CueIx} {ms : Nat} {rest : List Item}
    {cursors others : List WaitEntry} (hs : s.takes) (hq : s.noCueRoutes)
    (hitems : (look s.cues q).items = .silence ms :: rest) (hp : (look s.pos p).state = .idle)
    (hw : look s.whisper p = { queue := [], playing := .none, stack := [] })
    (hstop : (look s.cursors (posCursor p)).state = .stopped) (hwait : s.pool.wait = cursors ++ others)
    (hc : ∀ e ∈ cursors, ∃ c, e.who = .cursor c ∧ c ≠ posCursor p) (hl : ∀ e ∈ others, ∃ n, e.who = .leg n)
    (hfree : s.pool.free < 2) (hhead : ∀ e, s.pool.wait.head? = some e → s.pool.fits e.who e.need = false)
    (hr : ∀ n, ¬ s.reclaimable n) :
    ∃ t : State, exec (.wpst tag [byte p, byte q, 2, 0]) s = .next t ∧
      t.pool = { s.pool with wait := cursors ++ { who := .cursor (posCursor p), need := 2 } :: others } := by
  have hdrop : s.toUnits.dropReason p q = none :=
    dropReason_eq_none hp (by rw [hitems]; exact List.cons_ne_nil _ _) (by rw [hw])
  let x := Entry.new q .routine .post .resume
  have hplaced : (ownWpst [byte p, byte q, 2, 0] s.toUnits).1 = s.toUnits.place p x := by
    have hlevel : readLevel 2 = some .routine := rfl
    have hresume : readResume 0 = some .resume := rfl
    simp only [ownWpst, readPos_byte, readCue_byte, hlevel, hresume, hdrop, x]
  obtain ⟨rep, hown⟩ : ∃ rep, ownWpst [byte p, byte q, 2, 0] s.toUnits = (s.toUnits.place p x, rep) :=
    ⟨_, Prod.ext hplaced rfl⟩
  obtain ⟨v, hpool, hcan, hstart⟩ := startCursor_silence (legs := s.legs) (m := s.toMedia) hstop hitems
  obtain ⟨hplace, -⟩ := place_first (u := s.toUnits) (e := x) hw (congrArg Prod.snd hstart)
  have hasked := askCursor_waits (legs := s.legs) (m := v) (c := posCursor p) (hpool ▸ hwait) hc hl (hpool ▸ hfree)
    (hpool ▸ hhead) (hcan ▸ hr)
  refine ⟨_, congrArg Host.Outcome.next (request_units hs (by simp) (by rfl) hown), ?_⟩
  rw [settle_of_keeps hs.2 hq (place_keeps ..).media]
  calc (s.toUnits.place p x).toMedia.pool
      = (s.toMedia.startCursor s.legs (posCursor p) q none).1.pool := congrArg Media.pool hplace
    _ = (v.ask s.legs (.cursor (posCursor p)) 2).pool := by rw [hstart]
    _ = _ := by rw [hasked, hpool]

/-- Settles O39: the reserve stored by SPRS, the turns of the grant pass it runs, and the places of new wait
entries. -/
theorem sprsStoresReserve : Obligations.SprsStoresReserve := by
  unfold Obligations.SprsStoresReserve
  refine ⟨fun s tag r hs hr => ⟨fun h => ?_, fun h hl => ?_, sprs_stores_reserve hs⟩, ?_, ?_, ?_⟩
  · exact sprs_refused hs (ownSprs_out_of_range s.legs s.toMedia hr h)
  · exact sprs_refused hs ((ownSprs_in_range s.legs s.toMedia h).trans (if_pos hl))
  · rintro s tag r p e ws hs hq hr hl rfl hw
    refine ⟨fun n hn => ?_, fun c hc => ?_, fun hf hc => ?_, fun n freed hf hn ho he hfreed h => ?_,
      fun segs hf hws hsegs => ?_⟩
    · rw [hn]
      exact (Bool.decide_and ..).symm
    · rw [hc]
      rfl
    · have hpass := pass_of_stuck (legs := s.legs) (m := s.toMedia.reserved r) hw hf (candidate_eq_none hc)
      refine ⟨(s.toUnits.reserved r).reserveReply, (sprs_quiet hs hq hr hl).trans ?_⟩
      rw [reserved_of_pass (u := s.toUnits) hpass]
      rfl
    · have k := pass_reclaims (m := s.toMedia.reserved r) hw hf (reserved_candidate hn ho) he hfreed h
      exact ⟨_, sprs_quiet hs hq hr hl, rfl, rfl, k.router, k.held, k.reclaimed, k.state, k.waiting, k.granted⟩
    · subst hws
      have k := pass_grants (legs := s.legs) (m := s.toMedia.reserved r) hw hf
      have hlow : (s.toMedia.reserved r).pool.lowestFree e.need = segs := hsegs.symm
      rw [hlow] at k
      exact ⟨_, sprs_quiet hs hq hr hl, k.router, k.wait, k.owner, k.held, k.ring⟩
  · rintro s tag n tail wait hs hq h2 h8 hm ht hc hh hwait hr rfl hf
    exact echo_waits hs hq h2 h8 hm ht hc rfl hh hwait hr hf
  · intro s tag p q ms rest cursors others hs hq hitems hp hw hstop hwait hc hl hfree hhead hr
    exact wpst_waits hs hq hitems hp hw hstop hwait hc hl hfree hhead hr

end Sys2Proof.Machine
end

section
/-! PROOFS. The bound of the notice queue: records, grant passes, cursors and the store keep it. -/

namespace Sys2Proof.Machine

section

variable {m : Media} {legs : Vector Leg 64}

theorem raise_bounded (k : EventKind) (x : Subject) (d : BitVec 16) (t : Option PosIx) (h : m.router.bounded) :
    (m.raise k x d t).router.bounded := record_bounded _ _ _ _ h

/-! ## Grant passes -/

theorem grant_bounded (who : Requester) (need : Nat) (h : m.router.bounded) :
    (m.grant legs who need).router.bounded := by
  rw [grant_router]
  exact h

theorem reclaim_bounded (n : LegIx) (h : m.router.bounded) : (m.reclaim legs n).router.bounded := by
  rw [reclaim_router]
  exact record_bounded _ _ _ _ h

theorem passLoop_bounded (fuel : Nat) (h : m.router.bounded) : (m.passLoop legs fuel).router.bounded := by
  induction fuel generalizing m with
  | zero => exact h
  | succ fuel ih =>
    unfold Media.passLoop
    split
    · exact h
    · split
      · exact ih (grant_bounded _ _ h)
      · split
        · exact h
        · exact ih (reclaim_bounded _ h)

theorem pass_bounded (h : m.router.bounded) : (m.pass legs).router.bounded := passLoop_bounded _ h

theorem ask_bounded (who : Requester) (need : Nat) (h : m.router.bounded) :
    (m.ask legs who need).router.bounded := by
  unfold Media.ask
  split
  · exact pass_bounded h
  · split
    · exact grant_bounded _ _ h
    · cases who <;> exact pass_bounded h

theorem release_bounded (segs : List SegIx) (h : m.router.bounded) : (m.release legs segs).router.bounded :=
  pass_bounded h

theorem withdraw_bounded (who : Requester) (h : m.router.bounded) : (m.withdraw legs who).router.bounded := by
  unfold Media.withdraw
  split
  · cases who <;> exact pass_bounded h
  · exact h

/-! ## Cursors -/

theorem issueRefill_bounded (c : CurIx) (h : m.router.bounded) : (m.issueRefill c).router.bounded := by
  rw [issueRefill_router]
  exact h

theorem ringReady_bounded (c : CurIx) (h : m.router.bounded) : (m.ringReady c).router.bounded :=
  issueRefill_bounded c h

theorem enterItems_bounded (c : CurIx) (items : List Item) (i elapsed : Nat) (h : m.router.bounded) :
    (m.enterItems c items i elapsed).1.router.bounded := by
  induction items generalizing m i elapsed with
  | nil => exact h
  | cons it rest ih =>
    unfold Media.enterItems
    cases it with
    | clip id gain =>
      dsimp only
      split
      · exact h
      · exact ih _ _ (raise_bounded _ _ _ _ h)
    | silence ms => exact h
    | tone k ms =>
      dsimp only
      split <;> exact h

theorem enterAt_bounded (c : CurIx) (i elapsed : Nat) (h : m.router.bounded) :
    (m.enterAt c i elapsed).1.router.bounded := enterItems_bounded _ _ _ _ h

theorem dropReference_bounded (c : CurIx) (h : m.router.bounded) : (m.dropReference c).router.bounded := by
  unfold Media.dropReference
  split <;> exact h

theorem leaveItem_bounded (c : CurIx) (h : m.router.bounded) : (m.leaveItem c).router.bounded :=
  dropReference_bounded c h

theorem newPass_bounded (c : CurIx) (q : CueIx) (h : m.router.bounded) : (m.newPass c q).router.bounded := by
  have hin : (((m.snap c q).onCur c fun cur => { cur with played := false }).enterAt c 0 0).1.router.bounded :=
    enterAt_bounded c 0 0 h
  unfold Media.newPass
  dsimp only
  split
  · exact issueRefill_bounded c hin
  · exact hin

theorem swapStarting_bounded (c : CurIx) (q : CueIx) (h : m.router.bounded) :
    (m.swapStarting c q).router.bounded := by
  have hdrop := dropReference_bounded c h
  unfold Media.swapStarting
  dsimp only
  generalize hx : (((m.dropReference c).withdrawRefill c).onCur c fun cur =>
    { cur with ring := cur.ring.map emptyRing, gap := false, played := false, underrun := false }).snap c q = x
  have hin : ((x.onCur c fun cur => cur.beginAt cur.firstPlace).enterAt c 0 0).1.router.bounded :=
    enterAt_bounded c 0 0 (by rw [← hx]; exact hdrop)
  split <;> split
  · exact ringReady_bounded c hin
  · exact hin
  · exact ringReady_bounded c hin
  · exact hin

theorem giveRing_bounded (c : CurIx) (h : m.router.bounded) : (m.giveRing legs c).router.bounded := by
  unfold Media.giveRing
  split
  · exact release_bounded _ h
  · exact withdraw_bounded _ h

theorem stopCursor_bounded (c : CurIx) (h : m.router.bounded) : (m.stopCursor legs c).router.bounded := by
  unfold Media.stopCursor
  split
  · exact h
  · exact giveRing_bounded c (m := (m.dropReference c).withdrawRefill c) (dropReference_bounded c h)

theorem startCursor_bounded (c : CurIx) (q : CueIx) (place : Option Place) (h : m.router.bounded) :
    (m.startCursor legs c q place).1.router.bounded := by
  unfold Media.startCursor
  split
  · exact h
  · have hin : ∀ x i e,
        ((((m.onCur c fun cur => cur.stopped.beginAt x).snap c q).enterAt c i e).1).router.bounded :=
      fun x i e => enterAt_bounded c i e h
    dsimp only
    split
    · exact ask_bounded _ _ (hin _ _ _)
    · split
      · exact ask_bounded _ _ (hin _ _ _)
      · exact hin _ _ _

/-! ## One frame of the cursors -/

theorem underrunIf_bounded (due : Bool) (c : CurIx) (id : ClipIx) (h : m.router.bounded) :
    (m.underrunIf due c id).router.bounded := by
  unfold Media.underrunIf
  split
  · exact raise_bounded _ _ _ _ h
  · exact h

theorem clipFrame_bounded (c : CurIx) (id : ClipIx) (gain : Int) (h : m.router.bounded) :
    (m.clipFrame c id gain).1.router.bounded := by
  by_cases hstill : ∀ r b, (look m.cursors c).ring = some r → playingSeg r = some b → (look r b).data = []
  · rw [clipFrame_still hstill]
    exact h
  · push Not at hstill
    obtain ⟨r, b, hr, hb, hd⟩ := hstill
    obtain ⟨x, xs, hd⟩ := List.exists_cons_of_ne_nil hd
    rw [clipFrame_read hr hb hd]
    exact issueRefill_bounded c (underrunIf_bounded _ _ _ h)

theorem cursorFrame_bounded (c : CurIx) (h : m.router.bounded) : (m.cursorFrame c).1.router.bounded := by
  unfold Media.cursorFrame
  dsimp only
  split
  · exact h
  · split
    · exact clipFrame_bounded _ _ _ h
    all_goals exact h

theorem cursorsFrame_bounded (h : m.router.bounded) : m.cursorsFrame.1.router.bounded := by
  rw [cursorsFrame_eq]
  exact List.foldlRecOn (motive := fun acc : Media × Vector Sample 56 => acc.1.router.bounded) _ _ h
    fun _ hacc c _ => cursorFrame_bounded c hacc

/-! ## The store -/

theorem formatDone_bounded (h : m.router.bounded) : m.formatDone.router.bounded := by
  unfold Media.formatDone
  split
  · exact raise_bounded _ _ _ _ h
  · exact h

variable {t : Media} {flash f : List Host.Cell}

theorem readDone_bounded {r : Refill} {w : Bool} (ht : readDone m flash r w = some t) (h : m.router.bounded) :
    t.router.bounded := by
  unfold readDone at ht
  dsimp only at ht
  split at ht
  · cases ht
    exact h
  · split at ht
    · cases ht
    · split at ht <;> cases ht
      exact issueRefill_bounded _ h

theorem pageProgramDone_bounded {p : RunningProgram} (ht : pageProgramDone m flash p = some (t, f))
    (h : m.router.bounded) : t.router.bounded := by
  unfold pageProgramDone at ht
  dsimp only at ht
  split at ht <;> cases ht
  exact h

theorem headerProgramDone_bounded {p : RunningProgram} {id : ClipIx}
    (ht : headerProgramDone m flash p id = some (t, f)) (h : m.router.bounded) : t.router.bounded := by
  unfold headerProgramDone at ht
  dsimp only at ht
  split at ht
  · split at ht <;> cases ht
    · exact record_bounded _ _ _ _ h
    · exact h
  · cases ht

theorem programFailed_bounded {p : RunningProgram} (ht : programFailed m flash p = some (t, f))
    (h : m.router.bounded) : t.router.bounded := by
  unfold programFailed at ht
  dsimp only at ht
  split at ht <;> cases ht
  refine formatDone_bounded ?_
  split
  · exact raise_bounded _ _ _ _ h
  · exact raise_bounded _ _ _ _ h
  · exact raise_bounded _ _ _ _ h
  · exact h

theorem sectorDone_bounded (k : SectorIx) (bad : Bool) (h : m.router.bounded) :
    (m.sectorDone k bad).router.bounded := by
  unfold Media.sectorDone
  split
  · exact h
  · split
    · exact h
    · dsimp only
      split
      · exact raise_bounded _ _ _ _ h
      · exact h

theorem eraseDone_bounded (e : EraseOp) (h : m.router.bounded) : (eraseDone m flash e).1.router.bounded :=
  formatDone_bounded (sectorDone_bounded _ _ h)

theorem eraseFailed_bounded (e : EraseOp) (h : m.router.bounded) : (eraseFailed m flash e).1.router.bounded :=
  formatDone_bounded (sectorDone_bounded _ _ (raise_bounded _ _ _ _ h))

theorem blankCheckFrom_bounded (k : Nat) (h : m.router.bounded) : (m.blankCheckFrom k).router.bounded := by
  unfold Media.blankCheckFrom
  split
  · exact h
  · exact record_bounded _ _ _ _ h

theorem scanRead_bounded (k : SectorIx) (h : m.router.bounded) : (m.scanRead flash k).router.bounded := by
  unfold Media.scanRead
  dsimp only
  split
  · exact h
  · exact blankCheckFrom_bounded 0 h

theorem scanBlank_bounded (k : SectorIx) (h : m.router.bounded) : (m.scanBlank flash k).router.bounded :=
  blankCheckFrom_bounded _ h

/-! ## Requests of the router -/

theorem ownNfet_bounded (payload : List Byte) {r : Router} (h : r.bounded) : (ownNfet payload r).1.bounded := by
  unfold ownNfet
  split
  · split
    · exact h
    · split
      · exact h
      · exact (List.length_drop.trans_le (Nat.sub_le _ _)).trans h
  · exact h

theorem ownNclr_bounded (payload : List Byte) {r : Router} (h : r.bounded) : (ownNclr payload r).1.bounded := by
  unfold ownNclr
  split
  · exact Nat.zero_le _
  · exact h

theorem ownNmod_bounded (payload : List Byte) {r : Router} (h : r.bounded) : (ownNmod payload r).1.bounded := by
  unfold ownNmod
  split
  · split <;> exact h
  · exact h

theorem ownRout_bounded (payload : List Byte) {r : Router} (h : r.bounded) : (ownRout payload r).1.bounded := by
  unfold ownRout
  split
  · split
    · exact h
    · split
      · exact h
      · split
        · split
          · split <;> exact h
          · exact h
        · exact h
  · exact h

end

end Sys2Proof.Machine
end

section
/-! PROOFS. The bounds of the queues: hold groups, cancellers and what reaches no prompt keep them. -/

namespace Sys2Proof.Machine

/-- An operation that reaches no whisper state and keeps the bound of the notice queue (R168). -/
structure Units.Hushed (u t : Units) : Prop where
  notices : u.router.bounded → t.router.bounded
  whisper : t.whisper = u.whisper

namespace Units.Hushed

variable {u t v : Units}

theorem refl : u.Hushed u := ⟨id, rfl⟩

theorem trans (h : u.Hushed t) (k : t.Hushed v) : u.Hushed v :=
  ⟨k.notices ∘ h.notices, k.whisper.trans h.whisper⟩

theorem of_eq (hr : t.router = u.router) (hw : t.whisper = u.whisper) : u.Hushed t :=
  ⟨fun h => hr ▸ h, hw⟩

end Units.Hushed

section

variable (u : Units) (g : GroupIx) (n : LegIx) (p : PosIx)

/-! ## Parts of the units -/

theorem onMedia_hushed {u : Units} {f : Media → Media} (h : u.router.bounded → (f u.toMedia).router.bounded) :
    u.Hushed (u.onMedia f) := ⟨h, rfl⟩

theorem setMedia_hushed {u : Units} {m : Media} (h : u.router.bounded → m.router.bounded) :
    u.Hushed { u with toMedia := m } := ⟨h, rfl⟩

theorem onLeg_hushed (f : Leg → Leg) : u.Hushed (u.onLeg n f) := .of_eq rfl rfl

theorem onPos_hushed (f : Position → Position) : u.Hushed (u.onPos p f) := .of_eq rfl rfl

theorem onGroup_hushed (f : Group → Group) : u.Hushed (u.onGroup g f) := .of_eq rfl rfl

theorem raise_hushed (k : EventKind) (x : Subject) (d : BitVec 16) (t : Option PosIx) :
    u.Hushed (u.raise k x d t) := onMedia_hushed (raise_bounded k x d t)

/-! ## Hold groups -/

theorem startTest_hushed : u.Hushed (u.startTest g) := by
  unfold Units.startTest
  dsimp only
  split
  · exact .refl
  · split
    · exact (onGroup_hushed u g _).trans (onMedia_hushed (startCursor_bounded _ _ _))
    · exact .refl

theorem stopUnplayable_hushed : u.Hushed (u.stopUnplayable g) :=
  (onMedia_hushed (stopCursor_bounded _)).trans (onGroup_hushed ..)

theorem passStart_hushed : u.Hushed (u.passStart g) := by
  have hset := onGroup_hushed u g fun gr => { gr with pendingChange := false }
  unfold Units.passStart
  dsimp only
  split
  · exact hset.trans (stopUnplayable_hushed ..)
  · exact hset.trans (onMedia_hushed (newPass_bounded _ _))

theorem groupItemEnd_hushed : u.Hushed (u.groupItemEnd g) := by
  have hleft : u.Hushed (u.onMedia fun m => m.leaveItem (groupCursor g)) := onMedia_hushed (leaveItem_bounded _)
  unfold Units.groupItemEnd
  dsimp only
  split
  · exact hleft.trans (passStart_hushed ..)
  · refine hleft.trans (.trans (setMedia_hushed (enterAt_bounded (groupCursor g)
      ((look u.cursors (groupCursor g)).index + 1) 0)) ?_)
    split
    · exact onMedia_hushed (issueRefill_bounded _)
    · split
      · exact passStart_hushed ..
      · exact onMedia_hushed id

theorem lastLeave_hushed : u.Hushed (u.lastLeave g) :=
  (onMedia_hushed (stopCursor_bounded (groupCursor g))).trans (onGroup_hushed ..)

theorem leave_hushed : u.Hushed (u.leave g n) := by
  unfold Units.leave
  dsimp only
  split
  · exact (onGroup_hushed u g _).trans (lastLeave_hushed ..)
  · exact onGroup_hushed ..

theorem join_hushed : u.Hushed (u.join g n) := (onGroup_hushed u g _).trans (startTest_hushed ..)

theorem moveTo_hushed (old : Option GroupIx) : u.Hushed (u.moveTo old g n) := by
  unfold Units.moveTo
  split
  · exact join_hushed ..
  · split
    · exact onGroup_hushed ..
    · exact (leave_hushed ..).trans (join_hushed ..)

theorem standIn_hushed : u.Hushed (u.standIn n g) := (onLeg_hushed u n _).trans (moveTo_hushed ..)

theorem leaveFrom_hushed (o : Option GroupIx) : u.Hushed (u.leaveFrom n o) := by
  cases o with
  | none => exact .refl
  | some g => exact leave_hushed ..

theorem parkAlarm_hushed : u.Hushed (u.parkAlarm n) := by
  unfold Units.parkAlarm
  split
  · exact (onLeg_hushed u n _).trans (raise_hushed ..)
  · exact .refl

theorem parkAlarms_hushed (xs : List LegIx) : u.Hushed (xs.foldl Units.parkAlarm u) := by
  induction xs generalizing u with
  | nil => exact .refl
  | cons n xs ih => exact (parkAlarm_hushed u n).trans (ih _)

theorem startTests_hushed (q : CueIx) (gs : List GroupIx) :
    u.Hushed (gs.foldl (fun u g => if (look u.groups g).source = some q then u.startTest g else u) u) := by
  induction gs generalizing u with
  | nil => exact .refl
  | cons g gs ih =>
    rw [List.foldl_cons]
    split
    · exact (startTest_hushed u g).trans (ih _)
    · exact ih u

theorem changeSource_hushed (source : Option CueIx) : u.Hushed (u.changeSource g source) := by
  have hset := onGroup_hushed u g fun gr =>
    { gr with source := source
              point := if decide ((look u.groups g).source ≠ source) then none else gr.point }
  unfold Units.changeSource
  dsimp only at hset ⊢
  generalize (u.onGroup g fun gr =>
    { gr with source := source
              point := if decide ((look u.groups g).source ≠ source) then none else gr.point }) = v at hset ⊢
  refine hset.trans ?_
  split
  · exact .refl
  · split
    · exact onGroup_hushed ..
    · split
      · split
        · exact onMedia_hushed (swapStarting_bounded _ _)
        · exact stopUnplayable_hushed ..
      · exact onGroup_hushed ..

/-! ## Cut-through -/

theorem cutThrough_hushed (cause : CutCause) : u.Hushed (u.cutThrough n cause) := by
  rw [cutThrough_eq]
  exact (((onLeg_hushed u n _).trans (leaveFrom_hushed ..)).trans (onMedia_hushed id)).trans (raise_hushed ..)

theorem connectReport_hushed (cause : CutCause) : u.Hushed (u.connectReport p cause) := by
  unfold Units.connectReport
  dsimp only
  split
  · exact .refl
  · split
    · exact cutThrough_hushed ..
    · exact .refl

/-! ## Cancellers -/

theorem acquire_hushed : u.Hushed (u.acquire n) := by
  unfold Units.acquire
  dsimp only
  split
  · exact onMedia_hushed (ask_bounded _ _)
  · exact .refl

theorem echoBind_hushed : u.Hushed (u.echoBind n) := (onMedia_hushed id).trans (acquire_hushed ..)

theorem echoPark_hushed : u.Hushed (u.echoPark n) := by
  refine onMedia_hushed fun h => ?_
  dsimp only
  split
  · exact pass_bounded h
  · exact h

theorem echoRelease_hushed : u.Hushed (u.echoRelease n) := onMedia_hushed fun h => pass_bounded h

theorem echoOff_hushed : u.Hushed (u.echoOff n) := by
  refine onMedia_hushed fun h => ?_
  dsimp only
  split
  · exact pass_bounded h
  · exact h

theorem echoMode_hushed (old new : EchoMode) : u.Hushed (u.echoMode n old new) := by
  unfold Units.echoMode
  split
  · exact .refl
  · split
    · exact echoOff_hushed ..
    · split
      · exact acquire_hushed ..
      · exact .refl
    · exact onMedia_hushed id
    · exact onMedia_hushed id

theorem echoTail_hushed (tail : Nat) : u.Hushed (u.echoTail n tail) := by
  unfold Units.echoTail
  dsimp only
  split
  · exact onMedia_hushed fun h => pass_bounded h
  · split
    · exact onMedia_hushed (withdraw_bounded _)
    · split
      · exact acquire_hushed ..
      · exact .refl

theorem echoed_hushed (mode : EchoMode) (tail : Nat) (reset : Bool) : u.Hushed (u.echoed n mode tail reset) := by
  have hset : u.Hushed (u.echoSet n mode tail) := .of_eq rfl rfl
  have hmode : u.Hushed (u.echoModed n mode tail) := hset.trans (echoMode_hushed ..)
  have htail : u.Hushed (u.echoTailed n mode tail) := by
    unfold Units.echoTailed
    split
    · exact hmode.trans (echoTail_hushed ..)
    · exact hmode
  unfold Units.echoed
  split
  · exact htail.trans (onMedia_hushed id)
  · exact htail

theorem convergenceTurn_hushed : u.Hushed (u.convergenceTurn n) := by
  unfold Units.convergenceTurn
  dsimp only
  split
  · exact (onMedia_hushed id).trans (raise_hushed ..)
  · exact onMedia_hushed id

theorem windowEnd_hushed : u.Hushed (u.windowEnd n) := by
  have hmeasured : u.Hushed (u.onMedia fun m =>
      { (m.onCan n fun c => c.measure m.nonce) with nonce := m.nonce + 1 }) := onMedia_hushed id
  unfold Units.windowEnd
  dsimp only
  refine .trans ?_ (onMedia_hushed id)
  split
  · exact hmeasured.trans (convergenceTurn_hushed ..)
  · exact hmeasured

/-! ## Positions and pairs -/

theorem raisePos_hushed (k : EventKind) (d : BitVec 16) (f : Position → Position) :
    u.Hushed (u.raisePos k p d f) := by
  unfold Units.raisePos
  dsimp only
  split
  · exact (raise_hushed ..).trans (onPos_hushed ..)
  · exact raise_hushed ..

theorem muteChange_hushed (was : Bool) : u.Hushed (u.muteChange p was) := by
  unfold Units.muteChange
  dsimp only
  split
  · exact .refl
  · exact (onPos_hushed u p _).trans (raisePos_hushed ..)

theorem arrive_hushed (key : Bool) : u.Hushed (u.arrive p key) :=
  ((onPos_hushed u p _).trans (raisePos_hushed ..)).trans (muteChange_hushed ..)

theorem markPair_hushed (x : Pair) (active : Bool) : u.Hushed (u.markPair x active) := .of_eq rfl rfl

theorem unpaired_hushed (x : Pair) : u.Hushed (u.unpaired x) := .of_eq rfl rfl

theorem connecting_hushed : u.Hushed (u.connecting n p) := by
  have hset := onLeg_hushed u n fun l => { l with state := .connecting, bound := some p, owner := some p }
  unfold Units.connecting
  dsimp only
  split
  · exact hset.trans (standIn_hushed ..)
  · exact hset

end

end Sys2Proof.Machine
end

section
/-! PROOFS. The bounds of the whisper states: what each stage of the scheduling of prompts starts from and leaves. -/

namespace Sys2Proof.Machine

/-! ## Between sound states -/

/-- What a prompt of a level may play over: a waiting queue within its bound, and an entry on the stack only
under an URGENT one, and that one ROUTINE (R114). -/
def Whisper.bears (w : Whisper) (lvl : Level) : Prop :=
  w.queue.length ≤ whisperLimit ∧ (w.stack = [] ∨ ∃ a, w.stack = [a] ∧ a.level = .routine ∧ lvl = .urgent)

/-- What the next entry is taken from (R119): an empty playing place, over a stack of one, or of two that rise. -/
def Whisper.ready (w : Whisper) : Prop :=
  w.playing = .none ∧ w.queue.length ≤ whisperLimit ∧
    (w.stack = [] ∨ (∃ a, w.stack = [a]) ∨ ∃ a b, w.stack = [b, a] ∧ a.level = .routine ∧ b.level = .urgent)

/-- How many entries wait or are stacked: taking the next entry removes one each time (log 38). -/
def Whisper.entries (w : Whisper) : Nat := w.queue.length + w.stack.length

/-- What the decision on a placed entry starts from (R116). -/
def Whisper.placed (w : Whisper) : Prop :=
  (w.playing = .none ∧ w.stack = [] ∧ ∃ e, w.queue = [e]) ∨ (w.playing ≠ .none ∧ w.sound)

/-- A queue whose head may start over the rest of the whisper state. -/
def Whisper.heads (w : Whisper) : Prop :=
  ∃ e q, w.queue = e :: q ∧ { w with queue := q }.bears e.level

section

variable {w : Whisper} {e e' : Entry}

theorem sound_of_bears (h : w.bears e.level) : { w with playing := .prompt e }.sound := by
  obtain ⟨hq, hs⟩ := h
  exact ⟨hq, nofun, hs.imp id fun ⟨a, ha, hl, hu⟩ => .inl ⟨a, ha, .inr ⟨hl, e, rfl, hu⟩⟩⟩

theorem bears_of_sound (h : w.sound) (hp : w.playing = .prompt e) : w.bears e.level := by
  obtain ⟨hq, -, hs⟩ := h
  refine ⟨hq, ?_⟩
  rcases hs with hs | ⟨a, ha, hcoach | ⟨hl, e', he', hu⟩⟩ | ⟨a, b, -, -, -, hcoach⟩
  · exact .inl hs
  · simp [hp] at hcoach
  · rw [hp] at he'
    cases he'
    exact .inr ⟨a, ha, hl, hu⟩
  · simp [hp] at hcoach

theorem ready_of_bears {lvl : Level} (h : w.bears lvl) : { w with playing := .none }.ready :=
  ⟨rfl, h.1, h.2.imp id fun ⟨a, ha, _⟩ => .inl ⟨a, ha⟩⟩

theorem ready_of_sound (h : w.sound) : { w with playing := .none }.ready := by
  obtain ⟨hq, -, hs⟩ := h
  exact ⟨rfl, hq, hs.imp id (.imp (fun ⟨a, ha, _⟩ => ⟨a, ha⟩) fun ⟨a, b, hab, hl, hu, _⟩ => ⟨a, b, hab, hl, hu⟩)⟩

theorem sound_of_empty (hs : w.stack = []) (hq : w.queue = []) : w.sound :=
  ⟨by simp [hq], fun _ => ⟨hq, hs⟩, .inl hs⟩

/-- A stacked entry that goes on, where the head of the queue does not preempt it or none waits. -/
theorem bears_of_ready {st : List Entry} (h : w.ready) (hs : w.stack = e :: st) :
    { w with stack := st }.bears e.level := by
  obtain ⟨-, hq, hst⟩ := h
  rw [hs] at hst
  rcases hst with hst | ⟨a, ha⟩ | ⟨a, b, hab, hl, hu⟩
  · cases hst
  · cases ha
    exact ⟨hq, .inl rfl⟩
  · cases hab
    exact ⟨hq, .inr ⟨a, rfl, hl, hu⟩⟩

/-- A preempting head over the stacked entry it preempts, which keeps its level (R119). -/
theorem bears_of_preempts {st q : List Entry} {hd : Entry} {nesting : Bool} (h : w.ready) (hs : w.stack = e :: st)
    (hq : w.queue = hd :: q) (hp : preempts nesting e.level hd.level = true) (he : e'.level = e.level) :
    { w with queue := q, stack := e' :: st }.bears hd.level := by
  obtain ⟨-, hlen, hst⟩ := h
  obtain ⟨⟨-, hl⟩, hu⟩ : (nesting = true ∧ e.level = .routine) ∧ hd.level = .urgent := by
    simpa [preempts] using hp
  rw [hs] at hst
  rw [hq] at hlen
  have hst : st = [] := by
    rcases hst with hst | ⟨a, ha⟩ | ⟨a, b, hab, -, hb⟩
    · cases hst
    · exact (List.cons.inj ha).2
    · rw [← (List.cons.inj hab).1, hl] at hb
      cases hb
  exact ⟨(Nat.le_succ _).trans hlen, .inr ⟨e', by rw [hst], he.trans hl, hu⟩⟩

/-- A preempting head over a playing entry that has been pushed (R116, R117). -/
theorem heads_of_pushed {q : List Entry} {hd : Entry} {nesting : Bool} (h : w.sound) (hp : w.playing = .prompt e)
    (hq : w.queue = hd :: q) (hpre : preempts nesting e.level hd.level = true) (he : e'.level = e.level) :
    { w with playing := .none, stack := e' :: w.stack }.heads := by
  obtain ⟨hlen, hs⟩ := bears_of_sound h hp
  obtain ⟨⟨-, hl⟩, hu⟩ : (nesting = true ∧ e.level = .routine) ∧ hd.level = .urgent := by
    simpa [preempts] using hpre
  have hst : w.stack = [] := hs.resolve_right fun ⟨_, _, _, hu⟩ => by rw [hl] at hu; cases hu
  rw [hq] at hlen
  exact ⟨hd, q, hq, (Nat.le_succ _).trans hlen, .inr ⟨e', by rw [hst], he.trans hl, hu⟩⟩

theorem enqueue_length (q : List Entry) (e : Entry) : (enqueue q e).length = q.length + 1 := by
  unfold enqueue
  rw [List.length_append, List.length_cons, ← Nat.add_assoc, ← List.length_append, List.take_append_drop]

theorem placed_of_enqueue (h : w.sound) (hl : w.queue.length < whisperLimit) :
    { w with queue := enqueue w.queue e }.placed := by
  by_cases hp : w.playing = .none
  · obtain ⟨hq, hs⟩ := h.2.1 hp
    exact .inl ⟨hp, hs, e, by rw [hq, enqueue_nil]⟩
  · exact .inr ⟨hp, by rw [enqueue_length]; exact hl, fun hn => absurd hn hp, h.2.2⟩

theorem heads_of_placed (h : w.placed) (hp : w.playing = .none) : w.heads := by
  obtain ⟨-, hs, e, he⟩ := h.resolve_right fun h => h.1 hp
  exact ⟨e, [], he, Nat.zero_le _, .inl hs⟩

theorem sound_of_placed (h : w.placed) (hp : w.playing ≠ .none) : w.sound :=
  (h.resolve_left fun h => hp h.1).2

/-- A coach over a sound state in which nothing but a prompt played (R128). -/
theorem coach_sound_of_pushed (h : w.sound) (hp : w.playing = .prompt e) (he : e'.level = e.level) :
    { w with playing := .coach, stack := e' :: w.stack }.sound := by
  obtain ⟨hq, hs⟩ := bears_of_sound h hp
  refine ⟨hq, nofun, .inr ?_⟩
  rcases hs with hs | ⟨a, ha, hl, hu⟩
  · exact .inl ⟨e', by rw [hs], .inl rfl⟩
  · exact .inr ⟨a, e', by rw [ha], hl, he.trans hu, rfl⟩

theorem coach_sound (h : w.sound) (hp : ∀ e, w.playing ≠ .prompt e) : { w with playing := .coach }.sound := by
  cases hw : w.playing with
  | none => exact ⟨h.1, nofun, .inl (h.2.1 hw).2⟩
  | coach =>
    have : { w with playing := .coach } = w := by rw [← hw]
    exact this ▸ h
  | prompt e => exact absurd hw (hp e)

/-- What is left of a sound state by a removal is ready where its playing place falls empty (R123). -/
theorem ready_without {f : Entry → Bool} (h : w.sound) (hf : w.playing.isPrompt f = true) : (w.without f).ready := by
  obtain ⟨e, hp, he⟩ : ∃ e, w.playing = .prompt e ∧ f e = true := by
    cases hw : w.playing <;> simp_all [Playing.isPrompt]
  obtain ⟨hq, hs⟩ := bears_of_sound h hp
  refine ⟨if_pos hf, (List.length_filter_le ..).trans hq, ?_⟩
  rcases hs with hs | ⟨a, ha, -, -⟩
  · exact .inl (by simp [Whisper.without, hs])
  · unfold Whisper.without
    cases hfa : f a <;> simp [ha, hfa]

/-- What is left of a sound state by a removal that spares the playing place is sound (R123). -/
theorem sound_without {f : Entry → Bool} (h : w.sound) (hf : w.playing.isPrompt f = false) : (w.without f).sound := by
  have hplay : (w.without f).playing = w.playing := if_neg (by simp [hf])
  obtain ⟨hq, hn, hs⟩ := h
  refine ⟨(List.length_filter_le ..).trans hq, fun hp => ?_, ?_⟩
  · obtain ⟨hq, hs⟩ := hn (hplay.symm.trans hp)
    simp [Whisper.without, hq, hs]
  · rw [hplay]
    unfold Whisper.without
    rcases hs with hs | ⟨a, ha, hp⟩ | ⟨a, b, hab, hl, hu, hp⟩
    · exact .inl (by simp [hs])
    · cases hfa : f a
      · exact .inr (.inl ⟨a, by simp [ha, hfa], hp⟩)
      · exact .inl (by simp [ha, hfa])
    · cases hfa : f a <;> cases hfb : f b
      · exact .inr (.inr ⟨a, b, by simp [hab, hfa, hfb], hl, hu, hp⟩)
      · exact .inr (.inl ⟨a, by simp [hab, hfa, hfb], .inl hp⟩)
      · exact .inr (.inl ⟨b, by simp [hab, hfa, hfb], .inl hp⟩)
      · exact .inl (by simp [hab, hfa, hfb])

end

/-! ## Operations on one position's prompts -/

/-- An operation on one position's prompts: it takes a whisper state with one property to one with another, leaves
those of the other positions, and keeps the bound of the notice queue. -/
structure Units.Turns (p : PosIx) (A B : Whisper → Prop) (u t : Units) : Prop where
  notices : u.router.bounded → t.router.bounded
  others : ∀ q, q ≠ p → look t.whisper q = look u.whisper q
  here : A (look u.whisper p) → B (look t.whisper p)

section

variable {p : PosIx} {A B C : Whisper → Prop} {u t v : Units}

theorem Units.Turns.trans (h : Units.Turns p A B u t) (k : Units.Turns p B C t v) : Units.Turns p A C u v :=
  ⟨k.notices ∘ h.notices, fun q hq => (k.others q hq).trans (h.others q hq), k.here ∘ h.here⟩

theorem Units.Hushed.turns (h : u.Hushed t) (hab : A (look u.whisper p) → B (look u.whisper p)) :
    Units.Turns p A B u t :=
  ⟨h.notices, fun _ _ => by rw [h.whisper], fun ha => h.whisper ▸ hab ha⟩

theorem Units.Turns.then (h : Units.Turns p A B u t) (k : t.Hushed v) : Units.Turns p A B u v :=
  h.trans (k.turns id)

theorem refl_turns (hab : A (look u.whisper p) → B (look u.whisper p)) : Units.Turns p A B u u :=
  Units.Hushed.refl.turns hab

theorem onWhisper_turns {f : Whisper → Whisper} (hab : A (look u.whisper p) → B (f (look u.whisper p))) :
    Units.Turns p A B u (u.onWhisper p f) where
  notices := id
  others q hq := by rw [Units.onWhisper_whisper, look_upd_of_ne _ hq.symm]
  here ha := by
    rw [Units.onWhisper_whisper, look_upd_self]
    exact hab ha

/-! ## Entries start, complete and are pushed -/

theorem stopPos_hushed (u : Units) (p : PosIx) : u.Hushed (u.stopPos p) := onMedia_hushed (stopCursor_bounded _)

theorem takePlace_hushed (u : Units) (p : PosIx) : u.Hushed (u.takePlace p).1 :=
  setMedia_hushed fun h => stopCursor_bounded _ (m := u.toMedia.pauseCursor (posCursor p)) h

theorem startEntry_turns (e : Entry)
    (hab : A (look u.whisper p) → ∀ e', e'.level = e.level → B { look u.whisper p with playing := .prompt e' }) :
    Units.Turns p A B u (u.startEntry p e).1 :=
  (onWhisper_turns fun ha => hab ha { e with saved := none, holdsCursor := false } rfl).then
    (setMedia_hushed (startCursor_bounded _ _ _))

theorem completeEntry_turns (e : Entry)
    (hab : A (look u.whisper p) → B { look u.whisper p with playing := .none }) :
    Units.Turns p A B u (u.completeEntry p e) := by
  unfold Units.completeEntry
  dsimp only
  split
  · exact (onWhisper_turns hab).then (connectReport_hushed ..)
  · exact (onWhisper_turns hab).then (raise_hushed ..)

theorem pushPlaying_turns (byCoach : Bool)
    (hp : ∀ e e', (look u.whisper p).playing = .prompt e → e'.level = e.level → A (look u.whisper p) →
      B { look u.whisper p with playing := .none, stack := e' :: (look u.whisper p).stack })
    (hn : (∀ e, (look u.whisper p).playing ≠ .prompt e) → A (look u.whisper p) → B (look u.whisper p)) :
    Units.Turns p A B u (u.pushPlaying p byCoach) := by
  have hin {v : Units} (hv : u.Hushed v) {e e' : Entry} (he : (look u.whisper p).playing = .prompt e)
      (hl : e'.level = e.level) :
      Units.Turns p A B u (v.onWhisper p fun w => { w with playing := .none, stack := e' :: w.stack }) :=
    (hv.turns id).trans (onWhisper_turns fun ha => by
      rw [hv.whisper] at ha ⊢
      exact hp e e' he hl ha)
  unfold Units.pushPlaying
  split
  next h => exact refl_turns (hn fun e => by rw [h]; nofun)
  next h => exact refl_turns (hn fun e => by rw [h]; nofun)
  next e h =>
    dsimp only
    split
    · exact hin (stopPos_hushed u p) h rfl
    · exact hin (onMedia_hushed id) h rfl
    · exact hin (takePlace_hushed u p) h rfl

/-! ## The next entry -/

theorem queue_of_preemptor {lvl : Level} {hd : Entry} {q : List Entry} (h : u.preemptor p lvl = some (hd, q)) :
    (look u.whisper p).queue = hd :: q ∧ preempts (look u.pos p).nesting lvl hd.level = true := by
  unfold Units.preemptor at h
  cases hq : (look u.whisper p).queue with
  | nil => simp [hq] at h
  | cons e es =>
    simp only [hq, Option.ite_none_right_eq_some, Option.some.injEq, Prod.mk.injEq] at h
    obtain ⟨hp, rfl, rfl⟩ := h
    exact ⟨rfl, hp⟩

/-- The next entry taken leaves a sound state; what completes as it starts leaves fewer entries (R119). -/
theorem nextLoop_turns (fuel : Nat) :
    Units.Turns p (fun w => w.ready ∧ w.entries < fuel) Whisper.sound u (u.nextLoop p fuel) := by
  induction fuel generalizing u with
  | zero => exact refl_turns fun h => absurd h.2 (Nat.not_lt_zero _)
  | succ fuel ih =>
    have go {v : Units} {e : Entry} (hv : Units.Turns p (fun w => w.ready ∧ w.entries < fuel + 1)
        (fun w => w.bears e.level ∧ w.entries < fuel) u v) :
        Units.Turns p (fun w => w.ready ∧ w.entries < fuel + 1) Whisper.sound u
          (if (v.startEntry p e).2 = true then ((v.startEntry p e).1.completeEntry p e).nextLoop p fuel
            else (v.startEntry p e).1) := by
      split
      · exact ((hv.trans (startEntry_turns (B := fun w => w.bears e.level ∧ w.entries < fuel) e fun h _ _ => h)).trans
          (completeEntry_turns e fun ⟨hb, hn⟩ => ⟨ready_of_bears hb, hn⟩)).trans ih
      · exact hv.trans (startEntry_turns e fun ⟨hb, _⟩ e' he => sound_of_bears (e := e') (he ▸ hb))
    unfold Units.nextLoop
    dsimp only
    split
    next e st hst =>
      split
      next hd q hpre =>
        obtain ⟨hq, hpre⟩ := queue_of_preemptor hpre
        have hturn {v : Units} {e' : Entry} (hv : u.Hushed v) (he : e'.level = e.level) :
            Units.Turns p (fun w => w.ready ∧ w.entries < fuel + 1) (fun w => w.bears hd.level ∧ w.entries < fuel) u
              (v.onWhisper p fun w => { w with queue := q, stack := e' :: st }) :=
          (hv.turns id).trans (onWhisper_turns fun ⟨hr, hn⟩ => by
            rw [hv.whisper] at hr hn ⊢
            refine ⟨bears_of_preempts hr hst hq hpre he, ?_⟩
            simp only [Whisper.entries, hst, hq, List.length_cons] at hn ⊢
            omega)
        refine go ?_
        split
        · exact hturn (takePlace_hushed u p) rfl
        · exact hturn .refl rfl
      next hnone =>
        have hpop : Units.Turns p (fun w => w.ready ∧ w.entries < fuel + 1)
            (fun w => w.bears e.level ∧ w.entries < fuel) u (u.onWhisper p fun w => { w with stack := st }) :=
          onWhisper_turns fun ⟨hr, hn⟩ => by
            refine ⟨bears_of_ready hr hst, ?_⟩
            simp only [Whisper.entries, hst, List.length_cons] at hn ⊢
            omega
        split
        · exact (hpop.trans (onWhisper_turns fun ⟨hb, _⟩ =>
            sound_of_bears (e := { e with holdsCursor := false }) hb)).then (onMedia_hushed id)
        · exact go hpop
    next hd q hst hq =>
      refine go (onWhisper_turns fun ⟨hr, hn⟩ => ⟨⟨?_, .inl hst⟩, ?_⟩)
      · have hlen := hr.2.1
        rw [hq] at hlen
        exact (Nat.le_succ _).trans hlen
      · simp only [Whisper.entries, hst, hq, List.length_cons] at hn ⊢
        omega
    next hst hq => exact refl_turns fun _ => sound_of_empty hst hq

theorem next_turns (u : Units) (p : PosIx) : Units.Turns p Whisper.ready Whisper.sound u (u.next p) := by
  unfold Units.next
  dsimp only
  split
  · exact (refl_turns fun h => ⟨h, Nat.lt_succ_self _⟩).trans (nextLoop_turns _)
  next h => exact refl_turns fun hr => by rw [hr.1] at h; cases h
  next h => exact refl_turns fun hr => by rw [hr.1] at h; cases h

/-! ## Placing entries -/

theorem startHead_turns (u : Units) (p : PosIx) : Units.Turns p Whisper.heads Whisper.sound u (u.startHead p) := by
  unfold Units.startHead
  split
  next hq => exact refl_turns fun ⟨e, q, he, _⟩ => by rw [hq] at he; cases he
  next e q hq =>
    have hv : Units.Turns p Whisper.heads (fun w => w.bears e.level) u
        (u.onWhisper p fun w => { w with queue := q }) :=
      onWhisper_turns fun ⟨e', q', he, hb⟩ => by
        rw [hq] at he
        cases he
        exact hb
    dsimp only
    split
    · exact ((hv.trans (startEntry_turns (B := fun w => w.bears e.level) e fun h _ _ => h)).trans
        (completeEntry_turns e ready_of_bears)).trans (next_turns ..)
    · exact hv.trans (startEntry_turns e fun hb e' he => sound_of_bears (e := e') (he ▸ hb))

theorem schedule_turns (u : Units) (p : PosIx) : Units.Turns p Whisper.placed Whisper.sound u (u.schedule p) := by
  unfold Units.schedule
  split
  next h => exact (refl_turns fun hw => heads_of_placed hw h).trans (startHead_turns ..)
  next h => exact refl_turns fun hw => sound_of_placed hw (by rw [h]; nofun)
  next e h =>
    have hsound (hw : (look u.whisper p).placed) : (look u.whisper p).sound := sound_of_placed hw (by rw [h]; nofun)
    split
    next hpre =>
      obtain ⟨⟨hd, q⟩, hpre⟩ := Option.isSome_iff_exists.mp hpre
      obtain ⟨hq, hp⟩ := queue_of_preemptor hpre
      refine (pushPlaying_turns false (fun e₀ e' he hl hw => ?_) fun hn => absurd h (hn e)).trans (startHead_turns ..)
      rw [h] at he
      cases he
      exact heads_of_pushed (hsound hw) h hq hp hl
    · exact refl_turns hsound

theorem place_turns (u : Units) (p : PosIx) (e : Entry) :
    Units.Turns p (fun w => w.sound ∧ w.queue.length < whisperLimit) Whisper.sound u (u.place p e) :=
  (onWhisper_turns fun h => placed_of_enqueue h.1 h.2).trans (schedule_turns ..)

end

end Sys2Proof.Machine
end

section
/-! PROOFS. The bounds of the queues: prompts, pairs, legs and headsets keep them. -/

namespace Sys2Proof.Machine

/-- An operation of the units that keeps the notice queue and the whisper states within their bounds. -/
structure Units.Bounds (u t : Units) : Prop where
  notices : u.router.bounded → t.router.bounded
  whisper : (∀ p, (look u.whisper p).sound) → ∀ p, (look t.whisper p).sound

section

variable {u t v : Units} {p : PosIx}

namespace Units.Bounds

theorem refl : u.Bounds u := ⟨id, id⟩

theorem trans (h : u.Bounds t) (k : t.Bounds v) : u.Bounds v := ⟨k.notices ∘ h.notices, k.whisper ∘ h.whisper⟩

end Units.Bounds

theorem Units.Hushed.bounds (h : u.Hushed t) : u.Bounds t := ⟨h.notices, fun hw q => h.whisper ▸ hw q⟩

/-- Sound here, and elsewhere as it was. -/
theorem Units.Turns.bounds {A : Whisper → Prop} (h : Units.Turns p A Whisper.sound u t)
    (ha : (look u.whisper p).sound → A (look u.whisper p)) : u.Bounds t where
  notices := h.notices
  whisper hw q := by
    by_cases hq : q = p
    · subst hq
      exact h.here (ha (hw q))
    · rw [h.others q hq]
      exact hw q

theorem Units.Bounds.hushed (h : u.Bounds t) (k : t.Hushed v) : u.Bounds v := h.trans k.bounds

end

section

variable (u : Units) (n : LegIx) (p : PosIx) (g : GroupIx)

/-! ## Prompts -/

theorem place_bounds (e : Entry) (h : (look u.whisper p).queue.length < whisperLimit) : u.Bounds (u.place p e) :=
  (place_turns u p e).bounds fun hw => ⟨hw, h⟩

theorem dropReason_none {u : Units} {p : PosIx} {q : CueIx} (h : u.dropReason p q = none) :
    (look u.whisper p).queue.length < whisperLimit := by
  unfold Units.dropReason at h
  dsimp only at h
  split at h
  · cases h
  · split at h
    · cases h
    · split at h
      · cases h
      next hl => exact Nat.lt_of_not_le hl

theorem post_bounds (q : CueIx) (lvl : Level) (o : Origin) : u.Bounds (u.post p q lvl o).1 := by
  unfold Units.post
  split
  · exact (raise_hushed ..).bounds
  next h => exact place_bounds u p _ (dropReason_none h)

theorem postRouted_bounds (x : Posting) : u.Bounds (u.postRouted x) :=
  (post_bounds u x.pos x.cue x.level .route).hushed (.of_eq rfl rfl)

theorem settle_bounds : u.Bounds u.settle :=
  List.foldlRecOn (motive := fun v : Units => u.Bounds v) _ _
    (Units.Hushed.of_eq (u := u) (t := { u with postings := [] }) rfl rfl).bounds
    fun v hv x _ => hv.trans (postRouted_bounds v x)

theorem removeEntries_without {A B : Whisper → Prop} (f : Entry → Bool)
    (hab : A (look u.whisper p) → B ((look u.whisper p).without f)) :
    Units.Turns p A B u (u.removeEntries p f).1 where
  notices := by
    unfold Units.removeEntries
    dsimp only
    split
    · exact stopCursor_bounded (m := u.toMedia) (posCursor p)
    · exact id
  others q hq := by rw [removeEntries_whisper, look_upd_of_ne _ hq.symm]
  here ha := by
    rw [removeEntries_whisper, look_upd_self]
    exact hab ha

/-- A removal, and then the next entry taken where the playing place fell empty (R123, R124). -/
theorem removed_bounds {v : Units} (f : Entry → Bool) (hv : (u.removeEntries p f).1.Hushed v) :
    u.Bounds (if (look u.whisper p).playing.isPrompt f then v.next p else v) := by
  split
  next h =>
    exact (((removeEntries_without u p f fun hw => ready_without hw h).then hv).trans (next_turns v p)).bounds id
  next h => exact ((removeEntries_without u p f fun hw => sound_without hw (by simpa using h)).then hv).bounds id

theorem removeConnect_bounds : u.Bounds (u.removeConnect p) := removed_bounds u p _ .refl

theorem emptyWhisper_bounds : u.Bounds (u.emptyWhisper p) :=
  ((removeEntries_without u p (A := fun _ => True) (B := fun _ => True) _ id).trans
    (onWhisper_turns fun _ => whisper_reset_sound)).bounds fun _ => trivial

theorem posItemEnd_bounds : u.Bounds (u.posItemEnd p) := by
  unfold Units.posItemEnd
  dsimp only
  have hin : u.Hushed { u with toMedia := ((u.toMedia.leaveItem (posCursor p)).enterAt (posCursor p)
      ((look u.cursors (posCursor p)).index + 1) 0).1 } :=
    setMedia_hushed fun h => enterAt_bounded _ _ _ (leaveItem_bounded _ h)
  split
  · exact (hin.trans (onMedia_hushed (issueRefill_bounded _))).bounds
  · have hstop := hin.trans (stopPos_hushed _ p)
    split
    next e he =>
      exact (((hstop.turns id).trans (completeEntry_turns e ready_of_sound)).trans (next_turns ..)).bounds id
    · exact hstop.bounds
    · exact hstop.bounds

theorem itemEnd_bounds (c : CurIx) : u.Bounds (u.itemEnd c) := by
  unfold Units.itemEnd
  dsimp only
  split
  · split
    · exact (groupItemEnd_hushed ..).bounds
    · exact posItemEnd_bounds ..
  · exact .refl

/-! ## Pairs -/

theorem activatePair_bounds (x : Pair) : u.Bounds (u.activatePair x) := by
  rw [activatePair_eq]
  have hmark := markPair_hushed u x true
  have hpush : Units.Turns x.agent Whisper.sound (fun w => { w with playing := .coach }.sound) (u.markPair x true)
      ((u.markPair x true).pushPlaying x.agent true) :=
    pushPlaying_turns true (fun e e' hp he hw => coach_sound_of_pushed hw hp he) fun hp hw => coach_sound hw hp
  exact (hmark.bounds.trans ((hpush.trans (onWhisper_turns id)).bounds id)).hushed (raise_hushed ..)

theorem dropCoach_bounds : u.Bounds (u.dropCoach p) := by
  unfold Units.dropCoach
  split
  · exact ((onWhisper_turns ready_of_sound).trans (next_turns ..)).bounds id
  · exact .refl
  · exact .refl

theorem suspendPair_bounds : u.Bounds (u.suspendPair p) := by
  unfold Units.suspendPair
  split
  · split
    · exact (markPair_hushed ..).bounds.trans (dropCoach_bounds ..)
    · exact .refl
  · exact .refl

theorem endPair_bounds (x : Pair) (reason : EndReason) : u.Bounds (u.endPair x reason) := by
  obtain ⟨v, hv, hu⟩ := endPair_eq u x reason
  have huv : u.Bounds v := by
    rcases hu with rfl | ⟨rfl, -⟩
    · exact .refl
    · exact dropCoach_bounds ..
  rw [hv]
  exact huv.hushed ((unpaired_hushed v x).trans (raise_hushed ..))

theorem whisperLoss_bounds : u.Bounds (u.whisperLoss p) := by
  unfold Units.whisperLoss
  dsimp only
  split
  · exact (emptyWhisper_bounds ..).trans (endPair_bounds ..)
  · exact emptyWhisper_bounds ..

/-! ## Announcements -/

theorem announce_bounds (a : Counting) : u.Bounds (u.announce a).1 := by
  unfold Units.announce
  refine List.foldlRecOn (motive := fun acc : Units × Nat => u.Bounds acc.1) _ _ .refl fun acc hacc q _ => ?_
  dsimp only
  split
  · exact hacc.trans (post_bounds ..)
  · exact hacc

theorem fire_bounds (k : SlotIx) (a : Counting) : u.Bounds (u.fire k a).1 := by
  have hposted := announce_bounds u a
  unfold Units.fire
  generalize u.announce a = x at hposted
  exact hposted.hushed (raise_hushed ..)

/-! ## Legs -/

theorem posBind_bounds : u.Bounds (u.posBind p n) := by
  unfold Units.posBind
  dsimp only
  split
  · exact (onPos_hushed u p _).bounds.trans (activatePair_bounds ..)
  · exact (onPos_hushed ..).bounds

theorem posUnbind_bounds : u.Bounds (u.posUnbind p) := (onPos_hushed u p _).bounds.trans (suspendPair_bounds ..)

theorem unbindFrom_bounds (o : Option PosIx) : u.Bounds (u.unbindFrom o) := by
  cases o with
  | none => exact .refl
  | some p => exact posUnbind_bounds ..

theorem cancelConnect_bounds : u.Bounds (u.cancelConnect n) := by
  unfold Units.cancelConnect
  dsimp only
  split
  · split
    · exact (onLeg_hushed u n _).bounds.trans (removeConnect_bounds ..)
    · exact (onLeg_hushed ..).bounds
  · exact .refl

theorem standPast_bounds (o : Option PosIx) : u.Bounds (u.standPast n o g) :=
  ((onLeg_hushed u n _).bounds.trans (unbindFrom_bounds ..)).hushed (standIn_hushed ..)

theorem park_bounds : u.Bounds (u.park n g) := by
  cases hs : (look u.legs n).inCall
  case false =>
    rcases (not_inCall_iff _).mp hs with hf | hf
    · rw [park_of_free hf]
      exact ((onLeg_hushed u n _).trans (standIn_hushed ..)).bounds
    · rw [park_of_parked hf]
      exact (standIn_hushed ..).bounds
  case true =>
    rw [park_of_inCall hs]
    exact ((cancelConnect_bounds u n).trans (standPast_bounds ..)).hushed
      ((onLeg_hushed ..).trans (echoPark_hushed ..))

theorem autoPark_bounds : u.Bounds (u.autoPark p n) := by
  have hparted : u.Bounds (u.parted p n) :=
    (cancelConnect_bounds u n).hushed ((onLeg_hushed ..).trans (onPos_hushed ..))
  have hquiet : u.Bounds (u.autoParkQuiet p n) :=
    hparted.hushed (((standIn_hushed ..).trans (onLeg_hushed ..)).trans (echoPark_hushed ..))
  rw [autoPark_eq u p n _ rfl]
  exact hquiet.hushed (raise_hushed ..)

theorem rels_bounds : u.Bounds (u.rels n) := by
  rw [rels_eq]
  exact (((cancelConnect_bounds u n).hushed (onLeg_hushed ..)).trans (unbindFrom_bounds ..)).hushed
    ((((onLeg_hushed ..).trans (leaveFrom_hushed ..)).trans (onLeg_hushed ..)).trans (echoRelease_hushed ..))

theorem bindTalk_bounds : u.Bounds (u.bindTalk n p) := by
  rw [bindTalk_eq]
  exact (((onLeg_hushed u n _).trans (leaveFrom_hushed ..)).bounds.trans (posBind_bounds ..)).hushed
    (echoBind_hushed ..)

theorem bindConnect_bounds (q : CueIx) (timeout : Nat) (h : (look u.whisper p).queue.length < whisperLimit) :
    u.Bounds (u.bindConnect n p q timeout) := by
  have hconn : u.Hushed ((u.connecting n p).onLeg n fun l => { l with connectRef := true }) :=
    (connecting_hushed u n p).trans (onLeg_hushed ..)
  have hplaced : u.Bounds (u.prompted n p q) :=
    hconn.bounds.trans (place_bounds _ p _ (by rw [hconn.whisper]; exact h))
  have hbound := ((hplaced.hushed (onLeg_hushed _ n fun l => { l with timer := some (connectFrames timeout) })).trans
    (posBind_bounds _ n p)).hushed (echoBind_hushed _ n)
  rw [bindConnect_eq]
  split
  · exact hbound
  · exact hbound.hushed (connectReport_hushed ..)

theorem connectExpiry_bounds : u.Bounds (u.connectExpiry n) := by
  unfold Units.connectExpiry
  dsimp only
  split
  · exact (cancelConnect_bounds u n).hushed (cutThrough_hushed ..)
  · exact .refl

/-! ## Headsets -/

theorem lose_bounds (cause : LossCause) : u.Bounds (u.lose p cause) := by
  have hlost : u.Bounds (((u.onPos p Position.lost).raisePos .headsetOff p
      (detail2 cause.code (look u.pos p).state.code) fun x => { x with presentChanged := false }).muteChange p
        (look u.pos p).muted) :=
    (((onPos_hushed u p _).trans (raisePos_hushed ..)).trans (muteChange_hushed ..)).bounds
  unfold Units.lose
  refine .trans ?_ (whisperLoss_bounds ..)
  split
  · exact hlost.trans (autoPark_bounds ..)
  · exact hlost

end

/-! ## The owners of units -/

section

variable (payload : List Byte) (u : Units)

theorem ownPlpb_bounds : u.Bounds (ownPlpb payload u).1 := by
  unfold ownPlpb
  split
  · split
    · split
      · exact (onPos_hushed ..).bounds
      · exact .refl
    · split
      · exact (onPos_hushed ..).bounds
      · exact .refl
    · exact .refl
  · exact .refl

theorem ownBind_bounds : u.Bounds (ownBind payload u).1 := by
  unfold ownBind
  split
  · split
    · dsimp only
      split
      · exact .refl
      · split
        · exact .refl
        · split
          · exact bindTalk_bounds ..
          · split
            · exact .refl
            · split
              · exact .refl
              next hl => exact bindConnect_bounds _ _ _ _ _ (Nat.lt_of_not_le hl)
    · exact .refl
  · exact .refl

theorem ownPark_bounds : u.Bounds (ownPark payload u).1 := by
  unfold ownPark
  split
  · split
    · exact park_bounds ..
    · exact .refl
  · exact .refl

theorem ownRels_bounds : u.Bounds (ownRels payload u).1 := by
  unfold ownRels
  split
  · split
    · exact .refl
    · split
      · exact .refl
      · exact rels_bounds ..
  · exact .refl

theorem ownEcho_bounds : u.Bounds (ownEcho payload u).1 := by
  unfold ownEcho
  split
  · split
    next n mode tail reset _ _ _ _ => exact (echoed_hushed u n mode tail reset).bounds
    · exact .refl
  · exact .refl

theorem ownSprs_bounds : u.Bounds (inMedia (ownSprs u.legs payload) u).1 := by
  refine (setMedia_hushed (m := (ownSprs u.legs payload u.toMedia).1) fun h => ?_).bounds
  unfold ownSprs
  split
  · split
    · exact h
    · split
      · exact h
      · exact pass_bounded h
  · exact h

theorem ownCdef_bounds : u.Bounds (ownCdef payload u).1 := by
  unfold ownCdef
  split
  · exact .refl
  next q l _ =>
    have hput : u.Hushed (u.onMedia fun m => { m with cues := put m.cues q l }) := onMedia_hushed id
    dsimp only
    have hstarted := hput.trans (startTests_hushed _ q (List.finRange 8))
    generalize List.foldl _ _ (List.finRange 8) = v at hstarted
    exact hstarted.bounds

theorem ownGsrc_bounds : u.Bounds (ownGsrc payload u).1 := by
  unfold ownGsrc
  split
  · split
    next g source resume alarm _ _ _ _ =>
      have hsource := (onGroup_hushed u g fun gr =>
        { gr with resume := resume, point := if resume then gr.point else none }).trans
          (changeSource_hushed _ g source)
      have halarm := hsource.trans (onGroup_hushed _ g fun gr => { gr with alarm := alarm })
      exact ((halarm.trans (parkAlarms_hushed ..)).trans (startTest_hushed _ g)).bounds
    · exact .refl
  · exact .refl

theorem ownWpst_bounds : u.Bounds (ownWpst payload u).1 := by
  unfold ownWpst
  split
  · split
    · split
      · exact .refl
      · exact .refl
      · exact .refl
      next h => exact place_bounds _ _ _ (dropReason_none h)
    · exact .refl
  · exact .refl

theorem ownWfls_bounds : u.Bounds (ownWfls payload u).1 := by
  unfold ownWfls
  split
  next set =>
    split
    next p _ _ _ =>
      refine removed_bounds u p _ ?_
      split
      · exact connectReport_hushed ..
      · exact .refl
    · exact .refl
  · exact .refl

/-- A pair attached, and activated where its agent is ENGAGED (R127, R128). -/
theorem attached_bounds {u v : Units} (h : u.Bounds v) (x : Pair) (engaged : Bool) (f : Position → Position) :
    u.Bounds (if engaged = true then
        (({ v with pairs := v.pairs ++ [x] }.setLinks x).onPos x.supervisor f).activatePair x
      else ({ v with pairs := v.pairs ++ [x] }.setLinks x).onPos x.supervisor f) := by
  have hset : u.Bounds (({ v with pairs := v.pairs ++ [x] }.setLinks x).onPos x.supervisor f) :=
    h.hushed (.of_eq rfl rfl)
  split
  · exact hset.trans (activatePair_bounds ..)
  · exact hset

theorem ownCatt_bounds : u.Bounds (ownCatt payload u).1 := by
  unfold ownCatt
  split
  · split
    next s a mode _ _ _ =>
      dsimp only
      split
      · exact .refl
      · split
        · exact .refl
        · split
          · exact .refl
          · split
            · exact .refl
            · cases u.pairOfAgent a with
              | none => exact attached_bounds .refl { supervisor := s, agent := a, mode := mode, active := false } _ _
              | some x =>
                exact attached_bounds (endPair_bounds u x .replaced)
                  { supervisor := s, agent := a, mode := mode, active := false } _ _
    · exact .refl
  · exact .refl

theorem ownCdet_bounds : u.Bounds (ownCdet payload u).1 := by
  unfold ownCdet
  split
  · split
    · exact .refl
    · split
      · exact .refl
      · exact endPair_bounds ..
  · exact .refl

theorem ownFormat_bounds : u.Bounds (ownFormat payload u).1 := by
  unfold ownFormat
  dsimp only
  split
  · exact (setMedia_hushed (m := Media.formatDone { u.toMedia with store := (ownFrmt payload u.store).1 })
      fun h => formatDone_bounded h).bounds
  · exact (Units.Hushed.of_eq rfl rfl).bounds

end

end Sys2Proof.Machine
end

section
/-! PROOFS. The bounds of the queues: every command keeps them (O8). -/

namespace Sys2Proof.Machine

/-- What keeps the notice queue, the whisper states and the request queue within their bounds. -/
structure State.Bounds (s t : State) : Prop where
  units : s.toUnits.Bounds t.toUnits
  link : s.link.bounded → t.link.bounded

namespace State.Bounds

variable {s t v : State}

theorem refl : s.Bounds s := ⟨.refl, id⟩

theorem trans (h : s.Bounds t) (k : t.Bounds v) : s.Bounds v := ⟨h.units.trans k.units, k.link ∘ h.link⟩

theorem of_units (h : s.toUnits.Bounds t.toUnits) (hl : t.link = s.link) : s.Bounds t := ⟨h, fun hb => hl ▸ hb⟩

theorem of_link (hu : t.toUnits = s.toUnits) (h : s.link.bounded → t.link.bounded) : s.Bounds t :=
  ⟨hu ▸ .refl, h⟩

theorem of_eq (hu : t.toUnits = s.toUnits) (hl : t.link = s.link) : s.Bounds t := of_link hu fun hb => hl ▸ hb

theorem ite {c : Prop} [Decidable c] (h : s.Bounds t) : s.Bounds (if c then t else s) := by
  split
  · exact h
  · exact refl

end State.Bounds

/-! ## Parts of the state -/

section

variable (s : State) (p : PosIx)

theorem state_onUnits_bounds {s : State} {f : Units → Units} (h : s.toUnits.Bounds (f s.toUnits)) :
    s.Bounds (s.onUnits f) := .of_units h rfl

theorem state_onMedia_bounds {s : State} {f : Media → Media} (h : s.router.bounded → (f s.toMedia).router.bounded) :
    s.Bounds (s.onMedia f) := .of_units (onMedia_hushed h).bounds rfl

theorem onSup_bounds (f : Suppressor → Suppressor) : s.Bounds (s.onSup p f) := .of_eq rfl rfl

theorem settled_bounds : s.Bounds s.settled := state_onUnits_bounds (settle_bounds s.toUnits)

theorem syncGenerator_bounds : s.Bounds (s.syncGenerator p) := by
  obtain ⟨gen, k, h, -, -⟩ := syncGenerator_eq s p
  rw [h]
  exact ⟨⟨id, id⟩, id⟩

/-! ## The link -/

theorem answerOwn_length (rs : List Request) : (answerOwn rs).length = rs.length := by
  induction rs with
  | nil => rfl
  | cons r rs ih =>
    unfold answerOwn
    split
    · split
      · rfl
      · exact congrArg (· + 1) ih
    · split
      · exact congrArg (· + 1) ih
      · rfl

theorem giveReply_length (rep : Reply) (rs : List Request) : (giveReply rep rs).length = rs.length := by
  induction rs with
  | nil => rfl
  | cons r rs ih =>
    unfold giveReply
    split
    · rfl
    · exact congrArg (· + 1) ih

theorem pump_bounded {l : Link} (h : l.bounded) : l.pump.bounded := by
  unfold Link.bounded Link.pump
  rw [answerOwn_length]
  exact h

theorem discard_bounds (cause : Discard) : s.Bounds (s.discard cause) := by
  have hset : s.Bounds { s with
      link := { s.link with counters := upd s.link.counters cause.index bump16, latch := true } } :=
    .of_link rfl id
  unfold State.discard
  dsimp only
  split
  · exact hset
  · exact hset.trans (state_onMedia_bounds (raise_bounded _ _ _ none))

theorem accept_bounds (r : Request) : s.Bounds (s.accept r) := by
  unfold State.accept
  split
  · exact discard_bounds ..
  next hl =>
    refine .of_link rfl fun _ => pump_bounded ?_
    show (s.link.requests ++ [r]).length ≤ requestLimit
    rw [List.length_append]
    exact Nat.lt_of_not_le hl

theorem setAssembler_bounds (a : Assembler) : s.Bounds (s.setAssembler a) := .of_link rfl id

theorem completeFrame_bounds (bytes : List Byte) : s.Bounds (s.completeFrame bytes) := by
  unfold State.completeFrame
  dsimp only
  split
  · exact discard_bounds ..
  · split
    · split
      · exact discard_bounds ..
      · exact accept_bounds ..
    · exact discard_bounds ..

theorem receive_bounds (b : Byte) (stop : Bool) : s.Bounds (s.receive b stop) := by
  unfold State.receive
  split
  · split
    · exact setAssembler_bounds ..
    · exact .refl
  · split
    · exact (setAssembler_bounds ..).trans (discard_bounds ..)
    · dsimp only
      split
      · exact .refl
      · split
        · exact (setAssembler_bounds ..).trans (discard_bounds ..)
        · split
          · exact (setAssembler_bounds ..).trans (completeFrame_bounds ..)
          · exact setAssembler_bounds ..

theorem lineBreak_bounds : s.Bounds s.lineBreak := by
  unfold State.lineBreak
  split
  · exact .refl
  · exact (setAssembler_bounds ..).trans (discard_bounds ..)

theorem gapTimeout_bounds : s.Bounds s.gapTimeout := by
  unfold State.gapTimeout
  split
  · exact .refl
  · split
    · exact (setAssembler_bounds ..).trans (discard_bounds ..)
    · exact .refl

theorem replyStart_bounds : s.Bounds s.replyStart := by
  unfold State.replyStart
  split
  · exact .of_link rfl id
  · exact .refl

theorem noticeStart_bounds : s.Bounds s.noticeStart := by
  unfold State.noticeStart
  split
  next hns =>
    refine ⟨⟨fun h => ?_, id⟩, id⟩
    unfold Router.bounded at h
    rw [hns] at h
    exact (Nat.le_succ _).trans h
  · exact .refl

theorem link_frameEnd_bounded {l : Link} (h : l.bounded) : l.frameEnd.bounded := by
  unfold Link.frameEnd
  split
  · exact pump_bounded (l := { l with tx := none, requests := l.requests.drop 1 })
      ((List.length_drop.trans_le (Nat.sub_le _ _)).trans h)
  · exact h
  · exact h

/-! ## Resets -/

theorem reset_bounds (u : Units) (k : ResetKind) (st : Store) (nonce : Nat) : u.Bounds (Units.reset k st nonce) where
  notices _ := by simp [Router.bounded, Units.reset, Media.reset, Router.reset, noticeLimit]
  whisper _ p := by
    show (look (Vector.replicate 48 Whisper.reset) p).sound
    rw [look, Vector.getElem_replicate]
    exact whisper_reset_sound

theorem hardReset_bounds (k : ResetKind) : s.Bounds (s.hardReset k) := ⟨reset_bounds .., fun _ => Nat.zero_le _⟩

theorem restart_bounds : s.Bounds s.restart := ⟨reset_bounds .., fun _ => Nat.zero_le _⟩

theorem frameEnd_bounds : s.Bounds s.frameEnd := by
  unfold State.frameEnd
  split
  · exact restart_bounds s
  · split
    · exact .of_link rfl link_frameEnd_bounded
    · exact .of_link rfl link_frameEnd_bounded

/-! ## The owners of the state -/

variable (payload : List Byte)

theorem ownPcfg_bounds : s.Bounds (ownPcfg payload s).1 := by
  unfold ownPcfg
  split
  · split
    · dsimp only
      split
      · exact .refl
      · exact ⟨(onPos_hushed s.toUnits _ _).bounds, id⟩
    · exact .refl
  · exact .refl

theorem ownPqry_bounds : s.Bounds (ownPqry payload s).1 := by
  unfold ownPqry
  split
  · split
    · exact .refl
    · exact ⟨(onPos_hushed s.toUnits _ _).bounds, id⟩
  · exact .refl

theorem ownPmut_bounds : s.Bounds (ownPmut payload s).1 := by
  unfold ownPmut
  split
  · split
    · exact (state_onUnits_bounds ((onPos_hushed ..).trans (muteChange_hushed ..)).bounds).trans
        (syncGenerator_bounds ..)
    · exact .refl
  · exact .refl

theorem ownAnnc_bounds : s.Bounds (ownAnnc payload s).1 := by
  unfold ownAnnc
  split
  next mask _ _ _ _ =>
    split
    next q lvl delay _ _ _ =>
      split
      · exact .refl
      · split
        · exact .refl
        next k _ =>
          dsimp only
          split
          · have hfired := fire_bounds s.toUnits k { mask := mask, cue := q, level := lvl, left := framesOf delay }
            generalize s.toUnits.fire k _ = x at hfired
            exact ⟨hfired, id⟩
          · exact .of_eq rfl rfl
    · exact .refl
  · exact .refl

theorem ownAcan_bounds : s.Bounds (ownAcan payload s).1 := by
  unfold ownAcan
  split
  · split
    · exact .refl
    · split
      · exact .refl
      · exact .of_eq rfl rfl
  · exact .refl

/-! ## Headsets, blocks and announcements -/

theorem state_arrive_bounds (key : Bool) : s.Bounds (s.arrive p key) :=
  ((state_onUnits_bounds (arrive_hushed ..).bounds).trans (onSup_bounds ..)).trans (syncGenerator_bounds ..)

theorem state_lose_bounds (cause : LossCause) : s.Bounds (s.lose p cause) :=
  (state_onUnits_bounds (lose_bounds ..)).trans (onSup_bounds ..)

theorem takeKey_bounds (key : Bool) : s.Bounds (s.takeKey p key) := by
  unfold State.takeKey
  dsimp only
  split
  · exact (state_onUnits_bounds ((onPos_hushed ..).trans (muteChange_hushed ..)).bounds).trans
      (syncGenerator_bounds ..)
  · exact .refl

theorem debounce_bounds (present key : Bool) : s.Bounds (s.debounce p present key) := by
  unfold State.debounce
  dsimp only
  split
  · exact state_onUnits_bounds (onPos_hushed ..).bounds
  · split
    · exact state_onUnits_bounds (onPos_hushed ..).bounds
    · split
      · exact .refl
      · split
        · exact state_arrive_bounds ..
        · exact state_lose_bounds ..

theorem subframe_bounds (present key valid : Bool) : s.Bounds (s.subframe p present key valid) := by
  unfold State.subframe
  split
  · exact ((state_onUnits_bounds (onPos_hushed ..).bounds).trans (takeKey_bounds ..)).trans (debounce_bounds ..)
  · exact .refl

theorem linkLost_bounds : s.Bounds (s.linkLost p) := by
  unfold State.linkLost
  split
  · dsimp only
    split
    · exact (state_onUnits_bounds (onPos_hushed ..).bounds).trans (state_lose_bounds ..)
    · exact state_onUnits_bounds (onPos_hushed ..).bounds
  · exact .refl

theorem announceExpiry_bounds (k : SlotIx) : s.Bounds (s.announceExpiry k) := by
  unfold State.announceExpiry
  split
  · exact .refl
  next a _ =>
    split
    · have hfired := fire_bounds s.toUnits k a
      generalize s.toUnits.fire k a = x at hfired
      exact ⟨hfired, id⟩
    · exact .refl

theorem alarmTurn_bounds (a : Alarm) : s.Bounds (s.alarmTurn p a) :=
  ⟨(raise_hushed s.toUnits _ _ _ _).bounds, id⟩

theorem blockEnd_bounds : s.Bounds (s.blockEnd p) := by
  unfold State.blockEnd
  dsimp only
  split
  · exact ((onSup_bounds s p _).trans (alarmTurn_bounds ..)).trans (onSup_bounds ..)
  · exact (onSup_bounds s p _).trans (onSup_bounds ..)

theorem alarmExpiry_bounds (a : Alarm) : s.Bounds (s.alarmExpiry p a) := by
  unfold State.alarmExpiry
  split
  · exact (alarmTurn_bounds ..).trans (settled_bounds _)
  · exact .ite ((blockEnd_bounds ..).trans (settled_bounds _))

theorem frame_bounds (mic trunk : List Sample) : s.Bounds (s.frame mic trunk) where
  units :=
    { notices := fun h => by
        rw [frame_router, Router.bounded, (tick_notices _).1]
        exact cursorsFrame_bounded h
      whisper := fun h q => by
        rw [(frame_keeps s mic trunk).1]
        exact h q }
  link h := by
    rw [frame_link]
    exact h

end

/-! ## Requests -/

/-- An owner that keeps the bounds. -/
def OwnsBounded (own : List Byte → State → State × Reply) : Prop := ∀ payload (s : State), s.Bounds (own payload s).1

theorem ownsBounded_onUnits {own : List Byte → Units → Units × Reply}
    (h : ∀ payload (u : Units), u.Bounds (own payload u).1) : OwnsBounded (onUnits own) :=
  fun payload (s : State) => .of_units (h payload s.toUnits) rfl

theorem ownsBounded_onStore (own : List Byte → Store → Store × Reply) : OwnsBounded (onStore own) :=
  fun _ _ => state_onMedia_bounds id

theorem ownsBounded_onRouter {own : List Byte → Router → Router × Reply}
    (h : ∀ payload {r : Router}, r.bounded → (own payload r).1.bounded) : OwnsBounded (onRouter own) :=
  fun payload _ => state_onMedia_bounds fun hr => h payload hr

theorem ownsBounded_query (own : List Byte → State → Reply) : OwnsBounded (query own) := fun _ _ => .refl

section

variable {own : List Byte → State → State × Reply} (h : OwnsBounded own) (s : State)
include h

theorem take_bounds : s.Bounds (s.take own) := by
  unfold State.take
  split
  · exact .refl
  next r _ =>
    have hown := (h r.payload s).trans (settled_bounds _)
    refine ⟨hown.units, fun hb => pump_bounded ?_⟩
    show (giveReply _ _).length ≤ requestLimit
    rw [giveReply_length]
    exact hown.link hb

theorem request_bounds (name : List Byte) (tag : BitVec 16) (payload : List Byte) :
    s.Bounds (s.request own name tag payload) := by
  unfold State.request
  dsimp only
  split
  · exact take_bounds h s
  · split
    · exact discard_bounds ..
    · split
      · exact (accept_bounds ..).trans (take_bounds h _)
      · exact accept_bounds ..

end

/-! ## Commands, and steps -/

/-- What a command leads to, if it does not fault. -/
def LeadsBounded (s : State) : Outcome → Prop
  | .next t => s.Bounds t
  | _ => True

section

variable (s : State)

theorem leadsBounded_withFlash {o : Option (Media × List Host.Cell)}
    (ho : ∀ m f, o = some (m, f) → s.router.bounded → m.router.bounded) : LeadsBounded s (s.withFlash o) := by
  cases o with
  | none => exact trivial
  | some x => exact ⟨⟨ho x.1 x.2 rfl, id⟩, id⟩

theorem leadsBounded_refillComplete : LeadsBounded s (execRefillComplete s) := by
  unfold execRefillComplete
  split
  · refine leadsBounded_withFlash s fun t f ho => ?_
    obtain ⟨m, hm, hmt⟩ := Option.map_eq_some_iff.mp ho
    cases hmt
    exact readDone_bounded hm
  · exact .refl
  · exact .refl

theorem leadsBounded_resumeHoldExpiry : LeadsBounded s (execResumeHoldExpiry s) := by
  unfold execResumeHoldExpiry
  split
  · exact .refl
  · exact state_onMedia_bounds id

theorem leadsBounded_eraseSuspendEffect : LeadsBounded s (execEraseSuspendEffect s) := by
  unfold execEraseSuspendEffect
  split
  · split
    · exact state_onMedia_bounds id
    · exact .refl
  · exact .refl

theorem leadsBounded_pageProgramComplete : LeadsBounded s (execPageProgramComplete s) := by
  unfold execPageProgramComplete
  split
  · split
    · exact .refl
    all_goals exact leadsBounded_withFlash s fun _ _ => pageProgramDone_bounded
  all_goals exact .refl

theorem leadsBounded_headerProgramComplete : LeadsBounded s (execHeaderProgramComplete s) := by
  unfold execHeaderProgramComplete
  split
  · split
    · exact leadsBounded_withFlash s fun _ _ => headerProgramDone_bounded
    all_goals exact .refl
  all_goals exact .refl

theorem leadsBounded_programTimeout : LeadsBounded s (execProgramTimeout s) := by
  unfold execProgramTimeout
  split
  · split
    · exact leadsBounded_withFlash s fun _ _ => programFailed_bounded
    · exact .refl
  all_goals exact .refl

theorem leadsBounded_eraseComplete : LeadsBounded s (execEraseComplete s) := by
  unfold execEraseComplete
  split
  next e _ =>
    split
    · exact .refl
    · refine leadsBounded_withFlash s fun _ _ ho h => ?_
      cases ho
      exact eraseDone_bounded (flash := s.flash) e h
  · exact .refl

theorem leadsBounded_eraseTimeout : LeadsBounded s (execEraseTimeout s) := by
  unfold execEraseTimeout
  split
  next e _ =>
    split
    · refine leadsBounded_withFlash s fun _ _ ho h => ?_
      cases ho
      exact eraseFailed_bounded (flash := s.flash) e h
    · exact .refl
  · exact .refl

theorem leadsBounded_scanReadComplete : LeadsBounded s (execScanReadComplete s) := by
  unfold execScanReadComplete
  split
  next k _ => exact state_onMedia_bounds (scanRead_bounded k)
  all_goals exact .refl

theorem leadsBounded_blankCheckComplete : LeadsBounded s (execBlankCheckComplete s) := by
  unfold execBlankCheckComplete
  split
  next k _ => exact state_onMedia_bounds (scanBlank_bounded k)
  all_goals exact .refl

theorem onUnits_settled_bounds {s : State} {f : Units → Units} (h : s.toUnits.Bounds (f s.toUnits)) :
    s.Bounds (s.onUnits f).settled := (state_onUnits_bounds h).trans (settled_bounds _)

theorem leadsBounded_convergenceTimerExpiry (n : LegIx) : LeadsBounded s (execConvergenceTimerExpiry n s) := by
  unfold execConvergenceTimerExpiry
  split
  · exact onUnits_settled_bounds (convergenceTurn_hushed ..).bounds
  · exact State.Bounds.ite (onUnits_settled_bounds (windowEnd_hushed ..).bounds)

theorem leadsBounded_hangoverExpiry (p : PosIx) : LeadsBounded s (execHangoverExpiry p s) := by
  unfold execHangoverExpiry
  dsimp only
  split
  · exact onSup_bounds ..
  · exact State.Bounds.ite ((blockEnd_bounds ..).trans (settled_bounds _))

theorem exec_leadsBounded (i : Instr) : LeadsBounded s (exec i s) := by
  have hown {own : List Byte → State → State × Reply} {name : List Byte} {tag : BitVec 16} {payload : List Byte}
      (ho : OwnsBounded own) : LeadsBounded s (.next (s.request own name tag payload)) := request_bounds ho s _ _ _
  cases i with
  | powerOn => exact hardReset_bounds ..
  | pinReset => exact hardReset_bounds ..
  | restart => exact State.Bounds.ite (restart_bounds s)
  | linkRateSwitch => exact State.Bounds.ite (frameEnd_bounds s)
  | receiveByte b stop => exact receive_bounds ..
  | lineBreak => exact lineBreak_bounds s
  | gapTimeout => exact gapTimeout_bounds s
  | replyFrameStart => exact replyStart_bounds s
  | noticeFrameStart => exact noticeStart_bounds s
  | frameTransmitEnd => exact frameEnd_bounds s
  | pcfg => exact hown fun pl t => ownPcfg_bounds t pl
  | pqry => exact hown fun pl t => ownPqry_bounds t pl
  | pmut => exact hown fun pl t => ownPmut_bounds t pl
  | plpb => exact hown (ownsBounded_onUnits ownPlpb_bounds)
  | bind => exact hown (ownsBounded_onUnits ownBind_bounds)
  | park => exact hown (ownsBounded_onUnits ownPark_bounds)
  | rels => exact hown (ownsBounded_onUnits ownRels_bounds)
  | echo => exact hown (ownsBounded_onUnits ownEcho_bounds)
  | sprs => exact hown (ownsBounded_onUnits ownSprs_bounds)
  | cdef => exact hown (ownsBounded_onUnits ownCdef_bounds)
  | gsrc => exact hown (ownsBounded_onUnits ownGsrc_bounds)
  | wpst => exact hown (ownsBounded_onUnits ownWpst_bounds)
  | wfls => exact hown (ownsBounded_onUnits ownWfls_bounds)
  | catt => exact hown (ownsBounded_onUnits ownCatt_bounds)
  | cdet => exact hown (ownsBounded_onUnits ownCdet_bounds)
  | annc => exact hown fun pl t => ownAnnc_bounds t pl
  | acan => exact hown fun pl t => ownAcan_bounds t pl
  | frmt => exact hown (ownsBounded_onUnits ownFormat_bounds)
  | openClip | data | fini | drop | rtir | rsto | prot | listClips | stor => exact hown (ownsBounded_onStore _)
  | rout => exact hown (ownsBounded_onRouter ownRout_bounded)
  | nmod => exact hown (ownsBounded_onRouter ownNmod_bounded)
  | nfet => exact hown (ownsBounded_onRouter ownNfet_bounded)
  | nclr => exact hown (ownsBounded_onRouter ownNclr_bounded)
  | nqry | lqry | spqy | cqry | gqry | idnt | stat | lrat | rstr => exact hown (ownsBounded_query _)
  | statusSubframe p present key valid => exact (subframe_bounds ..).trans (settled_bounds _)
  | linkTimerExpiry p => exact (linkLost_bounds ..).trans (settled_bounds _)
  | highwayFrame mic trunk => exact frame_bounds ..
  | echoWindowEnd n => exact State.Bounds.ite (onUnits_settled_bounds (windowEnd_hushed ..).bounds)
  | convergenceTimerExpiry n => exact leadsBounded_convergenceTimerExpiry s n
  | analysisBlockEnd p => exact State.Bounds.ite ((blockEnd_bounds ..).trans (settled_bounds _))
  | hangoverExpiry p => exact leadsBounded_hangoverExpiry s p
  | highTimerExpiry p => exact alarmExpiry_bounds ..
  | lowTimerExpiry p => exact alarmExpiry_bounds ..
  | connectTimerExpiry n => exact onUnits_settled_bounds (connectExpiry_bounds ..)
  | parkAlarmExpiry n => exact onUnits_settled_bounds (parkAlarm_hushed ..).bounds
  | announcementExpiry k => exact (announceExpiry_bounds ..).trans (settled_bounds _)
  | itemEnd c => exact onUnits_settled_bounds (itemEnd_bounds ..)
  | refillComplete => exact leadsBounded_refillComplete s
  | resumeHoldExpiry => exact leadsBounded_resumeHoldExpiry s
  | eraseSuspendEffect => exact leadsBounded_eraseSuspendEffect s
  | pageProgramComplete => exact leadsBounded_pageProgramComplete s
  | headerProgramComplete => exact leadsBounded_headerProgramComplete s
  | programTimeout => exact leadsBounded_programTimeout s
  | eraseComplete => exact leadsBounded_eraseComplete s
  | eraseTimeout => exact leadsBounded_eraseTimeout s
  | quietWindowExpiry => exact State.Bounds.ite (state_onMedia_bounds id)
  | flashDeviceReady => exact State.Bounds.ite (state_onMedia_bounds id)
  | scanReadComplete => exact leadsBounded_scanReadComplete s
  | blankCheckComplete => exact leadsBounded_blankCheckComplete s

theorem step_leadsBounded : LeadsBounded s (step s) := by
  unfold step
  split
  · exact .refl
  next c rest _ =>
    have hrest : s.Bounds { s with pending := rest } := .of_eq rfl rfl
    have hexec := exec_leadsBounded { s with pending := rest } c
    generalize exec c { s with pending := rest } = o at hexec
    cases o with
    | next t => exact hrest.trans hexec
    | fault f => exact trivial
    | refused r => exact trivial

theorem bounds_of_step {s t : State} (h : step s = .next t) : s.Bounds t := by
  have hs := step_leadsBounded s
  rw [h] at hs
  exact hs

end

/-- Settles O8: each command keeps the three bounds, the whisper states by what each stage of the scheduling of
prompts starts from and leaves. -/
theorem queuesStayBounded : Obligations.QueuesStayBounded := by
  unfold Obligations.QueuesStayBounded
  exact ⟨fun s t h ht => (bounds_of_step ht).units.notices h, fun s t h ht => (bounds_of_step ht).link h,
    fun s t h ht => (bounds_of_step ht).units.whisper h⟩

end Sys2Proof.Machine
end

section
/-! PROOFS. ACAN (O49). -/

namespace Sys2Proof.Machine

theorem ownAcan_counting {s : State} {k : SlotIx} {a : Counting} (h : look s.slots k = some a) :
    ownAcan [byte k] s = ({ s with slots := put s.slots k none }, .ok (le2 (msLeft a.left))) := by
  simp only [ownAcan, readSlot_byte, h]

theorem ownAcan_idle {s : State} {k : SlotIx} (h : look s.slots k = none) :
    ownAcan [byte k] s = (s, .refuse .late) := by
  simp only [ownAcan, readSlot_byte, h]

theorem ownAcan_beyond (s : State) {b : Byte} (h : 4 ≤ b.toNat) : ownAcan [b] s = (s, .refuse .badarg) := by
  simp only [ownAcan, readIx, dif_neg (Nat.not_lt.mpr h)]

/-- Settles O49: the reply follows the one slot that the payload names. -/
theorem acanCancelsSlot : Obligations.AcanCancelsSlot := by
  unfold Obligations.AcanCancelsSlot
  intro s tag k hs
  refine ⟨fun a ha => ?_, fun b hb => ?_, fun hk => ?_⟩ <;> refine congrArg Host.Outcome.next ?_
  · exact request_replied (t := { s with slots := put s.slots k none }) hs (by simp) (by rfl)
      (ownAcan_counting (by exact ha)) rfl hs.2
  · exact request_replied hs (by simp) (by rfl) (ownAcan_beyond _ hb) rfl hs.2
  · exact request_replied hs (by simp) (by rfl) (ownAcan_idle (by exact hk)) rfl hs.2

end Sys2Proof.Machine
end

section
/-! PROOFS. CDET (O47). -/

namespace Sys2Proof.Machine

theorem pairOf_none {u : Units} {p : PosIx} (h : ∀ x ∈ u.pairs, x.supervisor ≠ p ∧ x.agent ≠ p) :
    u.pairOf p = none :=
  List.find?_eq_none.mpr fun x hx => by simp [h x hx]

theorem ownCdet_none {u : Units} {p : PosIx} (h : u.pairOf p = none) :
    ownCdet [byte p] u = (u, .refuse .notfound) := by
  simp only [ownCdet, readPos_byte, h]

theorem ownCdet_some {u : Units} {p : PosIx} {x : Pair} (h : u.pairOf p = some x) :
    ownCdet [byte p] u =
      (u.endPair x .detached, .ok [byte (if x.supervisor = p then x.agent else x.supervisor)]) := by
  simp only [ownCdet, readPos_byte, h]

/-- CDET of a pair, once what it brings about has settled. -/
theorem exec_cdet {s : State} {tag : BitVec 16} {p : PosIx} {x : Pair} (hs : s.takes)
    (h : s.toUnits.pairOf p = some x) :
    exec (.cdet tag [byte p]) s =
      .next { s with
        toUnits := (s.toUnits.endPair x .detached).settle
        link := s.link.answered tag (ascii4 'C' 'D' 'E' 'T') [byte p]
          (.ok [byte (if x.supervisor = p then x.agent else x.supervisor)]) } :=
  congrArg Host.Outcome.next (request_units hs (by simp) (by rfl) (ownCdet_some h))

section

variable (u : Units) (x : Pair) (reason : EndReason)

theorem endPair_pos :
    (u.endPair x reason).pos =
      upd (upd u.pos x.agent fun y => { y with coach := none }) x.supervisor Position.uncoached := by
  obtain ⟨v, hv, hu⟩ := endPair_eq u x reason
  have hpos : v.pos = u.pos := by
    rcases hu with rfl | ⟨rfl, -⟩
    · rfl
    · exact (dropCoach_keeps ..).pos
  rw [hv, Units.raise_pos, Units.unpaired, Units.onPos_pos, Units.onPos_pos, hpos]

theorem endPair_pairs : (u.endPair x reason).pairs = u.pairs.filter fun y => y ≠ x := by
  obtain ⟨v, hv, hu⟩ := endPair_eq u x reason
  have hpairs : v.pairs = u.pairs := by
    rcases hu with rfl | ⟨rfl, -⟩
    · rfl
    · exact (dropCoach_keeps ..).pairs
  rw [hv, Units.raise_pairs, Units.unpaired, Units.onPos_pairs, Units.onPos_pairs, hpairs]

/-- A pending pair ends with no prompt moved. -/
theorem endPair_pending (h : x.active = false) :
    u.endPair x reason = (u.unpaired x).raise .coachEnded (.position x.agent)
      (detail2 (byte x.supervisor) reason.code) (some x.agent) := by
  obtain ⟨v, hv, rfl | ⟨-, ha, -⟩⟩ := endPair_eq u x reason
  · exact hv
  · rw [h] at ha
    cases ha

theorem endPair_media : ∃ v : Units, u.toMedia.Keeps v.toMedia ∧
    (u.endPair x reason).toMedia = v.toMedia.raise .coachEnded (.position x.agent)
      (detail2 (byte x.supervisor) reason.code) (some x.agent) := by
  obtain ⟨v, hv, hu⟩ := endPair_eq u x reason
  refine ⟨v, ?_, by rw [hv]; rfl⟩
  rcases hu with rfl | ⟨rfl, -⟩
  · exact .rfl'
  · exact (dropCoach_keeps ..).media

theorem endPair_keepsMedia : u.toMedia.Keeps (u.endPair x reason).toMedia := by
  obtain ⟨v, hv, he⟩ := endPair_media u x reason
  rw [he]
  exact hv.trans (raise_keeps ..)

/-- COACH_ENDED is the last record where it is notified (R131). -/
theorem endPair_last (h : (u.router.route .coachEnded).notify = true) :
    (u.endPair x reason).router.overflow = true ∨
      (u.endPair x reason).router.notices.getLast? =
        some
          { kind := .coachEnded, subject := .position x.agent, stamp := u.router.stamp
            detail := detail2 (byte x.supervisor) reason.code } := by
  obtain ⟨v, hv, he⟩ := endPair_media u x reason
  have hlast := record_last (r := v.router) (k := .coachEnded) (.position x.agent)
    (detail2 (byte x.supervisor) reason.code) (by rw [route_of_keeps hv]; exact h)
  rw [he, ← hv.stamp]
  exact hlast

/-- The coach of an active pair has left the agent's playing place (R131). -/
theorem endPair_not_coach (ha : x.active = true) (hp : (look u.pos x.agent).state ≠ .absent) :
    (look (u.endPair x reason).whisper x.agent).playing ≠ .coach := by
  have h : u.endPair x reason = ((u.dropCoach x.agent).unpaired x).raise .coachEnded (.position x.agent)
      (detail2 (byte x.supervisor) reason.code) (some x.agent) := by
    unfold Units.endPair
    simp only [ha, hp, ne_eq, not_false_eq_true, decide_true, Bool.and_self, if_true]
    rfl
  rw [h]
  exact dropCoach_not_coach u x.agent

end

/-- Settles O47: the pair that CDET finds ends, and nothing that its event posts touches pairs or positions. -/
theorem cdetEndsPair : Obligations.CdetEndsPair := by
  unfold Obligations.CdetEndsPair
  intro s tag p hs
  refine ⟨fun h => congrArg Host.Outcome.next
    (request_refused hs (by simp) (by rfl) (ownCdet_none (pairOf_none h))), fun x hx => ?_⟩
  have hpair : s.toUnits.pairOf p = some x := hx
  obtain ⟨hpos, hpairs, -⟩ := settle_keeps (s.toUnits.endPair x .detached)
  have hsettle (hr : s.noCueRoutes) : (s.toUnits.endPair x .detached).settle = s.toUnits.endPair x .detached :=
    settle_of_keeps hs.2 hr (endPair_keepsMedia ..)
  refine ⟨_, exec_cdet hs hpair, rfl, hpairs.trans (endPair_pairs ..), hpos.trans (endPair_pos ..), ?_, ?_, ?_⟩
  · intro ha hp hc
    exact endPair_not_coach s.toUnits x .detached ha hp
      (((settle_prompts (s.toUnits.endPair x .detached)).whisper x.agent).coach hc)
  · intro hr hn
    dsimp only
    rw [hsettle hr]
    exact endPair_last s.toUnits x .detached hn
  · intro ha hr
    dsimp only
    rw [hsettle hr, endPair_pending _ _ _ ha]
    simp only [Units.raise, Units.onMedia, State.replied]
    rw [raise_of_noCue (by exact hr)]
    rfl

end Sys2Proof.Machine
end

section
/-! PROOFS. CATT (O46). -/

namespace Sys2Proof.Machine

/-- A pair attached: both links, and the supervisor COACHING (R127). -/
def Units.attached (u : Units) (x : Pair) : Units :=
  ({ u with pairs := u.pairs ++ [x] }.setLinks x).onPos x.supervisor fun p => { p with state := .coaching }

/-- A pending pair of the agent replaced, if there is one (R127). -/
def Units.replacing (u : Units) : Option Pair → Units
  | some x => u.endPair x .replaced
  | none => u

/-- The positions with the two links of a pair, and its supervisor COACHING. -/
def Units.linked (u : Units) (x : Pair) : Vector Position 48 :=
  put
    (put u.pos x.supervisor
      { look u.pos x.supervisor with
        state := .coaching, coach := some { partner := x.agent, side := .supervisor, active := x.active } })
    x.agent
    { look u.pos x.agent with coach := some { partner := x.supervisor, side := .agent, active := x.active } }

section

variable {u : Units} {x : Pair}

theorem attached_eq (h : x.supervisor ≠ x.agent) :
    u.attached x = { u with pairs := u.pairs ++ [x], pos := u.linked x } := by
  have hpos : (u.attached x).pos = u.linked x := look_ext fun q => by
    simp only [Units.attached, Units.setLinks, Units.onPos_pos, Units.linked, look_upd, look_put]
    by_cases hs : x.supervisor = q
    · subst hs
      simp [h.symm]
    · simp only [hs, if_false, h]
  exact congrArg (fun v => { u with pairs := u.pairs ++ [x], pos := v }) hpos

/-- The one pair of an agent marked active: no other pair is, and its links say so (R128). -/
theorem attached_marked (h : x.supervisor ≠ x.agent) (hno : ∀ y ∈ u.pairs, y.agent ≠ x.agent) :
    (u.attached x).markPair x true =
      { u with
        pairs := u.pairs ++ [{ x with active := true }]
        pos := u.linked { x with active := true } } := by
  have hpairs : (u.pairs ++ [x]).map (fun y => if y = x then { x with active := true } else y) =
      u.pairs ++ [{ x with active := true }] := by
    rw [List.map_append, List.map_singleton, if_pos rfl]
    refine congrArg (· ++ _) ((List.map_congr_left fun y hy => if_neg fun he => ?_).trans (List.map_id _))
    exact hno y hy (by rw [he])
  have hpos : ((u.attached x).setLinks { x with active := true }).pos = u.linked { x with active := true } :=
    look_ext fun q => by
      rw [attached_eq h]
      simp only [Units.setLinks, Units.onPos_pos, Units.linked, look_upd, look_put]
      by_cases hs : x.supervisor = q
      · subst hs
        simp [h.symm]
      · by_cases ha : x.agent = q
        · subst ha
          simp [h]
        · simp only [hs, ha, if_false]
  rw [attached_eq h] at hpos ⊢
  unfold Units.markPair
  dsimp only at hpos ⊢
  rw [hpairs]
  exact congrArg (fun v => { u with pairs := u.pairs ++ [{ x with active := true }], pos := v }) hpos

end

/-! ## CATT -/

section

variable {u : Units} {sp a : PosIx} {mode : CoachMode}

/-- The pair that CATT makes, still pending. -/
def newPair (sp a : PosIx) (mode : CoachMode) : Pair := { supervisor := sp, agent := a, mode := mode, active := false }

theorem ownCatt_state (hne : sp ≠ a)
    (h : (look u.pos sp).role ≠ .supervisor ∨ (look u.pos sp).state ≠ .idle ∨ (look u.pos sp).coach ≠ none ∨
      (look u.pos a).state = .absent ∨ (look u.pos a).state = .coaching) :
    ownCatt [byte sp, byte a, mode.code] u = (u, .refuse .state) := by
  simp only [ownCatt, readPos_byte, readCoachMode_code, if_neg hne]
  by_cases hsup : (look u.pos sp).role ≠ .supervisor ∨ (look u.pos sp).state ≠ .idle ∨
      (look u.pos sp).coach.isSome = true
  · exact if_pos hsup
  · rw [if_neg hsup]
    simp only [Option.isSome_iff_ne_none, not_or] at hsup
    obtain ⟨hrole, hidle, hcoach⟩ := hsup
    rcases h with h | h | h | h
    · exact absurd h hrole
    · exact absurd h hidle
    · exact absurd h hcoach
    · exact if_pos h

/-- CATT of an IDLE supervisor without a link and an agent that can be coached: BUSY where the agent's pair is
active, and otherwise a new pair (R127). -/
theorem ownCatt_eq (hne : sp ≠ a) (hrole : (look u.pos sp).role = .supervisor)
    (hidle : (look u.pos sp).state = .idle) (hcoach : (look u.pos sp).coach = none) (habsent : (look u.pos a).state ≠ .absent)
    (hcoaching : (look u.pos a).state ≠ .coaching) :
    ownCatt [byte sp, byte a, mode.code] u =
      if ((u.pairOfAgent a).map Pair.active).getD false = true then (u, .refuse .busy)
      else
        let v := (u.replacing (u.pairOfAgent a)).attached (newPair sp a mode)
        (if (look v.pos a).state = .engaged then v.activatePair (newPair sp a mode) else v,
          .ok [flagByte (decide ((look v.pos a).state = .engaged)),
            ixByte ((u.pairOfAgent a).map Pair.supervisor)]) := by
  simp only [ownCatt, readPos_byte, readCoachMode_code, hne, hrole, hidle, hcoach, habsent, hcoaching, ne_eq,
    not_true_eq_false, Option.isSome_none, Bool.false_eq_true, or_self, if_false]
  cases u.pairOfAgent a with
  | none => simp only [decide_eq_true_eq]; rfl
  | some x => simp only [decide_eq_true_eq]; rfl

theorem attached_agent_state (hne : sp ≠ a) :
    (look (u.attached (newPair sp a mode)).pos a).state = (look u.pos a).state := by
  rw [attached_eq (x := newPair sp a mode) hne]
  simp [Units.linked, newPair]

theorem pairOfAgent_none (h : ∀ x ∈ u.pairs, x.agent ≠ a) : u.pairOfAgent a = none :=
  List.find?_eq_none.mpr fun x hx => by simpa using h x hx

theorem ownCatt_fresh (hne : sp ≠ a) (hrole : (look u.pos sp).role = .supervisor)
    (hidle : (look u.pos sp).state = .idle) (hcoach : (look u.pos sp).coach = none) (habsent : (look u.pos a).state ≠ .absent)
    (hcoaching : (look u.pos a).state ≠ .coaching) (hno : ∀ x ∈ u.pairs, x.agent ≠ a) :
    ownCatt [byte sp, byte a, mode.code] u =
      (if (look u.pos a).state = .engaged then (u.attached (newPair sp a mode)).activatePair (newPair sp a mode)
        else u.attached (newPair sp a mode),
        .ok [flagByte (decide ((look u.pos a).state = .engaged)), 0xFF]) := by
  rw [ownCatt_eq hne hrole hidle hcoach habsent hcoaching, pairOfAgent_none hno, if_neg (by simp)]
  simp only [Units.replacing, attached_agent_state hne]
  rfl

/-- An agent that was not ENGAGED is not after the end of its pair. -/
theorem endPair_not_engaged {x : Pair} {reason : EndReason} (h : (look u.pos a).state ≠ .engaged) :
    (look (u.endPair x reason).pos a).state ≠ .engaged := by
  have hagent : (look (upd u.pos x.agent fun y => { y with coach := none }) a).state = (look u.pos a).state := by
    rw [look_upd]
    split
    next hx => rw [hx]
    next => rfl
  rw [endPair_pos, look_upd]
  split
  next hx =>
    subst hx
    rw [← hagent] at h
    simp only [Position.uncoached]
    split
    · nofun
    · exact h
  · rw [hagent]
    exact h

end

/-! ## Activation -/

section

variable {u : Units} {x : Pair}

/-- Nothing but a prompt is pushed by a coach (R117). -/
theorem pushPlaying_of_no_prompt {p : PosIx} {byCoach : Bool}
    (h : (look u.whisper p).playing = .none ∨ (look u.whisper p).playing = .coach) :
    u.pushPlaying p byCoach = u := by
  unfold Units.pushPlaying
  rcases h with h | h <;> rw [h]

/-- A RESUME prompt pushed by a coach keeps its cursor, paused (R117). -/
theorem pushPlaying_of_resume {p : PosIx} {e : Entry} (h : (look u.whisper p).playing = .prompt e)
    (hr : e.resume = .resume) :
    u.pushPlaying p true =
      (u.onMedia fun m => m.pauseCursor (posCursor p)).onWhisper p fun w =>
        { w with playing := .none, stack := { e with holdsCursor := true } :: w.stack } := by
  unfold Units.pushPlaying
  rw [h]
  simp only [hr]

theorem pauseCursor_eq (m : Media) (c : CurIx) :
    m.pauseCursor c =
      m.onCur c fun cur => { cur with state := if cur.state = .stopped then .stopped else .paused } := by
  unfold Media.pauseCursor
  refine congrArg (m.onCur c) (funext fun cur => ?_)
  obtain ⟨state⟩ := cur
  cases state <;> rfl

end

/-- Settles O46: the new pair is the agent's only one, so that marking and linking it touches no other, and no
posting arises without a cue route. -/
theorem cattMakesPair : Obligations.CattMakesPair := by
  unfold Obligations.CattMakesPair
  intro s tag sp a mode payload made links hs hne hpl hmade hlinks
  subst hpl hmade hlinks
  have hport : portAnswer { tag := tag, name := ascii4 'C' 'A' 'T' 'T', payload := [byte sp, byte a, mode.code]
                            reply := none } = none := by rfl
  refine ⟨fun h => congrArg Host.Outcome.next (request_refused hs (by simp) hport (ownCatt_state hne h)), ?_⟩
  intro hrole hidle hcoach habsent hcoaching
  have hown := ownCatt_eq (u := s.toUnits) (mode := mode) hne hrole hidle hcoach habsent hcoaching
  refine ⟨fun x hx ha => ?_, fun x hx ha he => ?_, fun hno => ?_⟩
  · have hold : s.toUnits.pairOfAgent a = some x := hx
    rw [hold, if_pos (by simp [ha])] at hown
    exact congrArg Host.Outcome.next (request_refused hs (by simp) hport hown)
  · have hold : s.toUnits.pairOfAgent a = some x := hx
    have hstate : (look ((s.toUnits.endPair x .replaced).attached (newPair sp a mode)).pos a).state ≠ .engaged := by
      rw [attached_agent_state hne]
      exact endPair_not_engaged he
    rw [hold, if_neg (by simp [ha])] at hown
    dsimp only [Units.replacing] at hown
    rw [if_neg hstate, decide_eq_false hstate] at hown
    refine ⟨_, congrArg Host.Outcome.next (request_units hs (by simp) hport hown), rfl, ?_⟩
    refine (settle_keeps _).2.1.trans ?_
    rw [attached_eq (x := newPair sp a mode) hne, endPair_pairs]
    rfl
  · have hfresh := ownCatt_fresh (u := s.toUnits) (mode := mode) hne hrole hidle hcoach habsent hcoaching hno
    refine ⟨fun he => ?_, fun he hr => ?_⟩
    · simp only [if_neg he, decide_eq_false he] at hfresh
      refine congrArg Host.Outcome.next ((request_units hs (by simp) hport hfresh).trans ?_)
      rw [attached_eq (x := newPair sp a mode) hne, Units.settle_of_none _ (by exact hs.2)]
      rfl
    · simp only [if_pos he, decide_eq_true he] at hfresh
      have hexec := request_units hs (by simp) hport hfresh
      have hmark := attached_marked (u := s.toUnits) (x := newPair sp a mode) hne hno
      rw [activatePair_eq, hmark] at hexec
      refine ⟨fun hp => ?_, fun e hp hres => ?_⟩
      · refine congrArg Host.Outcome.next (hexec.trans ?_)
        rw [pushPlaying_of_no_prompt (p := (newPair sp a mode).agent) (by exact hp)]
        simp only [Units.raise, Units.onMedia]
        rw [raise_of_noCue (by exact hr), Units.settle_of_none _ (by exact hs.2)]
        rfl
      · refine congrArg Host.Outcome.next (hexec.trans ?_)
        rw [pushPlaying_of_resume (p := (newPair sp a mode).agent) (by exact hp) hres]
        simp only [Units.raise, Units.onMedia, pauseCursor_eq]
        rw [raise_of_noCue (by exact hr), Units.settle_of_none _ (by exact hs.2)]
        simp only [Units.onWhisper, upd_upd]
        rfl

end Sys2Proof.Machine
end

section
/-! PROOFS. A routed or announcement posting made: dropped, waiting or playing (R121). -/

namespace Sys2Proof.Machine

/-- An entry put behind the last of its level stands in service order (R115). -/
theorem enqueue_eq (q : List Entry) (e : Entry) : enqueue q e = serviceOrder q e := by
  unfold enqueue queueAhead serviceOrder
  cases e.level with
  | urgent =>
    have hsplit := List.takeWhile_append_dropWhile (p := fun x : Entry => decide (x.level = .urgent)) (l := q)
    generalize List.takeWhile _ q = front at hsplit ⊢
    generalize List.dropWhile _ q = back at hsplit ⊢
    subst hsplit
    simp
  | routine => simp

theorem mem_serviceOrder {q : List Entry} {e x : Entry} (h : x ∈ serviceOrder q e) : x = e ∨ x ∈ q := by
  rw [← enqueue_eq, enqueue, List.mem_append, List.mem_cons] at h
  rcases h with h | h | h
  · exact .inr (List.mem_of_mem_take h)
  · exact .inl h
  · exact .inr (List.mem_of_mem_drop h)

section

variable {u : Units} {p : PosIx}

/-- An entry that leaves the playing one in its place waits in service order (R115, R116). -/
theorem place_waits {e : Entry} (h : (look u.whisper p).keepsPlaying (look u.pos p).nesting e.level) :
    u.place p e = u.onWhisper p fun w => { w with queue := serviceOrder w.queue e } := by
  have hput : (u.onWhisper p fun w => { w with queue := enqueue w.queue e }) =
      u.onWhisper p fun w => { w with queue := serviceOrder w.queue e } := by
    simp only [enqueue_eq]
  unfold Units.place
  rw [hput]
  have hw : look (u.onWhisper p fun w => { w with queue := serviceOrder w.queue e }).whisper p =
      { look u.whisper p with queue := serviceOrder (look u.whisper p).queue e } := by
    rw [Units.onWhisper_whisper, look_upd_self]
  unfold Units.schedule
  rcases h with hc | ⟨f, hf, hl⟩
  · rw [hw]
    simp only [hc]
  · have hnone : (u.onWhisper p fun w => { w with queue := serviceOrder w.queue e }).preemptor p f.level = none := by
      refine preemptor_none (hl.imp id (.imp id fun ⟨hr, hq⟩ x hx => ?_))
      rw [hw] at hx
      rcases mem_serviceOrder hx with rfl | hx
      · exact hr
      · exact hq x hx
    rw [hw]
    simp only [hf, hnone, Option.isSome_none, Bool.false_eq_true, if_false]

/-- A position cursor started on a list whose first item it can enter has not completed (R92). -/
theorem startCursor_of_admits {m : Media} {legs : Vector Leg 64} {c : CurIx} {q : CueIx}
    (hi : (look m.cues q).items ≠ []) (ha : ∀ it, (look m.cues q).items[0]? = some it → m.store.admits it) :
    (m.startCursor legs c q none).2 = false := by
  by_cases hs : (look m.cursors c).state = .stopped
  · obtain ⟨it, rest, hitems⟩ := List.exists_cons_of_ne_nil hi
    have h0 : (look m.cues q).items[0]? = some it := by rw [hitems]; rfl
    exact (startCursor_stands hs rfl h0 (ha it h0)).1
  · rw [startCursor_of_started _ _ hs]

/-- The first waiting entry plays where nothing does and its list can be entered (R116). -/
theorem place_plays {e : Entry} (hp : (look u.whisper p).playing = .none) (hq : (look u.whisper p).queue = [])
    (hsaved : e.saved = none) (hheld : e.holdsCursor = false) (hi : (look u.cues e.cue).items ≠ [])
    (ha : ∀ it, (look u.cues e.cue).items[0]? = some it → u.store.admits it) :
    look (u.place p e).whisper p = { look u.whisper p with playing := .prompt e } := by
  let v := (u.onWhisper p fun w => { w with queue := enqueue w.queue e }).onWhisper p fun w => { w with queue := [] }
  have hw : look (u.onWhisper p fun w => { w with queue := enqueue w.queue e }).whisper p =
      { look u.whisper p with queue := [e] } := by
    rw [Units.onWhisper_whisper, look_upd_self, hq, enqueue_nil]
  have hdone : (v.startEntry p e).2 = false := by
    show (u.toMedia.startCursor u.legs (posCursor p) e.cue e.saved).2 = false
    rw [hsaved]
    exact startCursor_of_admits hi ha
  have hplace : u.place p e = (v.startEntry p e).1 := by
    unfold Units.place Units.schedule Units.startHead
    simp only [hw, hp]
    exact if_neg (by rw [hdone]; exact Bool.false_ne_true)
  have hsame : ({ e with saved := none, holdsCursor := false } : Entry) = e := by
    rw [← hsaved, ← hheld]
  have hempty : look v.whisper p = look u.whisper p := by
    simp only [v, Units.onWhisper_whisper, look_upd_self]
    rw [← hq]
  rw [hplace]
  show look (upd v.whisper p fun w =>
    { w with playing := .prompt { e with saved := none, holdsCursor := false } }) p = _
  rw [look_upd_self, hsame, hempty]

/-! ## Postings -/

variable {q : CueIx} {lvl : Level} {o : Origin}

theorem dropReason_eq (u : Units) (p : PosIx) (q : CueIx) :
    u.dropReason p q =
      if (look u.pos p).state = .absent ∨ (look u.pos p).state = .loopback then some .state
      else if (look u.cues q).items = [] then some .empty
      else if 8 ≤ (look u.whisper p).queue.length then some .full else none := by
  simp only [Units.dropReason, List.isEmpty_iff]
  rfl

theorem post_of_reason {r : DropReason} (h : u.dropReason p q = some r) :
    u.post p q lvl o = (u.raise .whisperDropped (.position p) (droppedDetail q o r) none, false) := by
  unfold Units.post
  rw [h]

theorem post_of_none (h : u.dropReason p q = none) :
    u.post p q lvl o = (u.place p (Entry.new q lvl o .restart), true) := by
  unfold Units.post
  rw [h]

end

/-- A prompt dropped leaves its record and posts nothing: no route is for its position (R166). -/
theorem raise_untargeted (u : Units) (k : EventKind) (x : Subject) (d : BitVec 16) :
    u.raise k x d none = { u with router := u.router.record k x d } := by
  have hpost : u.router.posting k none = [] := by
    unfold Router.posting
    cases (u.router.route k).cue <;> rfl
  simp only [Units.raise, Units.onMedia, Media.raise, hpost, List.append_nil]

theorem clearPostings_eq {u : Units} (h : u.postings = []) : ({ u with postings := [] } : Units) = u := by
  rw [← h]

theorem droppedDetail_route (q : CueIx) (r : DropReason) :
    droppedDetail q .route r = detail2 (byte q) (1 + 16 * r.code) := by
  cases r <;> rfl

/-- The one routed posting of a command made: what it does is all that settling does (R121, R165). -/
theorem settled_routedTo {s : State} {u : Units} {p : PosIx} {q : CueIx} {level : Level} (hs : s.postings = [])
    (hu : u = { s.toUnits with postings := [{ pos := p, cue := q, level := level }] }) :
    s.routedTo { s with toUnits := u.settle } p q level := by
  have hsettle : u.settle = { (s.toUnits.post p q level .route).1 with postings := [] } := by
    have hone : ({ u with postings := [] } : Units) = s.toUnits := by
      rw [hu]
      exact clearPostings_eq hs
    have hpost : u.postings = [{ pos := p, cue := q, level := level }] := by rw [hu]
    rw [Units.settle, hone, hpost, List.foldl_cons, List.foldl_nil, Units.postRouted]
  have hreason := dropReason_eq s.toUnits p q
  have hdrop {r : DropReason} {b : Byte} (hr : s.toUnits.dropReason p q = some r) (hb : r.code = b) :
      ({ s with toUnits := u.settle } : State) =
        { s with
          router := s.router.record .whisperDropped (.position p) (detail2 (byte q) (1 + 16 * b)) } := by
    subst hb
    rw [hsettle, post_of_reason hr, raise_untargeted, droppedDetail_route, clearPostings_eq (by exact hs)]
  unfold State.routedTo
  dsimp only
  refine ⟨fun haway => ?_, fun haway hitems => ?_, fun haway hitems => ⟨fun hfull => ?_, fun hroom => ?_, ?_⟩⟩
  · rw [if_pos haway] at hreason
    exact hdrop hreason rfl
  · rw [if_neg haway, if_pos hitems] at hreason
    exact hdrop hreason rfl
  · rw [if_neg haway, if_neg hitems, if_pos hfull] at hreason
    exact hdrop hreason rfl
  · intro hkeeps
    rw [if_neg haway, if_neg hitems, if_neg (Nat.not_le.mpr hroom)] at hreason
    rw [hsettle, post_of_none hreason, place_waits (e := Entry.new q level .route .restart) (by exact hkeeps),
      clearPostings_eq (by exact hs)]
    rfl
  · intro hp hq henter
    have hroom : ¬ 8 ≤ (look s.whisper p).queue.length := by rw [hq]; exact Nat.not_succ_le_zero 7
    rw [if_neg haway, if_neg hitems, if_neg hroom] at hreason
    rw [hsettle, post_of_none hreason]
    exact place_plays (e := Entry.new q level .route .restart) hp hq rfl rfl hitems
      fun it hit => admits_of_canEnter henter hit

end Sys2Proof.Machine
end

section
/-! PROOFS. ROUT, NMOD, NFET and the events that post a prompt (O59). -/

namespace Sys2Proof.Machine

/-! ## The router's requests -/

/-- A request that the router takes at once. -/
theorem request_router {s : State} {own : List Byte → Router → Router × Reply} {name : List Byte}
    {tag : BitVec 16} {payload : List Byte} {r : Router} {rep : Reply} (h : s.takes) (hl : payload.length ≤ 240)
    (hp : portAnswer { tag := tag, name := name, payload := payload, reply := none } = none)
    (ho : own payload s.router = (r, rep)) :
    s.request (onRouter own) name tag payload = { s with router := r }.replied tag name payload rep :=
  request_replied (t := { s with router := r }) h hl hp
    (by
      show onRouter own payload _ = _
      unfold onRouter
      dsimp only
      rw [ho]
      rfl) rfl h.2

/-- A cue route as ROUT spells it, any byte standing for the level of none (R174). -/
def routeFields (z : Byte) (route : Option (CueIx × Level)) : List Byte :=
  route.elim [0xFF, z] fun r => [byte r.1, r.2.code]

/-- The cue route that those two fields read back as. -/
theorem readRoute_fields (z : Byte) (route : Option (CueIx × Level)) :
    ∃ b c, routeFields z route = [b, c] ∧ readRoute b c = some route := by
  cases route with
  | none => exact ⟨0xFF, z, rfl, rfl⟩
  | some r =>
    refine ⟨byte r.1, r.2.code, rfl, ?_⟩
    unfold readRoute
    rw [readIxNone_byte (by decide)]
    simp only [readLevel_code, Option.map_some]

theorem tag_eq (k : EventKind) : ∃ a b c d, k.tag = [a, b, c, d] ∧ kindOfTag [a, b, c, d] = some k := by
  obtain ⟨a, b, c, d, h⟩ : ∃ a b c d, k.tag = [a, b, c, d] := by
    cases k <;> exact ⟨_, _, _, _, rfl⟩
  exact ⟨a, b, c, d, h, h ▸ kindOfTag_tag k⟩

theorem route_bytes (e : Route) :
    e.bytes = flagByte e.notify :: e.cue.elim [0xFF, 0xFF] fun r => [byte r.1, r.2.code] := by
  unfold Route.bytes
  cases e.cue <;> rfl

/-- ROUT READ (R174). -/
theorem ownRout_read (r : Router) (k : EventKind) (x y z : Byte) :
    ownRout (k.tag ++ [0, x, y, z]) r = (r, .ok (r.route k).bytes) := by
  obtain ⟨a, b, c, d, ht, hk⟩ := tag_eq k
  rw [ht]
  simp only [ownRout, List.cons_append, List.nil_append, hk, if_true]

/-- ROUT SET (R166, R174). -/
theorem ownRout_set (r : Router) (k : EventKind) (notify : Bool) (z : Byte) (route : Option (CueIx × Level)) :
    ownRout (k.tag ++ [1, flagByte notify] ++ routeFields z route) r =
      if route.isSome && !k.routable then (r, .refuse .badarg)
      else
        ({ r with routes := put r.routes k.index { notify := notify, cue := route } },
          .ok (Route.bytes { notify := notify, cue := route })) := by
  obtain ⟨a, b, c, d, ht, hk⟩ := tag_eq k
  obtain ⟨b', c', hf, hr⟩ := readRoute_fields z route
  rw [ht, hf]
  simp only [ownRout, List.cons_append, List.nil_append, hk, show (1 : Byte) ≠ 0 by decide, if_false, if_true,
    readFlag_flagByte, hr]

/-- The kinds that carry no cue route (R166). -/
theorem not_routable_iff (k : EventKind) :
    k.routable = false ↔
      k ∈ [EventKind.started, .whisperDone, .whisperDropped, .cursorUnderrun, .clipMissing, .announceFired, .clipReady,
        .clipGone, .storeFault, .storeReady, .linkFault] := by
  cases k <;> decide

theorem ownNmod_code (r : Router) (mode : Delivery) :
    ownNmod [mode.code] r = ({ r with mode := mode }, .ok [mode.code, byte r.notices.length]) := by
  simp only [ownNmod, readDelivery_code]

/-- NFET by how many records it asks for (R170). -/
theorem ownNfet_byte (r : Router) {n : Nat} (h : n ≤ 255) :
    ownNfet [byte n] r =
      if n < 1 ∨ 8 < n then (r, .refuse .badarg)
      else if r.mode = .push then (r, .refuse .state)
      else
        ({ r with notices := r.notices.drop n },
          .ok ([byte (r.notices.take n).length, flagByte r.overflow, byte (r.notices.drop n).length] ++
            ((r.notices.take n).map Notice.bytes).flatten)) := by
  simp only [ownNfet, toNat_byte (x := n) (by omega)]
  by_cases hn : n < 1 ∨ 8 < n
  · rw [if_pos hn, readRange, if_neg (by omega)]
  · rw [if_neg hn, readRange_of_mem (by omega) (by omega)]
    cases r.mode <;> rfl

section

variable {s : State} (tag : BitVec 16)

theorem rout_length (k : EventKind) {rest : List Byte} (h : rest.length = 4) : (k.tag ++ rest).length ≤ 240 := by
  obtain ⟨a, b, c, d, ht, -⟩ := tag_eq k
  simp [ht, h]

theorem rout_port (k : EventKind) {rest : List Byte} (h : rest.length = 4) :
    portAnswer { tag := tag, name := ascii4 'R' 'O' 'U' 'T', payload := k.tag ++ rest, reply := none } = none := by
  obtain ⟨a, b, c, d, ht, -⟩ := tag_eq k
  have hlen : (k.tag ++ rest).length = 8 := by simp [ht, h]
  have hname : requestNames.find? (fun x => x.1 = ascii4 'R' 'O' 'U' 'T') = some (ascii4 'R' 'O' 'U' 'T', some 8) := by
    rfl
  unfold portAnswer
  dsimp only
  rw [hname]
  exact if_pos hlen

theorem rout_set (k : EventKind) (notify : Bool) (z : Byte) (route : Option (CueIx × Level)) (hs : s.takes) :
    s.request (onRouter ownRout) (ascii4 'R' 'O' 'U' 'T') tag (k.tag ++ [1, flagByte notify] ++ routeFields z route) =
      if route ≠ none ∧ k ∈ [EventKind.started, .whisperDone, .whisperDropped, .cursorUnderrun, .clipMissing,
          .announceFired, .clipReady, .clipGone, .storeFault, .storeReady, .linkFault] then
        s.replied tag (ascii4 'R' 'O' 'U' 'T') (k.tag ++ [1, flagByte notify] ++ routeFields z route)
          (.refuse .badarg)
      else
        { s with
          router := { s.router with
            routes := put s.router.routes k.index { notify := notify, cue := route } } }.replied
          tag (ascii4 'R' 'O' 'U' 'T') (k.tag ++ [1, flagByte notify] ++ routeFields z route)
          (.ok (flagByte notify :: route.elim [0xFF, 0xFF] fun r => [byte r.1, r.2.code])) := by
  have hrest : ([1, flagByte notify] ++ routeFields z route).length = 4 := by cases route <;> rfl
  have hlen := rout_length k hrest
  have hport := rout_port tag k hrest
  have hown := ownRout_set s.router k notify z route
  rw [← List.append_assoc] at hlen hport
  by_cases h : route ≠ none ∧ k ∈ [EventKind.started, .whisperDone, .whisperDropped, .cursorUnderrun, .clipMissing,
      .announceFired, .clipReady, .clipGone, .storeFault, .storeReady, .linkFault]
  · rw [if_pos h]
    rw [if_pos (by simp [Option.isSome_iff_ne_none, h.1, (not_routable_iff k).mpr h.2])] at hown
    exact request_router hs hlen hport hown
  · have hnot : ¬ (route.isSome && !k.routable) = true := by
      simpa only [Bool.and_eq_true, Option.isSome_iff_ne_none, Bool.not_eq_true', not_routable_iff] using h
    rw [if_neg h]
    rw [if_neg hnot, route_bytes] at hown
    exact request_router hs hlen hport hown

theorem nfet_reply {n : Nat} (hs : s.takes) (hn : n ≤ 255) :
    s.request (onRouter ownNfet) (ascii4 'N' 'F' 'E' 'T') tag [byte n] =
      if n < 1 ∨ 8 < n then s.replied tag (ascii4 'N' 'F' 'E' 'T') [byte n] (.refuse .badarg)
      else if s.router.mode = .push then s.replied tag (ascii4 'N' 'F' 'E' 'T') [byte n] (.refuse .state)
      else
        { s with router := { s.router with notices := s.router.notices.drop n } }.replied
          tag (ascii4 'N' 'F' 'E' 'T') [byte n]
          (.ok ([byte (s.router.notices.take n).length, flagByte s.router.overflow,
              byte (s.router.notices.drop n).length] ++
            (s.router.notices.take n).flatMap fun x : Notice =>
              x.kind.tag ++ x.subject.bytes ++ le2 x.detail.toNat ++ le4 x.stamp.toNat)) := by
  have hown := ownNfet_byte s.router hn
  by_cases hr : n < 1 ∨ 8 < n
  · rw [if_pos hr] at hown ⊢
    exact request_router hs (by simp) (by rfl) hown
  · rw [if_neg hr] at hown ⊢
    by_cases hm : s.router.mode = .push
    · rw [if_pos hm] at hown ⊢
      exact request_router hs (by simp) (by rfl) hown
    · rw [if_neg hm] at hown ⊢
      have hbytes : Notice.bytes =
          fun x : Notice => x.kind.tag ++ x.subject.bytes ++ le2 x.detail.toNat ++ le4 x.stamp.toNat := by
        funext x
        simp only [Notice.bytes, Notice.payload, List.append_assoc]
      rw [hbytes, ← List.flatMap_def] at hown
      exact request_router hs (by simp) (by rfl) hown

end

/-! ## An event with the one cue route -/

/-- The posting of an event whose kind has a cue route, at the position it resolves to (R165, R166). -/
theorem raise_routed {u : Units} {k : EventKind} {q : CueIx} {level : Level} (x : Subject) (d : BitVec 16) (p : PosIx)
    (hu : u.postings = []) (hr : (u.router.route k).cue = some (q, level)) :
    u.raise k x d (some p) =
      { u with router := u.router.record k x d, postings := [{ pos := p, cue := q, level := level }] } := by
  have hpost : u.router.posting k (some p) = [{ pos := p, cue := q, level := level }] := by
    simp only [Router.posting, hr]
  simp only [Units.raise, Units.onMedia, Media.raise, hpost, hu, List.nil_append]

/-- What settling such an event does to the rest of the state (R121). -/
theorem raised_routedTo {s : State} {k : EventKind} {q : CueIx} {level : Level} (x : Subject) (d : BitVec 16)
    (p : PosIx) (hs : s.postings = []) (hr : s.onlyRoute k q level) :
    ({ s with router := s.router.record k x d } : State).routedTo
      { s with toUnits := (s.toUnits.raise k x d (some p)).settle } p q level :=
  settled_routedTo (s := { s with router := s.router.record k x d }) hs (raise_routed x d p hs hr.1)

/-- The count of draws is no part of what a posting does. -/
theorem routedTo_nonce {s t : State} {p : PosIx} {q : CueIx} {level : Level} (h : s.routedTo t p q level) :
    ({ s with nonce := t.nonce } : State).routedTo t p q level := by
  obtain ⟨haway, hempty, hrest⟩ := h
  refine ⟨fun h => ?_, fun h hi => ?_, fun h hi => ⟨fun hf => ?_, fun hl hk => ?_, (hrest h hi).2.2⟩⟩
  · have ht := haway h
    subst ht
    rfl
  · have ht := hempty h hi
    subst ht
    rfl
  · have ht := (hrest h hi).1 hf
    subst ht
    rfl
  · have ht := (hrest h hi).2.1 hl hk
    subst ht
    rfl

variable {s : State} {q : CueIx} {level : Level}

/-! ## NOISE_HIGH -/

theorem highTimer_routed {p : PosIx} (hs : s.postings = []) (hr : s.onlyRoute .noiseHigh q level)
    (ha : (look s.sup p).alarm = .normal) (ht : 2000 ≤ (look s.sup p).highTimer) :
    ∃ t : State, exec (.highTimerExpiry p) s = .next t ∧
      ({ s with
        sup := upd s.sup p fun c => { c with alarm := .high, highTimer := 0, lowTimer := 0 }
        router := s.router.record .noiseHigh (.position p)
          (detail2 (sbyte (look s.sup p).floor) (sbyte (look s.sup p).threshold)) } : State).routedTo t p q level := by
  let v : State := { s with sup := upd s.sup p fun c => c.setAlarm .high }
  refine ⟨_, congrArg Host.Outcome.next ((alarmExpiry_at_limit (alarmReached_high.mpr ⟨ha, ht⟩)).trans
    (congrArg State.settled (alarmTurn_eq s p .high))), ?_⟩
  exact raised_routedTo (s := v) (.position p)
    (detail2 (sbyte (look s.sup p).floor) (sbyte (look s.sup p).threshold)) p hs hr

theorem blockEnd_routed {p : PosIx} (hs : s.postings = []) (hr : s.onlyRoute .noiseHigh q level)
    (hp : (look s.pos p).present = true) (hg : 64 ≤ (look s.sup p).gather.length)
    (ha : (look s.sup p).alarm = .normal) (ht : 2000 ≤ (look s.sup p).highTimer + 8)
    (hl : 500 ≤ (look s.sup p).heard.learned) (hf : (look s.sup p).threshold < (look s.sup p).heard.floor) :
    ∃ t : State, exec (.analysisBlockEnd p) s = .next t ∧ (look t.sup p).alarm = .high ∧
      ({ s with
        sup := t.sup
        router := s.router.record .noiseHigh (.position p)
          (detail2 (sbyte (look s.sup p).heard.floor) (sbyte (look s.sup p).threshold)) } : State).routedTo
        t p q level := by
  let v : State := { s with sup := put s.sup p ((look s.sup p).judge.setAlarm .high).emit }
  refine ⟨_, (exec_blockEnd_of_due (blockDue_iff.mpr ⟨hp, hg⟩)).trans (congrArg (fun t => Host.Outcome.next t.settled)
    (blockEnd_turning (judge_reaches_high.mpr ⟨ha, hl, hf, ht⟩))), ?_, ?_⟩
  · show (look (put s.sup p ((look s.sup p).judge.setAlarm .high).emit) p).alarm = .high
    rw [look_put_self]
    rfl
  · exact raised_routedTo (s := v) (.position p)
      (detail2 (sbyte (look s.sup p).heard.floor) (sbyte (look s.sup p).threshold)) p hs hr

/-! ## MUTE_ON -/

/-- A change to effective mute is an event of a position with its delta set (R6). -/
theorem muteChange_on (u : Units) (p : PosIx) (f : Position → Position) {x : Position} (hx : f (look u.pos p) = x)
    (hm : x.muted = true) :
    (u.onPos p f).muteChange p false =
      ({ u with pos := put u.pos p { x with muteChanged := !u.router.enters .muteOn } } : Units).raise .muteOn
        (.position p) x.muteDetail (some p) := by
  have hl : look (u.onPos p f).pos p = x := by rw [Units.onPos_pos, look_upd_self, hx]
  have hk : x.muteKind = .muteOn := by rw [Position.muteKind, hm, if_pos rfl]
  rw [muteChange_of_ne (by rw [hl, hm]; nofun), hl, hk, upd, hl, hk, Units.onPos_pos, put_upd]
  rfl

theorem pmut_routed {tag : BitVec 16} {p : PosIx} {x : Position} (hs : s.takes) (hr : s.onlyRoute .muteOn q level)
    (hx : x = { look s.pos p with hostMute := true }) (hm : x.muted = true) (hwas : (look s.pos p).muted = false) :
    ∃ t : State,
      exec (.pmut tag [byte p, 1]) s = .next (t.replied tag (ascii4 'P' 'M' 'U' 'T') [byte p, 1] (.ok [])) ∧
        ({ s with
          pos := put s.pos p { x with muteChanged := !s.router.enters .muteOn }
          sup := t.sup, nonce := t.nonce
          router := s.router.record .muteOn (.position p) (detail2 (flagByte x.keyHeld) 1) } : State).routedTo
          t p q level := by
  let l := s.link.accepted { tag := tag, name := ascii4 'P' 'M' 'U' 'T', payload := [byte p, 1], reply := none }
  have hmute := muteChange_on s.toUnits p (fun x => { x with hostMute := true }) hx.symm hm
  rw [← hwas] at hmute
  obtain ⟨gen, n, hsync, -, -⟩ := syncGenerator_eq
    { s with
      toUnits := (s.toUnits.onPos p fun x => { x with hostMute := true }).muteChange p (look s.pos p).muted
      link := l } p
  have hown := (ownPmut_eq { s with link := l } p true).trans (congrArg (·, Reply.ok []) hsync)
  have hrun := request_eq hs.1 (by simp) (by rfl) hown rfl
  have hdetail : x.muteDetail = detail2 (flagByte x.keyHeld) 1 := by
    rw [hx]
    rfl
  let v : State :=
    { s with
      pos := put s.pos p { x with muteChanged := !s.router.enters .muteOn }
      sup := upd s.sup p fun c => { c with generator := gen }, nonce := n }
  have hv := raised_routedTo (s := v) (.position p) (detail2 (flagByte x.keyHeld) 1) p hs.2 hr
  refine ⟨{ v with
      toUnits := (v.toUnits.raise .muteOn (.position p) (detail2 (flagByte x.keyHeld) 1) (some p)).settle },
    congrArg Host.Outcome.next (hrun.trans ?_), routedTo_nonce hv⟩
  rw [hmute, hdetail]
  rfl

/-! ## PARK_ALARM -/

theorem target_eq_some {l : Leg} {p : PosIx} (h : l.bound = some p ∨ (l.bound = none ∧ l.owner = some p)) :
    l.target = some p := by
  unfold Leg.target
  rcases h with h | ⟨hb, ho⟩
  · rw [h]; rfl
  · rw [hb, ho]; rfl

/-- A park alarm due, at the position that its leg resolves to (R35, R166). -/
theorem exec_parkAlarm {n : LegIx} {g : GroupIx} (hdue : s.toUnits.alarmDue n = true)
    (hg : (look s.legs n).group = some g) :
    exec (.parkAlarmExpiry n) s =
      .next { s with
        toUnits := ((s.toUnits.onLeg n fun l => { l with fired := true }).raise .parkAlarm (.leg n)
          (detail2 (ixByte (look s.legs n).owner) (byte g)) (look s.legs n).target).settle } := by
  have h := parkAlarm_of_due hdue
  rw [hg] at h
  exact congrArg (fun u => Host.Outcome.next (s.onUnits fun _ => Units.settle u)) h

/-! ## COACH_ENDED -/

theorem cdet_routed {tag : BitVec 16} {p : PosIx} {x : Pair} (hs : s.takes) (hr : s.onlyRoute .coachEnded q level)
    (hx : s.toUnits.pairOf p = some x) (ha : x.active = false) :
    ∃ t : State,
      exec (.cdet tag [byte p]) s =
        .next (t.replied tag (ascii4 'C' 'D' 'E' 'T') [byte p]
          (.ok [byte (if x.supervisor = p then x.agent else x.supervisor)])) ∧
      ({ s with
        toUnits :=
          { s.toUnits.unpaired x with
            router := s.router.record .coachEnded (.position x.agent) (detail2 (byte x.supervisor) 0) } } :
        State).routedTo t x.agent q level := by
  let v : State := { s with toUnits := s.toUnits.unpaired x }
  have hexec := exec_cdet (tag := tag) hs hx
  rw [endPair_pending _ _ _ ha] at hexec
  exact ⟨{ v with toUnits := (v.toUnits.raise .coachEnded (.position x.agent) (detail2 (byte x.supervisor) 0)
    (some x.agent)).settle }, hexec, raised_routedTo (s := v) (.position x.agent) _ x.agent hs.2 hr⟩

/-- Settles O59: the router's requests by what they read back, and each routed event as the one posting that its
command leaves to settle. -/
theorem routNmodNfetServeRecords : Obligations.RoutNmodNfetServeRecords := by
  unfold Obligations.RoutNmodNfetServeRecords
  refine ⟨?_, ?_, ?_⟩
  · intro s tag k x y z notify route mode payload hs hpl
    subst hpl
    refine ⟨?_, ?_, ?_⟩ <;> refine congrArg Host.Outcome.next ?_
    · rw [request_router hs (rout_length k rfl) (rout_port tag k rfl) (ownRout_read ..), route_bytes]
      rfl
    · exact rout_set tag k notify z route hs
    · exact request_router hs (by simp) (by rfl) (ownNmod_code ..)
  · intro s tag n hs hn
    exact congrArg Host.Outcome.next (nfet_reply tag hs hn)
  · intro s u q level hs
    refine ⟨fun p hr ha ht hu => ?_, fun p c d hr hc hd hp hg ha _ ht hl hf => ?_, fun tag p x ht hr hx hm hw => ?_,
      fun n g t0 hr hst hfired hg ht ha hdue hu => ?_, fun tag p x ht hr hx ha hu => ?_⟩
    · subst hu
      exact highTimer_routed hs hr ha ht
    · subst hc hd
      exact blockEnd_routed hs hr hp hg ha ht hl hf
    · exact pmut_routed ht hr hx hm hw
    · have hd : s.toUnits.alarmDue n = true := (alarmDue_eq s.toUnits hg ht hst hfired).mpr ⟨ha, hdue⟩
      have hexec := exec_parkAlarm hd hg
      subst hu
      refine ⟨fun hb ho => ?_, fun p hp => ?_⟩
      · have htarget : (look s.legs n).target = none := by rw [Leg.target, hb, ho]; rfl
        rw [hexec, htarget, raise_untargeted, Units.settle_of_none _ (by exact hs)]
        rfl
      · rw [target_eq_some hp] at hexec
        exact ⟨_, hexec, raised_routedTo
          (s := { s with legs := upd s.legs n fun l => { l with fired := true } }) (.leg n) _ p hs hr⟩
    · subst hu
      exact cdet_routed ht hr hx ha

end Sys2Proof.Machine
end

section
/-! PROOFS. Prompts keep what cursors read of the clips. -/

namespace Sys2Proof.Machine

/-- What cursors read of each clip as it was. -/
structure Units.SameClips (u t : Units) : Prop where
  info : ∀ id, t.store.info id = u.store.info id

namespace Units.SameClips

variable {u t v : Units}

theorem refl : u.SameClips u := ⟨fun _ => rfl⟩

theorem trans (h : u.SameClips t) (k : t.SameClips v) : u.SameClips v :=
  ⟨fun id => (k.info id).trans (h.info id)⟩

end Units.SameClips

section

variable (u : Units) (p : PosIx)

theorem onWhisper_clips (f : Whisper → Whisper) : u.SameClips (u.onWhisper p f) := ⟨fun _ => rfl⟩

theorem startEntry_clips (e : Entry) : u.SameClips (u.startEntry p e).1 :=
  ⟨(startCursor_plays u.legs u.toMedia (posCursor p) e.cue e.saved).clips⟩

theorem completeEntry_clips (e : Entry) : u.SameClips (u.completeEntry p e) := by
  unfold Units.completeEntry
  dsimp only
  split
  · exact ⟨(connectReport_spares (u.onWhisper p fun w => { w with playing := .none }) p .completed).clips⟩
  · exact ⟨fun _ => rfl⟩

theorem stopPos_clips : u.SameClips (u.stopPos p) := ⟨(stopCursor_plays u.legs u.toMedia (posCursor p)).clips⟩

theorem takePlace_clips : u.SameClips (u.takePlace p).1 :=
  ⟨(stopCursor_plays u.legs (u.toMedia.pauseCursor (posCursor p)) (posCursor p)).clips⟩

theorem pushPlaying_clips (byCoach : Bool) : u.SameClips (u.pushPlaying p byCoach) := by
  unfold Units.pushPlaying
  split
  · exact .refl
  · exact .refl
  · dsimp only
    split
    · exact (stopPos_clips u p).trans (onWhisper_clips ..)
    · exact ⟨fun _ => rfl⟩
    · exact (takePlace_clips u p).trans (onWhisper_clips ..)

theorem nextLoop_clips (fuel : Nat) : u.SameClips (u.nextLoop p fuel) := by
  induction fuel generalizing u with
  | zero => exact .refl
  | succ fuel ih =>
    have go {v : Units} (e : Entry) (hv : u.SameClips v) :
        u.SameClips (if (v.startEntry p e).2 = true then ((v.startEntry p e).1.completeEntry p e).nextLoop p fuel
          else (v.startEntry p e).1) := by
      split
      · exact ((hv.trans (startEntry_clips ..)).trans (completeEntry_clips ..)).trans (ih _)
      · exact hv.trans (startEntry_clips ..)
    unfold Units.nextLoop
    dsimp only
    split
    · split
      · refine go _ ?_
        split
        · exact (takePlace_clips u p).trans (onWhisper_clips ..)
        · exact onWhisper_clips ..
      · split
        · exact ⟨fun _ => rfl⟩
        · exact go _ (onWhisper_clips ..)
    · exact go _ (onWhisper_clips ..)
    · exact .refl

theorem next_clips : u.SameClips (u.next p) := by
  unfold Units.next
  dsimp only
  split
  · exact nextLoop_clips ..
  · exact .refl
  · exact .refl

theorem startHead_clips : u.SameClips (u.startHead p) := by
  unfold Units.startHead
  split
  · exact .refl
  next q _ =>
    have hv := onWhisper_clips u p fun w => { w with queue := q }
    dsimp only
    split
    · exact ((hv.trans (startEntry_clips ..)).trans (completeEntry_clips ..)).trans (next_clips ..)
    · exact hv.trans (startEntry_clips ..)

theorem schedule_clips : u.SameClips (u.schedule p) := by
  unfold Units.schedule
  split
  · exact startHead_clips ..
  · exact .refl
  · split
    · exact (pushPlaying_clips ..).trans (startHead_clips ..)
    · exact .refl

theorem post_clips (q : CueIx) (lvl : Level) (o : Origin) : u.SameClips (u.post p q lvl o).1 := by
  unfold Units.post
  split
  · exact ⟨fun _ => rfl⟩
  · exact (onWhisper_clips u p _).trans (schedule_clips ..)

end

end Sys2Proof.Machine
end

section
/-! PROOFS. ANNC and the expiry of an announcement (O48). -/

namespace Sys2Proof.Machine

/-! ## The postings of an announcement -/

/-- One position's turn in an announcement (R133). -/
def Units.announceAt (a : Counting) (acc : Units × Nat) (p : PosIx) : Units × Nat :=
  if acc.1.included a.mask p then
    ((acc.1.post p a.cue a.level .announce).1,
      acc.2 + if (acc.1.post p a.cue a.level .announce).2 then 1 else 0)
  else acc

theorem announce_eq (u : Units) (a : Counting) : u.announce a = (List.finRange 48).foldl (Units.announceAt a) (u, 0) :=
  rfl

theorem fire_eq (u : Units) (k : SlotIx) (a : Counting) :
    u.fire k a =
      ({ (u.announce a).1 with
        router := (u.announce a).1.router.record .announceFired (.slot k) (detail1 (byte (u.announce a).2)) },
        (u.announce a).2) := by
  unfold Units.fire
  rw [← raise_untargeted]

/-- Whether a position takes an entry of an announcement (R121, R133). -/
def Units.takesEntry (u : Units) (mask : BitVec 8) (q : CueIx) (p : PosIx) : Bool :=
  decide ((look u.pos p).state ≠ .absent ∧ (look u.pos p).floors &&& mask ≠ 0 ∧ (look u.pos p).state ≠ .loopback ∧
    (look u.cues q).items ≠ [] ∧ (look u.whisper p).queue.length < 8)

theorem takers_eq (s : State) (mask : BitVec 8) (q : CueIx) :
    s.takers mask q = (List.finRange 48).countP (s.toUnits.takesEntry mask q) := rfl

section

variable {u v : Units} {a : Counting} {p : PosIx}

theorem included_iff :
    u.included a.mask p = true ↔ (look u.pos p).state ≠ .absent ∧ (look u.pos p).floors &&& a.mask ≠ 0 := by
  simp only [Units.included, Bool.and_eq_true, decide_eq_true_eq]

theorem announceAt_of_included (n : Nat) (h : u.included a.mask p = true) :
    Units.announceAt a (u, n) p =
      ((u.post p a.cue a.level .announce).1, n + if (u.post p a.cue a.level .announce).2 then 1 else 0) := if_pos h

theorem announceAt_of_not_included (n : Nat) (h : ¬ u.included a.mask p = true) :
    Units.announceAt a (u, n) p = (u, n) := if_neg h

theorem dropReason_none_iff (q : CueIx) :
    u.dropReason p q = none ↔
      ((look u.pos p).state ≠ .absent ∧ (look u.pos p).state ≠ .loopback) ∧ (look u.cues q).items ≠ [] ∧
        (look u.whisper p).queue.length < 8 := by
  rw [dropReason_eq, ← not_or, ← Nat.not_le]
  by_cases haway : (look u.pos p).state = .absent ∨ (look u.pos p).state = .loopback
  · rw [if_pos haway]
    exact iff_of_false nofun fun h => h.1 haway
  · rw [if_neg haway, and_iff_right haway]
    by_cases hitems : (look u.cues q).items = []
    · rw [if_pos hitems]
      exact iff_of_false nofun fun h => h.1 hitems
    · rw [if_neg hitems, and_iff_right hitems]
      exact ite_eq_right_iff.trans (forall_congr' fun _ => iff_of_false nofun id)

theorem post_placed (q : CueIx) (lvl : Level) (o : Origin) :
    (u.post p q lvl o).2 = true ↔ u.dropReason p q = none := by
  cases h : u.dropReason p q with
  | none => rw [post_of_none h]; exact iff_of_true rfl rfl
  | some r => rw [post_of_reason h]; exact iff_of_false nofun nofun

/-- A turn counts where the position takes an entry. -/
theorem announceAt_count (n : Nat) :
    (Units.announceAt a (u, n) p).2 = n + if u.takesEntry a.mask a.cue p then 1 else 0 := by
  have htakes : u.takesEntry a.mask a.cue p = true ↔
      u.included a.mask p = true ∧ (u.post p a.cue a.level .announce).2 = true := by
    rw [post_placed, dropReason_none_iff, included_iff, Units.takesEntry, decide_eq_true_eq]
    tauto
  by_cases hi : u.included a.mask p = true
  · rw [announceAt_of_included n hi]
    simp only [htakes, hi, true_and]
  · rw [announceAt_of_not_included n hi, if_neg fun h => hi (htakes.mp h).1]
    rfl

/-- What the turns of some positions leave: positions, cue lists, routes and the clips, and the whisper states of
the other positions. -/
structure Units.Announces (ps : List PosIx) (u t : Units) : Prop where
  keeps : u.Keeps t
  clips : u.SameClips t
  grows : u.router.Grows t.router
  others : ∀ p, p ∉ ps → look t.whisper p = look u.whisper p

theorem Units.Announces.takesEntry {ps : List PosIx} (h : Units.Announces ps u v) (mask : BitVec 8) (q : CueIx)
    (hp : p ∉ ps) : v.takesEntry mask q p = u.takesEntry mask q p := by
  simp only [Units.takesEntry, h.keeps.pos, h.keeps.media.cues, h.others p hp]

theorem announceAt_announces (n : Nat) : Units.Announces [p] u (Units.announceAt a (u, n) p).1 := by
  by_cases hi : u.included a.mask p = true
  · rw [announceAt_of_included n hi]
    have hprompts := post_prompts u p a.cue a.level (o := .announce) (by decide)
    exact ⟨post_keeps .., post_clips .., hprompts.grows, fun q hq =>
      (post_acts ..).whisper q fun he => hq (List.mem_singleton.mpr he)⟩
  · rw [announceAt_of_not_included n hi]
    exact ⟨.refl, .refl, .refl, fun _ _ => rfl⟩

theorem announced (ps : List PosIx) (u : Units) (n : Nat) :
    Units.Announces ps u (ps.foldl (Units.announceAt a) (u, n)).1 := by
  induction ps generalizing u n with
  | nil => exact ⟨.refl, .refl, .refl, fun _ _ => rfl⟩
  | cons p ps ih =>
    have hone := announceAt_announces (u := u) (a := a) (p := p) n
    have hrest := ih (Units.announceAt a (u, n) p).1 (Units.announceAt a (u, n) p).2
    refine ⟨hone.keeps.trans hrest.keeps, hone.clips.trans hrest.clips, hone.grows.trans hrest.grows, fun q hq => ?_⟩
    rw [List.mem_cons, not_or] at hq
    obtain ⟨hqp, hqs⟩ := hq
    exact (hrest.others q hqs).trans (hone.others q (by simpa using hqp))

/-- The number placed is that of the positions that take an entry as the announcement finds them (R133). -/
theorem announced_count (ps : List PosIx) (hps : ps.Nodup) (u : Units) (n : Nat) :
    (ps.foldl (Units.announceAt a) (u, n)).2 = n + ps.countP (u.takesEntry a.mask a.cue) := by
  induction ps generalizing u n with
  | nil => rfl
  | cons p ps ih =>
    obtain ⟨hp, hps⟩ := List.nodup_cons.mp hps
    have hone := announceAt_announces (u := u) (a := a) (p := p) n
    have hsame : ps.countP ((Units.announceAt a (u, n) p).1.takesEntry a.mask a.cue) =
        ps.countP (u.takesEntry a.mask a.cue) :=
      List.countP_congr fun q hq => by
        rw [hone.takesEntry a.mask a.cue (by rw [List.mem_singleton]; rintro rfl; exact hp hq)]
    have hrest := ih hps (Units.announceAt a (u, n) p).1 (Units.announceAt a (u, n) p).2
    rw [List.foldl_cons, List.countP_cons]
    refine hrest.trans ?_
    rw [hsame, announceAt_count]
    omega

theorem announce_announces (u : Units) (a : Counting) : Units.Announces (List.finRange 48) u (u.announce a).1 := by
  rw [announce_eq]
  exact announced ..

theorem announce_count (u : Units) (a : Counting) :
    (u.announce a).2 = (List.finRange 48).countP (u.takesEntry a.mask a.cue) := by
  rw [announce_eq, announced_count _ (List.nodup_finRange 48), Nat.zero_add]

/-- A position's turn as it finds the position: what it made is what the announcement leaves there. -/
theorem announce_turn (u : Units) (a : Counting) (p : PosIx) :
    ∃ (v : Units) (n : Nat), u.Keeps v ∧ u.SameClips v ∧ look v.whisper p = look u.whisper p ∧
      look (u.announce a).1.whisper p = look (Units.announceAt a (v, n) p).1.whisper p ∧
      (Units.announceAt a (v, n) p).1.router.Grows (u.announce a).1.router := by
  obtain ⟨front, back, hsplit⟩ := List.append_of_mem (List.mem_finRange p)
  have hnodup := List.nodup_finRange 48
  rw [hsplit, List.nodup_append] at hnodup
  obtain ⟨-, hback, hdisjoint⟩ := hnodup
  have hfront : p ∉ front := fun h => hdisjoint p h p List.mem_cons_self rfl
  have hbefore := announced (a := a) front u 0
  let x := front.foldl (Units.announceAt a) (u, 0)
  have hafter := announced (a := a) back (Units.announceAt a x p).1 (Units.announceAt a x p).2
  refine ⟨x.1, x.2, hbefore.keeps, hbefore.clips, hbefore.others p hfront, ?_, ?_⟩ <;>
    rw [announce_eq, hsplit, List.foldl_append, List.foldl_cons]
  · exact hafter.others p (List.nodup_cons.mp hback).1
  · exact hafter.grows

theorem announce_nobody (h : ∀ p, ¬ u.included a.mask p = true) : u.announce a = (u, 0) := by
  rw [announce_eq]
  generalize List.finRange 48 = ps
  induction ps with
  | nil => rfl
  | cons p ps ih => rw [List.foldl_cons, announceAt_of_not_included 0 (h p), ih]

end

end Sys2Proof.Machine
end

section
/-! PROOFS. ANNC and the expiry of an announcement: the slots and what a firing leaves (O48). -/

namespace Sys2Proof.Machine

/-! ## Slots -/

theorem idleSlot_none {s : State} (h : ∀ j, look s.slots j ≠ none) : s.idleSlot = none :=
  List.find?_eq_none.mpr fun j _ => by simp [h j]

theorem idleSlot_eq {s : State} {k : SlotIx} (hk : look s.slots k = none) (hj : ∀ j < k, look s.slots j ≠ none) :
    s.idleSlot = some k := by
  refine List.find?_eq_some_iff_getElem.mpr ⟨by simp [hk], k.val, by simp, by simp, fun i hi => ?_⟩
  have := hj ⟨i, hi.trans k.isLt⟩ hi
  simpa [Option.isSome_iff_ne_none] using this

/-! ## ANNC -/

section

variable {s : State} {k : SlotIx} {a : Counting} {ms : Nat}

theorem readDelay (h : ms ≤ 60000) : readRange 0 60000 (leNat (le2 ms)) = some ms := by
  rw [leNat_le2 (by omega), readRange_of_mem (Nat.zero_le _) h]

theorem ownAnnc_full (h : s.idleSlot = none) (hm : a.mask ≠ 0) (hms : ms ≤ 60000) :
    ownAnnc ([a.mask, byte a.cue, a.level.code] ++ le2 ms) s = (s, .refuse .noroom) := by
  have hread := readDelay hms
  rw [le2] at hread ⊢
  simp only [ownAnnc, List.cons_append, List.nil_append, readCue_byte, readLevel_code, hread, hm, if_false, h]

theorem ownAnnc_counting (h : s.idleSlot = some k) (hm : a.mask ≠ 0) (hms : ms ≤ 60000) (h0 : 0 < ms)
    (ha : a.left = 8 * ms) :
    ownAnnc ([a.mask, byte a.cue, a.level.code] ++ le2 ms) s =
      ({ s with slots := put s.slots k (some a) }, .ok [byte k, 0xFF]) := by
  have hread := readDelay hms
  have hsame : ({ mask := a.mask, cue := a.cue, level := a.level, left := framesOf ms } : Counting) = a := by
    rw [framesOf, ← ha]
  rw [le2] at hread ⊢
  simp only [ownAnnc, List.cons_append, List.nil_append, readCue_byte, readLevel_code, hread, hm, if_false, h,
    Nat.ne_of_gt h0, hsame]

theorem ownAnnc_fires (h : s.idleSlot = some k) (hm : a.mask ≠ 0) (ha : a.left = 0) :
    ownAnnc [a.mask, byte a.cue, a.level.code, 0, 0] s =
      ({ s with toUnits := (s.toUnits.fire k a).1 }, .ok [byte k, byte (s.toUnits.fire k a).2]) := by
  have hread : readRange 0 60000 (leNat [0, 0]) = some 0 := rfl
  have hsame : ({ mask := a.mask, cue := a.cue, level := a.level, left := framesOf 0 } : Counting) = a := by
    rw [framesOf, Nat.mul_zero, ← ha]
  simp only [ownAnnc, readCue_byte, readLevel_code, hread, hm, if_false, if_true, h, hsame]

/-- The firing of a slot as the announcement is made, once what it brings about has settled. -/
theorem exec_annc_fires {tag : BitVec 16} (hs : s.takes) (h : s.idleSlot = some k) (hm : a.mask ≠ 0)
    (ha : a.left = 0) :
    exec (.annc tag [a.mask, byte a.cue, a.level.code, 0, 0]) s =
      .next ({ s with toUnits := (s.toUnits.fire k a).1.settle }.replied tag (ascii4 'A' 'N' 'N' 'C')
        [a.mask, byte a.cue, a.level.code, 0, 0] (.ok [byte k, byte (s.toUnits.fire k a).2])) := by
  let l := s.link.accepted
    { tag := tag, name := ascii4 'A' 'N' 'N' 'C', payload := [a.mask, byte a.cue, a.level.code, 0, 0], reply := none }
  have hown : ownAnnc [a.mask, byte a.cue, a.level.code, 0, 0] { s with link := l } =
      ({ s with link := l, toUnits := (s.toUnits.fire k a).1 }, .ok [byte k, byte (s.toUnits.fire k a).2]) :=
    ownAnnc_fires (s := { s with link := l }) h hm ha
  generalize s.toUnits.fire k a = x at hown ⊢
  exact congrArg Host.Outcome.next (request_eq hs.1 (by simp) (by rfl) hown rfl)

end

/-! ## A firing -/

section

variable {s : State} {k : SlotIx} {a : Counting} {p : PosIx}

theorem reached_iff {mask : BitVec 8} : s.reached mask p ↔ s.toUnits.included mask p = true :=
  included_iff (a := { mask := mask, cue := 0, level := .urgent, left := 0 }).symm

theorem fire_nobody (h : ∀ p, ¬ s.reached a.mask p) :
    s.toUnits.fire k a = ({ s.toUnits with router := s.router.record .announceFired (.slot k) 0 }, 0) := by
  have hzero : detail1 (byte 0) = 0 := by decide
  rw [fire_eq, announce_nobody fun p hp => h p (reached_iff.mpr hp)]
  dsimp only
  rw [hzero]

theorem fire_count : (s.toUnits.fire k a).2 = s.takers a.mask a.cue := by
  rw [fire_eq]
  dsimp only
  rw [announce_count, takers_eq]

theorem fire_keeps (u : Units) (k : SlotIx) (a : Counting) : u.Keeps (u.fire k a).1 := by
  have h := (announce_announces u a).keeps
  rw [fire_eq]
  generalize u.announce a = x at h ⊢
  dsimp only
  rw [← raise_untargeted]
  exact h.trans (units_onMedia_keeps x.1 _ (raise_keeps ..))

/-- ANNOUNCE_FIRED is the last record where it is notified, with the number of entries placed (R133). -/
theorem fire_last (hn : (s.router.route .announceFired).notify = true) :
    (s.toUnits.fire k a).1.router.overflow = true ∨
      (s.toUnits.fire k a).1.router.notices.getLast? =
        some
          { kind := .announceFired, subject := .slot k, stamp := s.router.stamp
            detail := detail1 (byte (s.takers a.mask a.cue)) } := by
  have hk := (announce_announces s.toUnits a).keeps.media
  have hcount : (s.toUnits.announce a).2 = s.takers a.mask a.cue := (announce_count ..).trans (takers_eq ..).symm
  rw [fire_eq]
  generalize s.toUnits.announce a = x at hk hcount ⊢
  have hlast := record_last (r := x.1.router) (k := .announceFired) (.slot k) (detail1 (byte x.2))
    (by rw [route_of_keeps hk]; exact hn)
  rw [hk.stamp, hcount] at hlast
  rw [← hcount] at hlast ⊢
  exact hlast

theorem fire_whisper (u : Units) : (u.fire k a).1.whisper = (u.announce a).1.whisper := by
  rw [fire_eq]

theorem fire_grows (u : Units) : (u.announce a).1.router.Grows (u.fire k a).1.router := by
  rw [fire_eq]
  generalize u.announce a = x
  exact record_grows ..

/-! ## What a firing leaves at one position -/

/-- A position that the announcement does not reach keeps its prompts. -/
theorem fire_unreached (h : ¬ s.reached a.mask p) : look (s.toUnits.fire k a).1.whisper p = look s.whisper p := by
  obtain ⟨v, n, hk, -, hw, hturn, -⟩ := announce_turn s.toUnits a p
  have hv : ¬ v.included a.mask p = true := fun hv => h (reached_iff.mpr
    (included_iff.mpr (by rw [← hk.pos]; exact included_iff.mp hv)))
  rw [fire_whisper, hturn, announceAt_of_not_included n hv, hw]

/-- A position that is reached takes the posting, or not, as the announcement finds it. -/
theorem fire_reached (k : SlotIx) (h : s.reached a.mask p) :
    ∃ v : Units, s.toUnits.Keeps v ∧ s.toUnits.SameClips v ∧ look v.whisper p = look s.whisper p ∧
      v.dropReason p a.cue = s.toUnits.dropReason p a.cue ∧
      look (s.toUnits.fire k a).1.whisper p = look (v.post p a.cue a.level .announce).1.whisper p ∧
      (v.post p a.cue a.level .announce).1.router.Grows (s.toUnits.fire k a).1.router := by
  obtain ⟨v, n, hk, hc, hw, hturn, hgrows⟩ := announce_turn s.toUnits a p
  have hv : v.included a.mask p = true :=
    included_iff.mpr (by rw [hk.pos]; exact included_iff.mp (reached_iff.mp h))
  rw [announceAt_of_included n hv] at hturn hgrows
  refine ⟨v, hk, hc, hw, ?_, (congrArg (look · p) (fire_whisper _)).trans hturn, hgrows.trans (fire_grows _)⟩
  rw [dropReason_eq, dropReason_eq, hk.pos, hk.media.cues, hw]

/-- A posting that cannot be placed leaves the prompts and its record (R121). -/
theorem fire_dropped {r : DropReason} (h : s.reached a.mask p) (hr : s.toUnits.dropReason p a.cue = some r) :
    look (s.toUnits.fire k a).1.whisper p = look s.whisper p ∧
      ((s.router.route .whisperDropped).notify = true →
        (s.toUnits.fire k a).1.router.overflow = true ∨
          { kind := .whisperDropped, subject := .position p, stamp := s.router.stamp
            detail := droppedDetail a.cue .announce r } ∈ (s.toUnits.fire k a).1.router.notices) := by
  obtain ⟨v, hk, -, hw, hd, hturn, hgrows⟩ := fire_reached k h
  rw [post_of_reason (hd.trans hr)] at hturn hgrows
  refine ⟨hturn.trans hw, fun hn => ?_⟩
  have hlast := record_last (r := v.router) (k := .whisperDropped) (.position p) (droppedDetail a.cue .announce r)
    (by rw [route_of_keeps hk.media]; exact hn)
  rw [hk.media.stamp] at hlast
  exact hlast.imp hgrows.overflow fun h => hgrows.notices _ (List.mem_of_getLast? h)

/-- Why a position that is reached drops the posting, as the detail of the record has it (Table 12-5). -/
theorem announce_reason (h : s.reached a.mask p)
    (hdrop : (decide ((look s.pos p).state = .loopback) || (look s.cues a.cue).items.isEmpty ||
      decide (8 ≤ (look s.whisper p).queue.length)) = true) :
    ∃ r, s.toUnits.dropReason p a.cue = some r ∧
      droppedDetail a.cue .announce r = detail2 (byte a.cue)
        (2 + 16 * if decide ((look s.pos p).state = .loopback) = true then 0
          else if (look s.cues a.cue).items.isEmpty = true then 1 else 2) := by
  have hreason := dropReason_eq s.toUnits p a.cue
  by_cases haway : (look s.pos p).state = .loopback
  · exact ⟨.state, by rw [hreason, if_pos (.inr haway)], by simp only [haway, decide_true, if_true]; rfl⟩
  · rw [if_neg (not_or.mpr ⟨h.1, haway⟩)] at hreason
    by_cases hempty : (look s.cues a.cue).items = []
    · exact ⟨.empty, by rw [hreason, if_pos hempty], by simp only [haway, hempty, decide_false]; rfl⟩
    · rw [if_neg hempty] at hreason
      have hfull : 8 ≤ (look s.whisper p).queue.length := by simpa [haway, hempty] using hdrop
      exact ⟨.full, by rw [hreason, if_pos hfull], by simp only [haway, List.isEmpty_iff, hempty, decide_false]; rfl⟩

theorem announce_room (h : s.reached a.mask p)
    (hroom : (decide ((look s.pos p).state = .loopback) || (look s.cues a.cue).items.isEmpty ||
      decide (8 ≤ (look s.whisper p).queue.length)) = false) :
    s.toUnits.dropReason p a.cue = none ∧ (look s.cues a.cue).items ≠ [] := by
  simp only [Bool.or_eq_false_iff, decide_eq_false_iff_not, Nat.not_le, List.isEmpty_eq_false_iff] at hroom
  obtain ⟨⟨haway, hitems⟩, hlen⟩ := hroom
  exact ⟨(dropReason_none_iff a.cue).mpr ⟨⟨h.1, haway⟩, hitems, hlen⟩, hitems⟩

/-- A posting behind what keeps playing waits in service order (R115, R116). -/
theorem fire_waits (h : s.reached a.mask p) (hr : s.toUnits.dropReason p a.cue = none)
    (hk : (look s.whisper p).keepsPlaying (look s.pos p).nesting a.level) :
    look (s.toUnits.fire k a).1.whisper p =
      { look s.whisper p with
        queue := serviceOrder (look s.whisper p).queue (Entry.new a.cue a.level .announce .restart) } := by
  obtain ⟨v, hkeeps, -, hw, hd, hturn, -⟩ := fire_reached k h
  have hwait := place_waits (u := v) (p := p) (e := Entry.new a.cue a.level .announce .restart)
    (by rw [hw, hkeeps.pos]; exact hk)
  rw [hturn, post_of_none (hd.trans hr)]
  rw [hwait, Units.onWhisper_whisper, look_upd_self, hw]

/-- A posting plays where nothing does and its list can be entered (R116). -/
theorem fire_plays (h : s.reached a.mask p) (hr : s.toUnits.dropReason p a.cue = none)
    (hi : (look s.cues a.cue).items ≠ []) (hp : (look s.whisper p).playing = .none)
    (hq : (look s.whisper p).queue = []) (he : s.canEnter (look s.cues a.cue).items) :
    look (s.toUnits.fire k a).1.whisper p =
      { look s.whisper p with playing := .prompt (Entry.new a.cue a.level .announce .restart) } := by
  obtain ⟨v, hkeeps, hclips, hw, hd, hturn, -⟩ := fire_reached k h
  have hcues : v.cues = s.cues := hkeeps.media.cues
  have hplay := place_plays (u := v) (p := p) (e := Entry.new a.cue a.level .announce .restart)
    (by rw [hw]; exact hp) (by rw [hw]; exact hq) rfl rfl (by rw [hcues]; exact hi)
    fun it hit => admits_of_info hclips.info (admits_of_canEnter he (by rw [← hcues]; exact hit))
  rw [hturn, post_of_none (hd.trans hr), hplay, hw]

end

/-! ## The expiry of a slot -/

section

variable {s : State} {k : SlotIx} {a : Counting}

theorem exec_expiry_idle (hs : s.postings = [])
    (h : look s.slots k = none ∨ (look s.slots k = some a ∧ a.left ≠ 0)) :
    exec (.announcementExpiry k) s = .next s := by
  have hsame : s.announceExpiry k = s := by
    unfold State.announceExpiry
    rcases h with h | ⟨h, hl⟩
    · rw [h]
    · rw [h]
      exact if_neg hl
  exact congrArg Host.Outcome.next ((congrArg State.settled hsame).trans (settled_of_none hs))

theorem exec_expiry_fires (h : look s.slots k = some a) (hl : a.left = 0) :
    exec (.announcementExpiry k) s =
      .next { s with toUnits := (s.toUnits.fire k a).1.settle, slots := put s.slots k none } := by
  have hfires : s.announceExpiry k = { s with toUnits := (s.toUnits.fire k a).1, slots := put s.slots k none } := by
    unfold State.announceExpiry
    rw [h]
    dsimp only
    rw [if_pos hl]
  have hexec : exec (.announcementExpiry k) s = .next (s.announceExpiry k).settled := rfl
  rw [hexec, hfires]
  generalize s.toUnits.fire k a = x
  rfl

end

/-- Settles O48: each position's turn finds its prompts as they were, so the turns of a firing count and place what
the state before it says. -/
theorem announcementsCountAndFire : Obligations.AnnouncementsCountAndFire := by
  unfold Obligations.AnnouncementsCountAndFire
  intro s tag k a hs hm
  refine ⟨fun ht ms payload hms hpl => ?_, exec_expiry_idle hs, fun hk hl => ?_⟩
  · subst hpl
    refine ⟨fun hfull => congrArg Host.Outcome.next ?_, fun hk hj => ⟨fun h0 ha => congrArg Host.Outcome.next ?_,
      fun h0 hno => ?_⟩⟩
    · exact request_replied ht (by simp [le2]) (by rfl) (ownAnnc_full (idleSlot_none hfull) hm hms) rfl hs
    · exact request_replied (t := { s with slots := put s.slots k (some a) }) ht (by simp [le2]) (by rfl)
        (ownAnnc_counting (idleSlot_eq hk hj) hm hms h0 ha) rfl hs
    · subst h0
      have hexec := exec_annc_fires (a := { a with left := 0 }) (tag := tag) ht (idleSlot_eq hk hj) hm rfl
      rw [fire_nobody (a := { a with left := 0 }) hno, Units.settle_of_none _ (by exact hs)] at hexec
      exact hexec
  · refine ⟨_, exec_expiry_fires hk hl, rfl, (settle_pos _).trans (fire_keeps ..).pos, fun hno => ?_,
      fun ht payload hpl s' hs' hk' hj' => ?_, fun hr => ?_⟩
    · rw [fire_nobody hno, Units.settle_of_none _ (by exact hs)]
    · subst hpl hs'
      have hexec := exec_annc_fires (s := s') (tag := tag) ht (idleSlot_eq hk' hj') hm hl
      have hput : put (put s'.slots k (some a)) k none = s'.slots := by rw [put_put, ← hk', put_look]
      have hcount : (s'.toUnits.fire k a).2 = s'.takers a.mask a.cue := fire_count
      rw [hcount] at hexec
      dsimp only
      rw [hput]
      exact hexec
    · have hsettle : (s.toUnits.fire k a).1.settle = (s.toUnits.fire k a).1 :=
        settle_of_keeps hs hr (fire_keeps ..).media
      dsimp only
      rw [hsettle]
      refine ⟨fire_last, ?_⟩
      intro p w e away empty full hw he haway hempty hfull
      subst hw he haway hempty hfull
      refine ⟨fire_unreached, fun h hdrop => ?_, fun h hroom => ?_⟩
      · obtain ⟨r, hr, hdetail⟩ := announce_reason h hdrop
        rw [← hdetail]
        exact fire_dropped h hr
      · obtain ⟨hr, hi⟩ := announce_room h hroom
        exact ⟨fire_waits h hr, fire_plays h hr hi⟩

end Sys2Proof.Machine
end
